-- ==== Sys2Proof/Word.lean ====
section
/-!
DEFINITION. Word.lean: the word types and their plainest arithmetic, and the names of the dies.
A byte is a bit vector. A register or a descriptor field of varying width is a `Nat` kept below
its width by the one operation that writes it (Machine/Ops.lean), since the spec's registers run
from 32 to 24,832 bits (00 R9) and share one store.
-/
namespace Sys2Proof

/-- One byte of memory (00 R7). -/
abbrev Byte := BitVec 8

/-- An FP32 encoding (02 R53). -/
abbrev F32 := BitVec 32

/-- Bits high:low of a word (00 R7). -/
def bits (w hi lo : Nat) : Nat := (w >>> lo) % 2 ^ (hi + 1 - lo)

/-- One bit of a word. -/
def bit (w i : Nat) : Bool := w.testBit i

/-- A word with bits high:low replaced by the low bits of a value. -/
def putBits (w hi lo v : Nat) : Nat :=
  let m := 2 ^ (hi + 1 - lo)
  w - bits w hi lo * 2 ^ lo + (v % m) * 2 ^ lo

/-- Division rounded up. -/
def ceilDiv (a b : Nat) : Nat := (a + b - 1) / b

/-- A counter's sum, held at a ceiling (00 R14). -/
def satAdd (a b top : Nat) : Nat := min (a + b) top

/-- 1 for true. -/
def b2n (b : Bool) : Nat := if b then 1 else 0

namespace Machine

/-- A command descriptor: 64 bytes (06 R192), bit 0 the lowest bit of byte 0. -/
abbrev Desc := BitVec 512

/-- A tensor descriptor: 32 bytes (06 R196). -/
abbrev TDesc := BitVec 256

end Machine

end Sys2Proof
end

