-- ==== Sys2Proof/Machine/Types.lean ====
section
/-!
DEFINITION. The data that commands bring in from outside: flits and Ethernet frames, register accesses,
check outcomes of the units, readings of pins and sensors. Operands of `Instr` (Syntax.lean).
-/
namespace Sys2Proof.Machine

/-- One flit slot of a torus port (09 R337, R338): the 256 bytes of the flit, little-endian, and the link word. -/
structure Flit where
  data : Nat
  link : BitVec 64
  deriving DecidableEq, Repr, Inhabited

/-- One received Ethernet frame (13 R503, R506): MAC, VLAN tag, IPv6 and UDP fields and the UDP payload. -/
structure Frame where
  dstMac : Nat
  vlan : Option Nat
  nextHdr : Nat
  srcIp : Nat
  udpPort : Nat
  payload : List Byte
  deriving DecidableEq, Repr, Inhabited

/-- A host access to a window (13 R494, R498): offset, bytes, and the data of a write. -/
structure Access where
  off : Nat
  size : Nat
  data : Option (List Byte)
  deriving DecidableEq, Repr, Inhabited

/-- Bits that a fault flips in one cell of a matrix tile: row and column within the tile, group, bits. -/
structure CellFault where
  m : Nat
  n : Nat
  g : Nat
  mask : Nat
  deriving DecidableEq, Repr, Inhabited

/-- A stage of a matrix tile and the faults it meets (03 R89, R110): whether the compute stage ends, or the check and
epilogue stages too; an uncorrectable error of the tile store's ECC; bits of
a group adder's output; bits of one of the two copies of the accumulator after a group; bits of both copies alike
(steering, mapping, accumulator bank); bits of one lane of an epilogue pair. The checks find them, or do not. -/
structure TileFault where
  compute : Bool := false
  ecc : Bool := false
  adder : List CellFault := []
  copy : List CellFault := []
  value : List CellFault := []
  lane : List CellFault := []
  deriving DecidableEq, Repr, Inhabited

/-- A level of the 44 V input (14 R518, R519). -/
inductive Vin where
  | inRange | under | above
  deriving DecidableEq, Repr, Inhabited

/-- Who met a memory error (08 R323). -/
inductive Client where
  | command (die q pos : Nat)
  | prefetch
  | host
  | scrub
  deriving DecidableEq, Repr, Inhabited

/-- Why a torus port fails (09 R373, NET_PORT_CAUSE). -/
inductive PortLoss where
  | alignment | crcSilence | replayLimit
  deriving DecidableEq, Repr, Inhabited

/-- A die-to-die link (01 R25-R28): a wide port between adjacent dies, or one of the three narrow links. -/
structure D2D where
  narrow : Bool
  link : Nat
  dir : Nat
  deriving DecidableEq, Repr, Inhabited

/-- Outcome of a training (01 R28, R40, R41): repaired wires (clock group, wire, spare), lanes of a narrow
link, and whether it failed. -/
structure TrainResult where
  repairs : List (Nat × Nat × Nat)
  lanes : Nat
  failed : Bool
  deriving DecidableEq, Repr, Inhabited

/-- A mandatory or optional background item (06 R239). -/
inductive BgItem where
  | refresh | boost | scrub | recal | periodic | telemetry | snapshot
  deriving DecidableEq, Repr, Inhabited

end Sys2Proof.Machine
end

