-- ==== Sys2Proof/Syntax.lean ====
section
/-!
DEFINITION. The commands the block takes: one constructor per row of the table of operations and events
(opcode_table.json), with what the row needs from outside as operands: the die, queue, unit, port or channel it
speaks of, what a comparator, pin, sensor or peer shows, the word a register is written with. The 45 opcodes of a
stream name the queue at whose head the command stands; its descriptor is in the state (06 R188, R192).
-/
namespace Sys2Proof

/-- A command of the block. -/
inductive Instr where
  /-- MM_F (R96). Forward matrix command issues on the F-engines named by ENG_MASK and runs its tiles under the canonical summation rule and epilogue. -/
  | mmF (die : Fin 4) (q : Fin 16)
  /-- MM_B (R96). Backward matrix command issues on the B-engines, reading either operand transposed, and runs its tiles. -/
  | mmB (die : Fin 4) (q : Fin 16)
  /-- VEC_EW (R131). Element-wise vector command issues and runs its chunks on the vector units named by VU_MASK. -/
  | vecEw (die : Fin 4) (q : Fin 16)
  /-- RED_ROW (R139). Row reduction command issues and folds each row through 1,024 strands and a fixed tree. -/
  | redRow (die : Fin 4) (q : Fin 16)
  /-- RED_COL (R139). Column reduction command issues and folds each column in ascending row order. -/
  | redCol (die : Fin 4) (q : Fin 16)
  /-- ROW_LN_F (R163). Forward layer normalisation issues on the row engines and may claim a stat slot. -/
  | rowLnF (die : Fin 4) (q : Fin 16)
  /-- ROW_LN_B (R163). Backward layer normalisation issues, reading or recomputing statistics and optionally accumulating dgamma and dbeta. -/
  | rowLnB (die : Fin 4) (q : Fin 16) (ecc : List Nat) (corr : Nat)
  /-- ROW_RMS_F (R163). Forward RMS normalisation issues on the row engines and may claim a stat slot. -/
  | rowRmsF (die : Fin 4) (q : Fin 16)
  /-- ROW_RMS_B (R163). Backward RMS normalisation issues, reading or recomputing statistics. -/
  | rowRmsB (die : Fin 4) (q : Fin 16) (ecc : List Nat) (corr : Nat)
  /-- ROW_SMAX_F (R165). Forward soft-maximum issues with optional causal mask and writes statistics. -/
  | rowSmaxF (die : Fin 4) (q : Fin 16)
  /-- ROW_SMAX_B (R165). Backward soft-maximum issues using stored or recomputed statistics. -/
  | rowSmaxB (die : Fin 4) (q : Fin 16) (ecc : List Nat) (corr : Nat)
  /-- ROW_XENT_F (R166). Forward cross-entropy issues and writes per-row loss and statistics. -/
  | rowXentF (die : Fin 4) (q : Fin 16)
  /-- ROW_XENT_B (R166). Backward cross-entropy issues, held for the previous verdict when it reads the loss scale. -/
  | rowXentB (die : Fin 4) (q : Fin 16) (ecc : List Nat) (corr : Nat)
  /-- ROW_ACTD (R173). Activation derivative command issues and re-evaluates the forward function on Z. -/
  | rowActd (die : Fin 4) (q : Fin 16)
  /-- ROW_PROG (R174). Row program command issues and runs a strata-image row program on the row engines. -/
  | rowProg (die : Fin 4) (q : Fin 16) (ecc : List Nat) (corr : Nat)
  /-- DMA_COPY (R206). DMA copy issues on the named movers and copies S to D element for element. -/
  | dmaCopy (die : Fin 4) (q : Fin 16)
  /-- DMA_GATHER (R206). DMA gather issues, reads the index tensor first and writes rows of D from indexed rows of S. -/
  | dmaGather (die : Fin 4) (q : Fin 16)
  /-- DMA_FILL (R206). DMA fill issues and writes the FILL pattern to every element of D. -/
  | dmaFill (die : Fin 4) (q : Fin 16)
  /-- PF_STREAM (R315). Prefetch stream command arms or re-arms a stream prefetcher on the M-dies. -/
  | pfStream (die : Fin 4) (q : Fin 16)
  /-- PF_CANCEL (R315). Prefetch cancel command stops a prefetcher on both M-dies. -/
  | pfCancel (die : Fin 4) (q : Fin 16)
  /-- COL_RS (R395). Reduce-scatter collective issues on both sequencers, exchanges SETUPs and reduces each shard by two chains. -/
  | colRs (die : Fin 4) (q : Fin 16)
  /-- COL_AG (R400). All-gather collective issues, with optional tag record or check, and gathers every shard. -/
  | colAg (die : Fin 4) (q : Fin 16)
  /-- COL_AR (R395). All-reduce collective issues as a reduce-scatter followed by an all-gather. -/
  | colAr (die : Fin 4) (q : Fin 16)
  /-- COL_BCAST (R390). Broadcast collective issues and sends the root's tensor to every member. -/
  | colBcast (die : Fin 4) (q : Fin 16)
  /-- COL_REDUCE (R395). Reduce collective issues and reduces the whole tensor to the root alone. -/
  | colReduce (die : Fin 4) (q : Fin 16)
  /-- COL_SEND (R401). Pipeline send issues and streams S to the peer HOPS positions away. -/
  | colSend (die : Fin 4) (q : Fin 16)
  /-- COL_RECV (R401). Pipeline receive issues and receives the peer's tensor into D, with optional tag check. -/
  | colRecv (die : Fin 4) (q : Fin 16)
  /-- COL_A2A_D (R403). Expert dispatch all-to-all issues, places token rows by counts and patches each buffer's count. -/
  | colA2aD (die : Fin 4) (q : Fin 16)
  /-- COL_A2A_C (R404). Expert combine all-to-all issues and combines returned rows per token in FP32. -/
  | colA2aC (die : Fin 4) (q : Fin 16)
  /-- COL_PERMUTE (R405). Permute collective issues and moves runs of rows among group members. -/
  | colPermute (die : Fin 4) (q : Fin 16)
  /-- COL_XDR (R409). Cross-domain reduction issues and all-reduces a tensor among counterparts over Ethernet. -/
  | colXdr (die : Fin 4) (q : Fin 16)
  /-- UPD_APPLY (R268). Update apply command issues and is held until the job verdict of its step arrives. -/
  | updApply (die : Fin 4) (q : Fin 16)
  /-- UPD_GATHERADD (R284). Gather-add command sums tied-weight gradient slots in ascending use order without waiting for the verdict. -/
  | updGatheradd (die : Fin 4) (q : Fin 16)
  /-- UPD_FACTOR (R280). Factor command issues on the factor unit and is held for the verdict before refactoring preconditioner blocks. -/
  | updFactor (die : Fin 4) (q : Fin 16)
  /-- UPD_SNAP (R286). Snapshot command clears the bitmap, copies the header into bounce space and activates a snapshot, or completes empty. -/
  | updSnap (die : Fin 4) (q : Fin 16)
  /-- FLAG_WAIT (R213). Flag wait command issues once its header wait and three body waits are satisfied. -/
  | flagWait (die : Fin 4) (q : Fin 16)
  /-- FLAG_SIGNAL (R213). Flag signal command completes at issue and sends its header and body signals. -/
  | flagSignal (die : Fin 4) (q : Fin 16)
  /-- PATCH_LD (R217). Patch load command fills patch registers from a tile-store tensor's canonical byte stream. -/
  | patchLd (die : Fin 4) (q : Fin 16)
  /-- PATCH_SET (R217). Patch set command writes one value into one patch register. -/
  | patchSet (die : Fin 4) (q : Fin 16)
  /-- DIG_FOLD (R440). Digest fold command hashes a marked tensor and adds its digest into a digest slot. -/
  | digFold (die : Fin 4) (q : Fin 16)
  /-- DIG_MIRROR (R446). Mirror check command compares a digest slot among replicas and reports a result code and faulty mask. -/
  | digMirror (die : Fin 4) (q : Fin 16)
  /-- STEP_END (R191). A queue reaches STEP.END and waits for its earlier commands and the next barrier release. -/
  | stepEnd (die : Fin 4) (q : Fin 16)
  /-- STEP_VERDICT (R262). Step verdict command issues; the last of the four C-dies' verdict commands sends the module's contribution. -/
  | stepVerdict (die : Fin 4) (q : Fin 16)
  /-- STEP_SHADE (R238). Shade command opens a shade window of LEN cc on the resources named by MASK. -/
  | stepShade (die : Fin 4) (q : Fin 16)
  /-- STEP_NOP (R235). No-operation command issues and signals. -/
  | stepNop (die : Fin 4) (q : Fin 16)
  /-- COMMAND_FETCH (R189). The command processor fetches a stream command into a free queue slot and checks it, sending prefetch hints for DMA operands. -/
  | commandFetch (die : Fin 4) (q : Fin 16)
  /-- COMMAND_COMPLETE (R210). A command's last write is acknowledged; its VTAGs advance, poison propagates and its signals leave. -/
  | commandComplete (die : Fin 4) (q : Fin 16) (pos : Nat)
  /-- FLAG_SIGNAL_ARRIVE (R211). A signal reaches a flag on another die and is added at the end of the cc, saturating if needed. -/
  | flagSignalArrive (n : Nat)
  /-- COMMAND_OVERRUN (R236). A command runs past its time bound and the overrun is counted and recorded with its cause. -/
  | commandOverrun (die : Fin 4) (q : Fin 16) (pos : Nat)
  /-- UMBRA_ABORT (R232). A wait group's stall count reaches 2^EXP; every queue of the group skips to STEP.END in one pass. -/
  | umbraAbort (g : Fin 16)
  /-- PROGRAM_LOAD (R186). A write of GO to CMD_LOAD checks the program header and either loads the program or refuses it. -/
  | programLoad
  /-- UMBRA_CFG_WRITE (R231). A write to CMD_UMBRA_CFG sets the module-wide stall limit in all four C-dies, clamped to 16-28. -/
  | umbraCfgWrite (die : Fin 4) (v : BitVec 32)
  /-- MME_TILE_DONE (R115). A matrix tile finishes its compute and check stages; it is written if every check passes, otherwise retried once. `flt.compute`: it ends its compute stage; otherwise its check and epilogue stages too. -/
  | mmeTileDone (die : Fin 4) (e : Fin 24) (flt : Machine.TileFault)
  /-- MME_INJECT_ARM (R121). Setting ARM in MME_INJECT arms one fault injection of the selected kind on the named engine. -/
  | mmeInjectArm (die : Fin 4) (v : BitVec 32)
  /-- VEC_CHUNK_DONE (R147). A vector chunk's paired lane results are compared; it is written on agreement or retried once. -/
  | vecChunkDone (die : Fin 4) (u : Fin 4) (mismatch : Option Nat)
  /-- RED_FOLD_DONE (R146). A reduction row or column chunk ends and its two copies are compared, writing the result or retrying. -/
  | redFoldDone (die : Fin 4) (u : Fin 4) (mismatch : Option Nat)
  /-- VEC_INJECT_ARM (R152). Setting ARM in VEC_INJECT arms one lane or reduction fault injection on a unit. -/
  | vecInjectArm (die : Fin 4) (v : BitVec 32)
  /-- ROW_CHUNK_DONE (R178). A row-engine chunk, scalar or fold result is compared; writes apply on agreement or the work is retried. -/
  | rowChunkDone (die : Fin 4) (w : Fin 4) (mismatch : Option Nat)
  /-- ROW_INJECT_ARM (R183). Setting ARM in ROW_INJECT arms one row-engine fault injection. -/
  | rowInjectArm (die : Fin 4) (v : BitVec 32)
  /-- UPD_BLOCK_DONE (R291). An update engine finishes a block, compares its copies, applies the guard and writes it or retries. -/
  | updBlockDone (m : Fin 2) (u : Fin 8) (mismatch : Bool)
  /-- UPD_FACTOR_BLOCK_DONE (R282). The factor unit finishes a preconditioner block on the damping ladder or falls back to identity. -/
  | updFactorBlockDone (m : Fin 2) (mismatch : Bool)
  /-- UPD_INJECT_ARM (R295). Setting ARM in UPD_INJECT arms one update-unit fault injection. -/
  | updInjectArm (m : Fin 2) (v : BitVec 32)
  /-- BOUNCE_SPACE_FREED (R287). Bounce space frees and a block held for copy-before-update proceeds. -/
  | bounceSpaceFreed (m : Fin 2) (u : Fin 9)
  /-- SNAP_STREAM_ITEM (R288). Snapshot streaming sends the next header, bounce content or unsent block in a shade window. -/
  | snapStreamItem
  /-- SEAL (R257). A write to SEAL copies the step parameter block into the pending buffer, or is refused while one is pending. -/
  | sealBlock
  /-- SPB_DEADLINE_EXPIRE (R258). The step parameter block deadline passes with nothing pending; HOST_LATE is set and recorded. -/
  | spbDeadlineExpire
  /-- VERDICT_PACKET (R406). A verdict packet arrives, is merged by maximum and mask, forwarded, and completes its stage when the mask is full. -/
  | verdictPacket
  /-- JOB_VERDICT_ARRIVE (R263). The job verdict of a step arrives: LAST_VERDICT set, loss scale updated and held update commands released. -/
  | jobVerdictArrive
  /-- VERDICT_TIMEOUT (R408). No job verdict within COL_VERDICT_TIMEOUT; the module halts the job and treats verdicts as SKIP_INVALID. -/
  | verdictTimeout
  /-- READY_PACKET (R428). A barrier READY packet arrives and is merged and forwarded; the last stage fixes the release time T. -/
  | readyPacket
  /-- BARRIER_READY (R427). The module becomes ready for the next release and sends READY. -/
  | barrierReady
  /-- BARRIER_RELEASE (R430). DT reaches T or B; the pending block, REPRO, digest seed and group swap take effect and queues leave STEP.END. -/
  | barrierRelease
  /-- BARRIER_WARN_EXPIRE (R432). A ready module waits SYNC_BARRIER_WARN without release and records BARRIER_SLOW. -/
  | barrierWarnExpire
  /-- STEP_SYNC_EDGE (R433). The step master confirms a STEP_SYNC edge, accepting or ignoring it and fixing the boundary. -/
  | stepSyncEdge
  /-- STEP_SYNC_STUCK (R435). The STEP_SYNC input stays asserted for 100 ms and is marked stuck. -/
  | stepSyncStuck
  /-- STEP_SYNC_UNSTUCK (R435). A stuck STEP_SYNC input stays deasserted 1 ms and SS_STUCK clears. -/
  | stepSyncUnstuck
  /-- NO_EDGE (R436). No accepted edge arrives by T + W; the step master decides B = T + W + SYNC_LEAD. -/
  | noEdge
  /-- RELEASE_PACKET (R436). A RELEASE packet carrying B arrives and is merged; a full mask fixes the boundary. -/
  | releasePacket
  /-- SYNC_PROBE_TIMER (R422). Every 1 ms a module with an UP parent port sends a PROBE toward the master. -/
  | syncProbeTimer
  /-- PROBE (R422). A PROBE control flit arrives and is answered with an ECHO in the 64th slot. `flit`: its count and link word. -/
  | probeFlit (p : Fin 6) (flit : BitVec 64 × BitVec 64)
  /-- ECHO (R423). An ECHO arrives; the module computes k and eps and locks, realigns or reports an alignment error. `flit`: its second count and link word. -/
  | echoFlit (p : Fin 6) (sent : BitVec 64) (flit : BitVec 64 × BitVec 64)
  /-- STEP_RECORD_COMPOSE (R449). The attestation block composes and signs the step record once verdict, commands and previous record are done. -/
  | stepRecordCompose
  /-- RECORD_RING_WRITE (R454). A signed record is written to the ring in three stages once HOLD permits, or counted as an overrun. -/
  | recordRingWrite
  /-- PRISM_CHUNK_DONE (R443). A prism unit compares its two chunk hashes, accepting, retrying or fencing. -/
  | prismChunkDone (die : Fin 4) (u : Fin 8) (mismatch : Bool)
  /-- SHADE_WINDOW_CLOSE (R238). A shade window's LEN expires and its resources close to background items. -/
  | shadeWindowClose
  /-- MANDATORY_ITEM_PREEMPT (R241). A mandatory background item reaches its deadline with no open window, bars issue and runs at command boundaries. -/
  | mandatoryItemPreempt (item : Machine.BgItem) (res : Nat)
  /-- D2D_REPLAY (R25). A wide port codeword or narrow link frame fails its check and is replayed; a fifth replay declares a structural fault. The operand is the beat or frame as received; a good one is taken. -/
  | d2dReplay (l : Machine.D2D) (raw : Nat)
  /-- D2D_RECALIBRATION (R42). A wire's corrected-error count exceeds the drift threshold and a port recalibration falls due. -/
  | d2dRecalibration (l : Machine.D2D)
  /-- REFRESH_INTERVAL (R317). A t_REFI interval passes and a channel's refresh debt grows by one. -/
  | refreshInterval (m : Fin 2) (c : Fin 64)
  /-- REFRESH_RATE_POLL (R316). Every 16 µs the M-die reads mode register 4 of each package and sets its refresh multiplier. -/
  | refreshRatePoll (m : Fin 2) (temps : List (BitVec 8))
  /-- PATROL_SCRUB_LINE (R321). Patrol scrub reads the next data line, rewriting corrected lines and marking uncorrectable ones. -/
  | patrolScrubLine (m : Fin 2) (pkg : Fin 8) (e1 : List (Nat × Nat)) (e2 : List (Nat × Nat))
  /-- MEM_SCRUB_LATE (R322). A scrub pass is still incomplete after 24 h; SCRUB_LATE is set and recorded. -/
  | memScrubLate (m : Fin 2)
  /-- MEM_UE (R323). A read finds an uncorrectable or poisoned line twice; the line is marked and the client command skipped. `errs`: what strikes each read. -/
  | memUe (addr : BitVec 48) (client : Machine.Client) (errs : List (Nat × Nat) × List (Nat × Nat))
  /-- MEM_CE (R324). A demand read corrects an error and the line is rewritten within 2^20 cc. `read`: its address and the error that strikes it. -/
  | memCe (read : BitVec 48 × List (Nat × Nat))
  /-- MEM_RECALIBRATION (R320). A channel's corrected errors grow past the drift threshold in 1 s and recalibration falls due. -/
  | memRecalibration (m : Fin 2) (c : Fin 64)
  /-- MEM_LOAM_UE (R313). The loam cache finds an uncorrectable error, refetching a clean line or poisoning a dirty one. -/
  | memLoamUe (addr : BitVec 48) (one : Bool) (client : Machine.Client)
  /-- PREFETCH_LINE_FILL (R314). A stream prefetcher fetches its next line into the loam cache and marks it primed. `errs`: what strikes each read. -/
  | prefetchLineFill (m : Fin 2) (s : Fin 64) (errs : List (Nat × Nat) × List (Nat × Nat))
  /-- PRIMED_LINE_EXPIRE (R314). A primed line loses its mark 2^20 cc after fill. -/
  | primedLineExpire (m : Fin 2) (s : Fin 64)
  /-- TG_GO (R326). Writing GO to MEM_TG_CTRL starts a traffic generator test, or is refused outside test state. -/
  | tgGo (m : Fin 2) (c : Fin 64) (v : BitVec 32)
  /-- TG_STOP (R329). Writing STOP to MEM_TG_CTRL ends the running test after the current line. -/
  | tgStop (m : Fin 2) (c : Fin 64) (v : BitVec 32)
  /-- MEM_TG_DONE (R327). A traffic generator test finishes; DONE is set and its counts recorded. -/
  | memTgDone (m : Fin 2) (c : Fin 64) (fails : List Nat)
  /-- TORUS_HELLO (R336). A HELLO control flit arrives during training; the port goes TRAINED or MISWIRED. `found`: lane polarities and latency. -/
  | torusHello (p : Fin 6) (node : BitVec 16) (peer : Fin 8) (part : BitVec 8) (lanes : BitVec 16)
      (found : BitVec 16 × BitVec 10)
  /-- PORT_ENABLE_WRITE (R336). A write of ENABLE in NET_PORT_CFG brings a TRAINED port UP, or fails an UP port when written 0. -/
  | portEnableWrite (p : Fin 6) (v : BitVec 32)
  /-- DATA_FLIT_RECEIVE (R347). A head or body flit arrives and is delivered in order, or discarded with a NAK on CRC failure or gap. -/
  | dataFlitReceive (p : Fin 6) (f : Machine.Flit)
  /-- NAK (R347). A NAK arrives and the transmitter resends from the named sequence number. `flit`: that number and the link word. -/
  | nakFlit (p : Fin 6) (flit : Fin 2048 × BitVec 64)
  /-- TORUS_DOWN (R373). A DOWN control flit arrives and the port fails. -/
  | torusDown (p : Fin 6)
  /-- NET_LINK_DOWN (R373). A port fails on alignment loss, CRC silence, replay limit or DOWN; it goes FAILED and waiting packets reroute. -/
  | netLinkDown (p : Fin 6) (why : Machine.PortLoss)
  /-- PACKET_ROUTE (R353). A head flit at a router is routed by its table entry on an escape hop, detour, ejection or drop. -/
  | packetRoute (inp : Fin 7) (cls : Fin 4) (vc : Fin 3)
  /-- CONGESTION_DETOUR (R358). A packet's escape port lacks credit for ADAPT_WAIT cc and it takes a congestion detour on VC 2. -/
  | congestionDetour (inp : Fin 7) (cls : Fin 4) (vc : Fin 3)
  /-- C_FLIT_ARRIVE (R368). A C flit enters a router and waits for its shifted reserved slot, or is dropped. -/
  | cFlitArrive
  /-- Q_REQUEST (R344). A Q read or write packet arrives at its target and is answered with a P packet and STATUS. -/
  | qRequest
  /-- P_REPLY (R345). A P reply arrives at the requester, delivering data or skipping the command on a bad status. -/
  | pReply
  /-- NET_Q_TIMEOUT (R346). No reply within NET_Q_TIMEOUT; the requester releases its tag and skips the command. -/
  | netQTimeout (tag : Fin 4096)
  /-- NOTICE (R374). A NOTICE arrives naming a lost or dropped packet, failing the Q command or abandoning the collective. -/
  | noticePkt
  /-- CWRITE (R344). An M CWRITE packet arrives and writes the control space, or is dropped. -/
  | cwritePkt
  /-- SLOT_SWAP_REQUEST (R366). Setting SWAP in NET_SLOT_CTRL requests a slot-table exchange at a named frame. -/
  | slotSwapRequest (p : Fin 6) (v : BitVec 32)
  /-- SLOT_TABLE_SWAP (R366). At the named frame start the slot tables exchange roles, or the exchange is refused. -/
  | slotTableSwap (p : Fin 6)
  /-- RT_SWAP_REQUEST (R370). Setting SWAP in NET_RT_CTRL requests a routing-epoch swap at a named frame. -/
  | rtSwapRequest (v : BitVec 32)
  /-- NET_RT_SWAP (R370). At the named frame start injection changes routing epoch. -/
  | netRtSwap
  /-- FRAME_REALIGN (R364). Every 625 frames the slot count is realigned to SYNC_REF. -/
  | frameRealign
  /-- CONGESTION_SAMPLE (R379). Every 10 µs each router samples waiting flits per port and class into the congestion histogram. -/
  | congestionSample
  /-- GROUP_SWAP_REQUEST (R388). Setting SWAP in COL_GROUP_CTRL requests a group-table bank exchange at a named step. -/
  | groupSwapRequest (v : BitVec 32)
  /-- SETUP_PACKET (R393). A collective SETUP arrives and is checked against the member's own, skipping under PEER_MISMATCH on a difference. -/
  | setupPacket
  /-- CREDIT_PACKET (R394). A CREDIT packet renews a sink's grant to an incoming chain. -/
  | creditPacket
  /-- COL_DATA_PACKET (R395). A collective data packet arrives and is added into its chain or written into D. -/
  | colDataPacket (mismatch : Fin 3)
  /-- ABORT_PACKET (R410). An ABORT arrives; the member forwards it and abandons the collective. -/
  | abortPacket
  /-- COL_TIMEOUT (R410). A collective is still incomplete COL_TIMEOUT after its bound and is abandoned. -/
  | colTimeout (die : Fin 4) (q : Fin 16) (pos : Nat)
  /-- COL_INJECT_ARM (R415). Setting ARM in COL_INJECT arms one sequencer lane fault injection. -/
  | colInjectArm (l : Fin 2) (v : BitVec 32)
  /-- HOST_WINDOW_A_ACCESS (R494). A host request to window A reaches registers, the step parameter block, MSI-X or the control aperture. -/
  | hostWindowAAccess (a : Machine.Access)
  /-- HOST_WINDOW_B_ACCESS (R498). A host request to window B reads or writes memory, stores or scratch, with outside bytes discarded or read as 0xFF. -/
  | hostWindowBAccess (a : Machine.Access)
  /-- MSIX_SEND (R496). An interrupt source's vector sends an MSI-X message, or sets pending within mask or holdoff. -/
  | msixSend (vec : Fin 16)
  /-- MSIX_HOLDOFF_END (R496). A vector's holdoff or mask ends with its pending bit set and one message follows. -/
  | msixHoldoffEnd (vec : Fin 16)
  /-- HST_LINK_UP (R492). The PCIe link comes up and its rate and width are recorded, degraded if below x16 at 64 GT/s. -/
  | hstLinkUp (rate : Fin 8) (width : Fin 32) (flit : Bool)
  /-- HST_LINK_DOWN (R492). The PCIe link goes down and a host reset follows. -/
  | hstLinkDown
  /-- SET_ENDPOINT_ID (R501). MCTP Set Endpoint ID control command. -/
  | setEndpointId (src : BitVec 8) (eid : BitVec 8)
  /-- GET_ENDPOINT_ID (R501). MCTP Get Endpoint ID control command. -/
  | getEndpointId (src : BitVec 8)
  /-- GET_ENDPOINT_UUID (R501). MCTP Get Endpoint UUID control command returns the serial-derived UUID. -/
  | getEndpointUuid (src : BitVec 8)
  /-- GET_MCTP_VERSION_SUPPORT (R501). MCTP Get MCTP Version Support control command. -/
  | getMctpVersionSupport (src : BitVec 8) (msg : BitVec 8)
  /-- GET_MESSAGE_TYPE_SUPPORT (R501). MCTP Get Message Type Support control command. -/
  | getMessageTypeSupport (src : BitVec 8)
  /-- GET_VENDOR_DEFINED_MSG_SUPPORT (R501). MCTP Get Vendor Defined Message Support control command. -/
  | getVendorDefinedMsgSupport (src : BitVec 8) (sel : BitVec 8)
  /-- MCTP_UNSUPPORTED_CMD (R501). Any other MCTP control command receives ERROR_UNSUPPORTED_CMD. -/
  | mctpUnsupportedCmd (src : BitVec 8) (cmd : BitVec 8)
  /-- HST_MCTP_DROPPED (R501). A further MCTP request from an endpoint with one outstanding is discarded and counted. -/
  | hstMctpDropped (src : BitVec 8)
  /-- GET_HEALTH (R502). Vendor MCTP command returns reset status, temperature, power, step and recorder head. -/
  | getHealth (src : BitVec 8)
  /-- READ_RECORDS (R502). Vendor MCTP command returns whole recorder records from a first SEQ. -/
  | readRecords (src : BitVec 8) (first : BitVec 48) (most : BitVec 16)
  /-- READ_CONTROL (R502). Vendor MCTP command returns control-space words, unavailable in recovery mode. -/
  | readControl (src : BitVec 8) (addr : BitVec 48) (words : BitVec 8)
  /-- MCTP_RESET (R502). Vendor MCTP command requests a full or core reset as RST_CMD does. -/
  | mctpReset (src : BitVec 8) (scope : BitVec 8) (confirm : BitVec 16)
  /-- ETH_LINK_UP (R503). An Ethernet port comes up. -/
  | ethLinkUp (p : Fin 2) (an : Bool)
  /-- ETH_LINK_DOWN (R503). An Ethernet port goes down. -/
  | ethLinkDown (p : Fin 2)
  /-- ETH_FRAME_RECEIVE (R503). An Ethernet frame arrives and is accepted as a transport packet or dropped and counted. -/
  | ethFrameReceive (p : Fin 2) (f : Machine.Frame)
  /-- SESSION_OPEN (R505). ETH_SESSION_CTRL OPEN starts sending OPEN packets for a closed session. -/
  | sessionOpen (s : Fin 256)
  /-- SESSION_CLOSE (R505). ETH_SESSION_CTRL CLOSE closes a session with cause 1. -/
  | sessionClose (s : Fin 256)
  /-- OPEN (R505). A transport OPEN packet arrives and is answered with OPEN_ACK or closed on kind mismatch. -/
  | openPkt
  /-- OPEN_ACK (R505). An OPEN_ACK arrives and the session goes OPEN. -/
  | openAckPkt
  /-- DATA (R507). A DATA packet arrives and its payload lands at OFFSET, signalling DONE_FLAG when an object completes. -/
  | dataPkt
  /-- ACK (R507). An ACK arrives, freeing acknowledged packets and triggering fast resend. -/
  | ackPkt
  /-- CLOSE (R505). A CLOSE packet arrives and the session closes with cause 2. -/
  | closePkt
  /-- KEEPALIVE (R505). A KEEPALIVE packet arrives and refreshes the session's idle timer. -/
  | keepalivePkt
  /-- OPEN_RETRY_TIMER (R505). Every 1 ms an unanswered session resends OPEN. -/
  | openRetryTimer (s : Fin 256)
  /-- ETH_OPEN_TIMEOUT (R505). No OPEN_ACK within ETH_OPEN_TIMEOUT; the session closes with cause 3. -/
  | ethOpenTimeout (s : Fin 256)
  /-- ETH_RTO (R507). ETH_RTO passes without acknowledgement and the packet is resent, closing after 16 retransmissions. -/
  | ethRto (s : Fin 256) (psn : Nat)
  /-- KEEPALIVE_TIMER (R505). 10 ms without traffic sends KEEPALIVE; 100 ms silence closes the session. -/
  | keepaliveTimer (s : Fin 256)
  /-- XFER_GO (R509). Writing GO to ETH_XFER_CMD starts a SEND transfer of an object from module memory. -/
  | xferGo (v : BitVec 32)
  /-- RECORD_WRITE (R512). A record reaches the recorder and is placed in the ring, padding and advancing OLDEST and HEAD. -/
  | recordWrite (src : Fin 10)
  /-- REC_DROPPED (R514). A record finds no room in its die's path and is dropped; a summary record follows when room returns. -/
  | recDropped (src : Fin 10)
  /-- REC_IRQ_DELAY_EXPIRE (R515). An unread record has waited REC_IRQ_DELAY and vector 0 fires. -/
  | recIrqDelayExpire
  /-- RC_REGISTER_READ (R11). A read of an RC register returns its value and clears it atomically. -/
  | rcRegisterRead (addr : BitVec 48) (wide : Bool)
  /-- REGISTER_WRITE (R11). A write to any register without a row of its own acts under its access type. -/
  | registerWrite (addr : BitVec 48) (v : BitVec 64) (wide : Bool) (onakan : Bool)
  /-- RESET_N_ASSERT (R476). A filtered RESET_N low is recognised and a full reset asserts. -/
  | resetNAssert (ns : Nat) (seen : Bool)
  /-- RESET_N_RELEASE (R476). RESET_N stays high 1 µs and the release sequence may begin. -/
  | resetNRelease
  /-- AON_POWER_ON_RESET (R474). A supply returns after both VIN_44 and VBAK were absent and every domain resets. -/
  | aonPowerOnReset (vin : Bool) (vbakMv : Nat)
  /-- PWR_INPUT_FAULT (R519). VIN_44 leaves its range; torus transmitters stop and a full reset is held. -/
  | pwrInputFault (lvl : Machine.Vin) (mv : Nat)
  /-- INPUT_BACK_IN_RANGE (R519). VIN_44 returns within range and the held full reset releases, powering up in order. -/
  | inputBackInRange (mv : Nat)
  /-- PWR_VBAK_LOW (R521). VBAK falls below 2.7 V and VBAK_LOW is set and recorded. -/
  | pwrVbakLow (mv : Nat)
  /-- PWR_RAIL_FAULT (R525). A rail leaves ±5 % or a stage faults; a full reset asserts and power sequences off and on. -/
  | pwrRailFault (d : Fin 30) (rail : Fin 4) (kind : Fin 4)
  /-- RST_CMD_FULL (R474). RST_CMD with scope 1 starts a full reset. -/
  | rstCmdFull
  /-- RST_CMD_STRUCTURAL (R474). RST_CMD with scope 2 starts a structural reset. -/
  | rstCmdStructural
  /-- RST_CMD_LINK (R479). RST_CMD with scope 3 runs the entry sequence and a link reset. -/
  | rstCmdLink
  /-- RST_CMD_CORE (R479). RST_CMD with scope 4 runs the entry sequence and a core reset keeping the ports UP. -/
  | rstCmdCore
  /-- RST_CMD_MANAGEMENT (R474). RST_CMD with scope 5 resets the management domain. -/
  | rstCmdManagement
  /-- LOAM_WRITEBACK_DONE (R479). The entry sequence's loam write-back completes and packages enter self refresh before the reset asserts. -/
  | loamWritebackDone
  /-- ONAKAN_WATCHDOG (R474). The Onakan watchdog expires and the management domain resets. -/
  | onakanWatchdog
  /-- PERST (R474). PERST# asserts and a host reset acts on domain 3. -/
  | perst
  /-- PCIE_HOT_RESET (R490). A PCIe hot reset or Function Level Reset acts as a host reset. -/
  | pcieHotReset
  /-- DOMAIN_RELEASE (R478). A row's release gap counts out and its domain leaves reset. -/
  | domainRelease
  /-- ROOT_PLL_LOCK (R478). The root PLL locks and the MGMT domain's release count starts. -/
  | rootPllLock
  /-- IMAGE_VERIFY_BOOT (R480). The boot ROM finishes verifying a flash slot and accepts, falls back or fails the start. -/
  | imageVerifyBoot
  /-- IDENTITY_KEY_DERIVE (R467). Key derivation completes and the derived key is compared with the certificate. -/
  | identityKeyDerive
  /-- D2D_TRAINING_DONE (R40). A wide port or narrow link finishes training, repairing wires or failing the start. -/
  | d2dTrainingDone (l : Machine.D2D) (r : Machine.TrainResult)
  /-- CHANNEL_TRAINING_DONE (R319). A memory channel finishes training and is kept, mapped out or fails the start. -/
  | channelTrainingDone (m : Fin 2) (c : Fin 64) (ok : Bool)
  /-- MEMORY_FILL_DONE (R301). The zero fill of every active channel completes after a reset that lost memory. -/
  | memoryFillDone
  /-- RST_STEP_READY (R482). Every condition of a start holds and the module reaches STEP_READY. -/
  | rstStepReady
  /-- START_TIMEOUT (R481). STEP_READY is not reached within 30 s of the first release and the start fails. -/
  | startTimeout
  /-- AON_RESTART (R484). One second after a failed start with FAIL_COUNT below 4 the AON block asserts a full reset. -/
  | aonRestart
  /-- FORCE_RECOVERY (R485). Setting FORCE_RECOVERY in RST_AON makes the next start enter recovery mode. -/
  | forceRecovery (onakan : Bool)
  /-- VERIFY (R487). IMG_CMD VERIFY checks the staged image and sets its digest on acceptance. -/
  | imgVerify
  /-- COMMIT (R487). IMG_CMD COMMIT writes the verified staged image to the inactive slot and marks it ACTIVE. -/
  | imgCommit (ok : Bool)
  /-- ENROLL (R465). SEC_CMD ENROLL burns an owner key hash into the lowest empty slot. -/
  | enroll
  /-- REVOKE (R465). SEC_CMD REVOKE burns the revoke fuse of an owner slot. -/
  | revoke (slot : Fin 4)
  /-- RAISE_SVN (R465). SEC_CMD RAISE_SVN raises the security-version floor to the image's SVN. -/
  | raiseSvn
  /-- POWER_WINDOW (R526). A 1 ms power window ends and the power level is raised, lowered or kept against PWR_CAP. -/
  | powerWindow (watts : Nat)
  /-- HARD_CURRENT_LIMIT (R526). Input current exceeds the hard limit and the power level is forced to 15 for 10 ms. -/
  | hardCurrentLimit (amps : Nat)
  /-- SENSOR_SAMPLE (R527). Every 100 µs the temperature sensors are read and T_j updated. -/
  | sensorSample (temps : List (BitVec 12))
  /-- THERMAL_TICK (R529). Every 1 ms the thermal controller adjusts its level against THM_TARGET. -/
  | thermalTick
  /-- THM_MEM_HOT (R530). A memory package reports above 105 °C and memory-hot holds the thermal level at 8 or more. -/
  | thmMemHot (pkg : Fin 16)
  /-- THM_SENSOR_FAIL (R531). A sensor reads out of range or stuck for 10 s and is treated as THM_TARGET + 1 °C. -/
  | thmSensorFail (i : Fin 28)
  /-- THM_TRIP (R532). A trip threshold holds for 1 ms; THERM_TRIP_N drops, a full reset asserts and power switches off. -/
  | thmTrip (i : Fin 28) (t : BitVec 12)
  /-- TRIP_COOLDOWN_POLL (R532). Every 100 ms after a trip the AON block reads sensors 20 and 24 and restarts power once below THM_RESUME. -/
  | tripCooldownPoll (temps : List (BitVec 12))
  /-- GATE_WINDOW_START (R534). A 65,536 cc gate window starts and the new gate level takes effect. -/
  | gateWindowStart
  /-- GATE_HOLD_START (R534). The held part of a gate window begins and gated units start no new work. -/
  | gateHoldStart
  /-- CLK_SYNC_REF_LOST (R538). SYNC_REF has no edge for 200 ns; the root PLL enters holdover and LOCKED clears. -/
  | clkSyncRefLost
  /-- CLK_SYNC_REF_BACK (R538). SYNC_REF returns for 1,000 periods and the PLL relocks, leaving holdover. -/
  | clkSyncRefBack
  /-- CLK_ROOT_UNLOCK (R539). The root PLL loses lock with SYNC_REF present, failing the start or asserting a full reset. -/
  | clkRootUnlock
  /-- SERDES_UNLOCK (R539). A SerDes PLL loses lock, failing that L-die's torus ports and Ethernet port. -/
  | serdesUnlock (l : Fin 2)
  /-- CLK_REFCLK_LOST (R540). REFCLK is lost and the PCIe link goes down as a host reset. -/
  | clkRefclkLost
  /-- LOW_WORD_READ (R10). A 32-bit read of the low word of a two-word register latches the high word into a shadow for the next high-word read. -/
  | lowWordRead (addr : BitVec 48)
  /-- FLIT_SLOT (R352). Each 0.64 ns flit slot an output port grants one flit by the order of R352 and the slot table of R367, or sends idle. -/
  | flitSlot (p : Fin 6)
  /-- IDLE_FLIT (R340). An idle or unlisted control flit arrives carrying ACK and credits in its link word, freeing replay entries and granting credit. -/
  | idleFlit (p : Fin 6) (f : Machine.Flit)
  /-- TRACE (R344). An M packet of MTYPE TRACE or a reserved MTYPE arrives at its endpoint and is accepted or dropped as TRACE_FULL. -/
  | tracePkt (full : Bool)
  /-- ZQ_CALIBRATION (R297). Every 64 ms each channel falls due for ZQ calibration as a mandatory recalibration item. -/
  | zqCalibration (m : Fin 2) (c : Fin 64)
  /-- MANDATORY_ITEM_DONE (R241). A preempting mandatory background item finishes and releases the units it held, so issue resumes. -/
  | mandatoryItemDone (item : Machine.BgItem) (res : Nat)
  /-- PERST_DEASSERT (R478). PERST# deasserts and domain 3 (HOST) is released once its gap has passed. -/
  | perstDeassert
  /-- PLL_LOCK_TIMEOUT (R481). The root PLL has not locked within 10 ms and the start fails under code PLL. -/
  | pllLockTimeout
  /-- XTAL_FAIL (R549). The AON crystal stops, XTAL_FAIL is set and the AON block runs from its 8 MHz oscillator. -/
  | xtalFail
  /-- AON_SUPPLY_LOST (R521). With VIN_44 absent VBAK falls below 2.5 V, the AON domain loses power and recorder and FAIL_COUNT are lost. -/
  | aonSupplyLost
  /-- SERDES_RELOCK (R539). A SerDes PLL that lost lock relocks without a reset and its ports may train again. -/
  | serdesRelock (l : Fin 2)
  /-- ETH_ACK_TIMER (R507). 20 µs pass since the last acknowledgement with unacknowledged DATA received, and the receiver sends an ACK. -/
  | ethAckTimer (s : Fin 256)
  /-- CURRENT_LIMIT_HOLD_END (R526). The 10 ms hold at power level 15 after the hard current limit ends. -/
  | currentLimitHoldEnd
  deriving DecidableEq, Repr

end Sys2Proof
end

