-- ==== Sys2Proof/Decode.lean ====
section
/-!
DEFINITION. The words of commands. No row of the table of operations and events gives bits (assumption 2), so no
word spells a command.
-/
namespace Sys2Proof

/-- The command a word of the table's bits spells: none, since no row of the table has bits. -/
def decodeTableWord (_nbits _w : Nat) : Option Instr := none

end Sys2Proof
end

