-- ==== Sys2Proof/Machine/Fp.lean ====
section
/-!
DEFINITION. Number formats, exact values, rounding and the FP32 operations
(02 Numerics R53-R56, R61-R63, R67-R71, R75-R79).
Every operation is computed exactly on signed dyadic numbers and rounded once.
-/
namespace Sys2Proof.Machine

/-- Element formats (R53; INT8 and INT32 of 06 R197). -/
inductive Elem where
  | fp32 | bf16 | fp16 | e4m3 | e5m2 | e3m2 | e2m3 | e2m1 | int8 | int32
  deriving DecidableEq, Repr

/-- Tensor formats, the codes of 06 R197: plain elements, or the elements of MX blocks. -/
inductive Fmt where
  | plain (e : Elem)
  | mx (e : Elem)
  deriving DecidableEq, Repr

/-- FORMAT codes of 06 R197; every other code is reserved. -/
def Fmt.ofCode : Nat → Option Fmt
  | 0x00 => some (.plain .fp32) | 0x01 => some (.plain .bf16) | 0x02 => some (.plain .fp16)
  | 0x03 => some (.plain .e4m3) | 0x04 => some (.plain .e5m2)
  | 0x08 => some (.mx .e4m3) | 0x09 => some (.mx .e5m2) | 0x0A => some (.mx .e3m2)
  | 0x0B => some (.mx .e2m3) | 0x0C => some (.mx .e2m1)
  | 0x10 => some (.plain .int8) | 0x11 => some (.plain .int32)
  | _ => none

def Fmt.elem : Fmt → Elem
  | .plain e => e
  | .mx e => e

def Fmt.isMx : Fmt → Bool
  | .plain _ => false
  | .mx _ => true

/-- Bits of one element (R53, R56). -/
def Elem.width : Elem → Nat
  | .fp32 => 32 | .int32 => 32 | .bf16 => 16 | .fp16 => 16
  | .e4m3 => 8 | .e5m2 => 8 | .int8 => 8 | .e3m2 => 6 | .e2m3 => 6 | .e2m1 => 4

def Elem.isInt : Elem → Bool
  | .int8 => true | .int32 => true | _ => false

/-- Fraction bits (R53). -/
def Elem.frac : Elem → Nat
  | .fp32 => 23 | .bf16 => 7 | .fp16 => 10 | .e4m3 => 3 | .e5m2 => 2
  | .e3m2 => 2 | .e2m3 => 3 | .e2m1 => 1 | .int8 => 0 | .int32 => 0

/-- Exponent bias (R53). -/
def Elem.bias : Elem → Nat
  | .fp32 => 127 | .bf16 => 127 | .fp16 => 15 | .e4m3 => 7 | .e5m2 => 15
  | .e3m2 => 3 | .e2m3 => 1 | .e2m1 => 1 | .int8 => 0 | .int32 => 0

/-- Exponent of the smallest normal (R53). -/
def Elem.emin (f : Elem) : Int := 1 - (f.bias : Int)

/-- Whether the all-ones exponent holds infinities and NaNs (R53). -/
def Elem.ieee : Elem → Bool
  | .fp32 => true | .bf16 => true | .fp16 => true | .e5m2 => true | _ => false

/-- Magnitude code of the largest finite value (R53). -/
def Elem.maxFin : Elem → Nat
  | .fp32 => 0x7F7FFFFF | .bf16 => 0x7F7F | .fp16 => 0x7BFF | .e4m3 => 0x7E | .e5m2 => 0x7B
  | .e3m2 => 0x1F | .e2m3 => 0x1F | .e2m1 => 0x7 | .int8 => 0x7F | .int32 => 0x7FFFFFFF

/-- Canonical NaN code (R53); the MX elements have none. -/
def Elem.nanCode : Elem → Nat
  | .fp32 => 0x7FC00000 | .bf16 => 0x7FC0 | .fp16 => 0x7E00 | .e4m3 => 0x7F | .e5m2 => 0x7E | _ => 0

/-- An exact value: NaN, an infinity, or a signed dyadic number m * 2^e (m = 0 keeps its sign). -/
inductive Fv where
  | nan
  | inf (neg : Bool)
  | fin (neg : Bool) (m : Nat) (e : Int)
  deriving DecidableEq, Repr

/-- The value an element encoding stands for (R53, R54; two's complement for the integer formats). -/
def Elem.dec (f : Elem) (w : Nat) : Fv :=
  if f.isInt then
    if w.testBit (f.width - 1) then .fin true (2 ^ f.width - w) 0 else .fin false w 0
  else
    let neg := w.testBit (f.width - 1)
    let mag := w % 2 ^ (f.width - 1)
    let x := mag >>> f.frac
    let fr := mag % 2 ^ f.frac
    if f.ieee && mag > f.maxFin then (if fr = 0 then .inf neg else .nan)
    else if f = .e4m3 && mag > f.maxFin then .nan
    else if x = 0 then .fin neg fr (f.emin - f.frac)
    else .fin neg (2 ^ f.frac + fr) (f.emin - f.frac + (x - 1 : Nat))

/-- How a conversion to a narrower format rounds: nearest even, or stochastic with its draw (R70, R78). -/
inductive Rnd where
  | near
  | stoch (draw : Nat)
  deriving DecidableEq, Repr

/-- m / 2^sh rounded to an integer. -/
def roundShift (r : Rnd) (m sh : Nat) : Nat :=
  let q := m >>> sh
  let rem := m % 2 ^ sh
  match r with
  | .near => if 2 * rem > 2 ^ sh || (2 * rem = 2 ^ sh && q % 2 = 1) then q + 1 else q
  | .stoch d => if d < (rem * 2 ^ 32) >>> sh then q + 1 else q

/-- The magnitude code of m * 2^e (m > 0) in a format of `frac` fraction bits and smallest normal exponent
`emin`, with no upper limit: the code after the largest finite value is that of the next binade. -/
def magCode (r : Rnd) (frac : Nat) (emin : Int) (m : Nat) (e : Int) : Nat :=
  let ec := max (e + (m.log2 : Int)) emin
  let q := ec - frac
  let n := if q ≤ e then m <<< (e - q).toNat else roundShift r m (q - e).toNat
  (ec - emin).toNat * 2 ^ frac + n

/-- Whether m * 2^e exceeds the largest finite magnitude of a format. -/
def aboveMax (f : Elem) (m : Nat) (e : Int) : Bool :=
  let t := magCode (.stoch 0xFFFFFFFF) f.frac f.emin m e
  t > f.maxFin || (t = f.maxFin && f.emin - f.frac + ((f.maxFin >>> f.frac) - 1 : Nat) > e &&
    m % 2 ^ (f.emin - f.frac + ((f.maxFin >>> f.frac) - 1 : Nat) - e).toNat != 0)

/-- Conversion to a float element format (R62, R70, R78, R79): one rounding; beyond the largest finite
value IEEE formats go to infinity by nearest even, the others saturate. NaN and infinity of an MX element
never arise (R71 writes zeros). -/
def Elem.enc (f : Elem) (r : Rnd) (v : Fv) : Nat :=
  let sgn (n : Bool) (c : Nat) := if n then c + 2 ^ (f.width - 1) else c
  match v with
  | .nan => f.nanCode
  | .inf n => sgn n (if f.ieee then f.maxFin + 1 else f.maxFin)
  | .fin n m e =>
    if m = 0 then sgn n 0
    else
      let r' := if aboveMax f m e then .near else r
      let c := magCode r' f.frac f.emin m e
      if c ≤ f.maxFin then sgn n c
      else sgn n (if f.ieee then f.maxFin + 1 else f.maxFin)

/-! ## Exact arithmetic -/

def Fv.neg : Fv → Fv
  | .nan => .nan
  | .inf n => .inf (!n)
  | .fin n m e => .fin (!n) m e

def Fv.abs : Fv → Fv
  | .nan => .nan
  | .inf _ => .inf false
  | .fin _ m e => .fin false m e

/-- Signed integer numerator of a finite value at exponent `e0` (at most its own). -/
def numAt (n : Bool) (m : Nat) (e e0 : Int) : Int :=
  let x : Int := (m <<< (e - e0).toNat : Nat)
  if n then -x else x

/-- Exact sum; zero rules of R63. -/
def Fv.add : Fv → Fv → Fv
  | .nan, _ => .nan
  | _, .nan => .nan
  | .inf a, .inf b => if a = b then .inf a else .nan
  | .inf a, .fin .. => .inf a
  | .fin .., .inf b => .inf b
  | .fin n1 m1 e1, .fin n2 m2 e2 =>
    if m1 = 0 && m2 = 0 then .fin (n1 && n2) 0 0
    else
      let e := min e1 e2
      let s := numAt n1 m1 e1 e + numAt n2 m2 e2 e
      .fin (s < 0) s.natAbs e

/-- Exact product; 0 times infinity is NaN (R61). -/
def Fv.mul : Fv → Fv → Fv
  | .nan, _ => .nan
  | _, .nan => .nan
  | .inf a, .inf b => .inf (a != b)
  | .inf a, .fin n m _ => if m = 0 then .nan else .inf (a != n)
  | .fin n m _, .inf b => if m = 0 then .nan else .inf (n != b)
  | .fin n1 m1 e1, .fin n2 m2 e2 => .fin (n1 != n2) (m1 * m2) (e1 + e2)

/-- A value times 2^k. -/
def Fv.scale (v : Fv) (k : Int) : Fv :=
  match v with
  | .fin n m e => .fin n m (e + k)
  | w => w

/-- Quotient with a sticky low bit: rounds to any format of at most 60 bits as the exact quotient does. -/
def Fv.div : Fv → Fv → Fv
  | .nan, _ => .nan
  | _, .nan => .nan
  | .inf _, .inf _ => .nan
  | .inf a, .fin n _ _ => .inf (a != n)
  | .fin n _ _, .inf b => .fin (n != b) 0 0
  | .fin n1 m1 e1, .fin n2 m2 e2 =>
    if m2 = 0 then (if m1 = 0 then .nan else .inf (n1 != n2))
    else
      let k := 64 + m2.log2
      let x := m1 <<< k
      .fin (n1 != n2) (2 * (x / m2) + (if x % m2 = 0 then 0 else 1)) (e1 - e2 - k - 1)

/-- Integer square root, one result bit per unit of fuel. -/
def isqrtGo (n : Nat) : Nat → Nat → Nat
  | 0, r => r
  | k + 1, r => if (r + 2 ^ k) * (r + 2 ^ k) ≤ n then isqrtGo n k (r + 2 ^ k) else isqrtGo n k r

def isqrt (n : Nat) : Nat := isqrtGo n (n.log2 / 2 + 1) 0

/-- Square root with a sticky low bit. -/
def Fv.sqrt : Fv → Fv
  | .nan => .nan
  | .inf n => if n then .nan else .inf false
  | .fin n m e =>
    if m = 0 then .fin n 0 0
    else if n then .nan
    else
      let k : Nat := if (e - 64) % 2 = 0 then 64 else 65
      let x := m <<< k
      let r := isqrt x
      .fin false (2 * r + (if r * r = x then 0 else 1)) ((e - k) / 2 - 1)

/-- Reciprocal square root with a sticky low bit (R68, R83). -/
def Fv.rsqrt : Fv → Fv
  | .nan => .nan
  | .inf n => if n then .nan else .fin false 0 0
  | .fin n m e =>
    if m = 0 then .inf n
    else if n then .nan
    else
      let m' := if e % 2 = 0 then m else 2 * m
      let e' := if e % 2 = 0 then e else e - 1
      let k := 64 + m'.log2
      let y := isqrt (2 ^ (2 * k) / m')
      .fin false (2 * y + (if y * y * m' = 2 ^ (2 * k) then 0 else 1)) (-(e' / 2) - k - 1)

/-- Sign of a comparison of two non-NaN values: -1, 0 or 1; zeros are equal (R54). -/
def Fv.cmp : Fv → Fv → Int
  | .nan, _ => 0
  | _, .nan => 0
  | .inf a, .inf b => if a = b then 0 else if a then -1 else 1
  | .inf a, .fin .. => if a then -1 else 1
  | .fin .., .inf b => if b then 1 else -1
  | .fin n1 m1 e1, .fin n2 m2 e2 =>
    let e := min e1 e2
    let d := numAt n1 m1 e1 e - numAt n2 m2 e2 e
    if d < 0 then -1 else if d = 0 then 0 else 1

def Fv.isNan : Fv → Bool
  | .nan => true | _ => false

def Fv.isFin : Fv → Bool
  | .fin .. => true | _ => false

def Fv.isZero : Fv → Bool
  | .fin _ m _ => m = 0 | _ => false

def Fv.sign : Fv → Bool
  | .nan => false | .inf n => n | .fin n _ _ => n

/-- The nearest integer, ties to even (exact for any finite value). -/
def Fv.rintInt : Fv → Int
  | .fin n m e =>
    let q : Int := if 0 ≤ e then (m <<< e.toNat : Nat) else (roundShift .near m (-e).toNat : Nat)
    if n then -q else q
  | _ => 0

/-- An integer as a value. -/
def Fv.ofInt (i : Int) : Fv := .fin (i < 0) i.natAbs 0

/-! ## FP32 (R68) -/

/-- The value of an FP32 encoding. -/
def f32v (a : F32) : Fv := Elem.dec .fp32 a.toNat

/-- Round to FP32, nearest even. -/
def f32r (v : Fv) : F32 := BitVec.ofNat 32 (Elem.enc .fp32 .near v)

def fadd (a b : F32) : F32 := f32r ((f32v a).add (f32v b))
def fneg (a : F32) : F32 := f32r (f32v a).neg
def fsub (a b : F32) : F32 := f32r ((f32v a).add (f32v b).neg)
def fmul (a b : F32) : F32 := f32r ((f32v a).mul (f32v b))
/-- Fused multiply-add: one rounding (R68). -/
def ffma (a b c : F32) : F32 := f32r (((f32v a).mul (f32v b)).add (f32v c))
def fdiv (a b : F32) : F32 := f32r ((f32v a).div (f32v b))
def fsqrt (a : F32) : F32 := f32r (f32v a).sqrt
def frsqrt (a : F32) : F32 := f32r (f32v a).rsqrt
def fabs (a : F32) : F32 := f32r (f32v a).abs

/-- The canonical FP32 NaN. -/
def fnan : F32 := 0x7FC00000#32

/-- First operand with the second's sign; NaN gives the canonical NaN (R68). -/
def fcopysign (a b : F32) : F32 :=
  match f32v a with
  | .nan => fnan
  | v => if b.msb = v.sign then f32r v else f32r v.neg

def flt (a b : F32) : Bool := !(f32v a).isNan && !(f32v b).isNan && (f32v a).cmp (f32v b) < 0
def fle (a b : F32) : Bool := !(f32v a).isNan && !(f32v b).isNan && (f32v a).cmp (f32v b) ≤ 0
def feq (a b : F32) : Bool := !(f32v a).isNan && !(f32v b).isNan && (f32v a).cmp (f32v b) = 0
def fisNan (a : F32) : Bool := (f32v a).isNan
def fisFin (a : F32) : Bool := (f32v a).isFin

/-- Minimum: NaN if either is NaN, -0 below +0 (R68). -/
def fmin (a b : F32) : F32 :=
  if fisNan a || fisNan b then fnan
  else if (f32v a).isZero && (f32v b).isZero then (if a.msb then a else b)
  else if flt b a then b else a

/-- Maximum: NaN if either is NaN, -0 below +0 (R68). -/
def fmax (a b : F32) : F32 :=
  if fisNan a || fisNan b then fnan
  else if (f32v a).isZero && (f32v b).isZero then (if a.msb then b else a)
  else if flt a b then b else a

/-- An integer rounded to FP32. -/
def f32ofInt (i : Int) : F32 := f32r (.ofInt i)

/-! ## Stochastic rounding (R76, R77) -/

def mixfold (x0 : BitVec 64) : BitVec 64 :=
  let x := x0 ^^^ (x0 >>> 31)
  let x := x * 0xC3A59E3771F24D8B#64
  let x := x ^^^ (x >>> 29)
  let x := x * 0x8F1B6D2CE5A73B15#64
  x ^^^ (x >>> 32)

/-- The random draw of one output element: 32 bits. -/
def srDraw (seed step tensorId index : Nat) : Nat :=
  let key := mixfold (BitVec.ofNat 64 seed ^^^ 0x5A174E3B9D020001#64)
  let key := mixfold (key ^^^ BitVec.ofNat 64 step)
  let key := mixfold (key ^^^ BitVec.ofNat 64 tensorId)
  ((mixfold (key + BitVec.ofNat 64 index * 0xB4D12F6AC38E5907#64)) >>> 32).toNat

/-! ## MX blocks (R57, R71) -/

/-- The value of an MX element under its block's scale byte: 0xFF makes it NaN (R57). -/
def mxVal (f : Elem) (scale code : Nat) : Fv :=
  if scale = 0xFF then .nan else (f.dec code).scale ((scale : Int) - 127)

/-- emax of R71. -/
def Elem.mxEmax : Elem → Int
  | .e4m3 => 8 | .e5m2 => 15 | .e3m2 => 4 | _ => 2

/-- Exponent of the largest magnitude of a block; none when every value is zero. -/
def blockExp : List Fv → Option Int
  | [] => none
  | .fin _ m e :: t =>
    if m = 0 then blockExp t
    else match blockExp t with
      | none => some (e + m.log2)
      | some x => some (max x (e + m.log2))
  | _ :: t => blockExp t

/-- Conversion to an MX element: saturating at the largest finite element (R70). -/
def Elem.encSat (f : Elem) (r : Rnd) (v : Fv) : Nat :=
  match v with
  | .fin n m e =>
    let c := if m = 0 then 0 else
      min f.maxFin (magCode (if aboveMax f m e then .near else r) f.frac f.emin m e)
    if n then c + 2 ^ (f.width - 1) else c
  | _ => 0

/-- An MX output block of R71: its scale byte and element codes. `rnd i` is the rounding of element i. -/
def mxBlock (f : Elem) (rnd : Nat → Rnd) (vs : List Fv) : Nat × List Nat :=
  if vs.any (fun v => !v.isFin) then (0xFF, vs.map fun _ => 0)
  else match blockExp vs with
    | none => (0, vs.map fun v => f.encSat .near v)
    | some x =>
      let ex := max (x - f.mxEmax) (-127)
      ((ex + 127).toNat, vs.zipIdx.map fun (v, i) => f.encSat (rnd i) (v.scale (-ex)))

/-- Whether converting an FP32 value to a plain float element of a gradient tensor raises OVERFLOW
(R72): the result is infinite or NaN, or the target is E4M3 and the input saturates. -/
def overflowsIn (f : Elem) (r : Rnd) (v : Fv) : Bool :=
  match v with
  | .nan => !f.isInt
  | .inf _ => !f.isInt
  | .fin _ m e =>
    if f = .e4m3 then aboveMax .e4m3 m e && m != 0
    else if f.ieee then m != 0 && !(f.dec (f.enc r v)).isFin
    else false

end Sys2Proof.Machine
end

