-- ==== Sys2Proof/Machine/Hash.lean ====
section
/-!
DEFINITION. SHAKE256 (FIPS 202, the published standard 00 and 11 R437 name) and the CRC-32 of 09 R339.
FIPS 202 is outside the spec's text: PRESUMED (assumption 10).
-/
namespace Sys2Proof.Machine

/-- Round constants of Keccak-f[1600]. -/
def keccakRC : List (BitVec 64) :=
  [0x0000000000000001#64, 0x0000000000008082#64, 0x800000000000808A#64, 0x8000000080008000#64,
   0x000000000000808B#64, 0x0000000080000001#64, 0x8000000080008081#64, 0x8000000000008009#64,
   0x000000000000008A#64, 0x0000000000000088#64, 0x0000000080008009#64, 0x000000008000000A#64,
   0x000000008000808B#64, 0x800000000000008B#64, 0x8000000000008089#64, 0x8000000000008003#64,
   0x8000000000008002#64, 0x8000000000000080#64, 0x000000000000800A#64, 0x800000008000000A#64,
   0x8000000080008081#64, 0x8000000000008080#64, 0x0000000080000001#64, 0x8000000080008008#64]

/-- Rotation offsets, lane x + 5y. -/
def keccakRot : List Nat :=
  [0, 1, 62, 28, 27, 36, 44, 6, 55, 20, 3, 10, 43, 25, 39, 41, 45, 15, 21, 8, 18, 2, 61, 56, 14]

/-- One round: theta, rho, pi, chi, iota on 25 lanes (lane x + 5y). -/
def keccakRound (a : List (BitVec 64)) (rc : BitVec 64) : List (BitVec 64) :=
  let l (v : List (BitVec 64)) (i : Nat) : BitVec 64 := v.getD i 0
  let c := (List.range 5).map fun x => l a x ^^^ l a (x + 5) ^^^ l a (x + 10) ^^^ l a (x + 15) ^^^ l a (x + 20)
  let d := (List.range 5).map fun x => l c ((x + 4) % 5) ^^^ (l c ((x + 1) % 5)).rotateLeft 1
  let t := (List.range 25).map fun i => l a i ^^^ l d (i % 5)
  let b := (List.range 25).map fun i =>
    -- position X + 5Y takes lane (X + 3Y) mod 5 of row X
    let src := (i % 5 + 3 * (i / 5)) % 5 + 5 * (i % 5)
    (l t src).rotateLeft (keccakRot.getD src 0)
  let e := (List.range 25).map fun i =>
    l b i ^^^ (~~~ l b (i / 5 * 5 + (i % 5 + 1) % 5) &&& l b (i / 5 * 5 + (i % 5 + 2) % 5))
  match e with
  | h :: r => (h ^^^ rc) :: r
  | [] => []

def keccakF (a : List (BitVec 64)) : List (BitVec 64) := keccakRC.foldl keccakRound a

/-- Little-endian value of a byte list. -/
def leNat : List Byte → Nat
  | [] => 0
  | b :: t => b.toNat + 256 * leNat t

/-- The low n bytes of a value, little-endian. -/
def leBytes : Nat → Nat → List Byte
  | 0, _ => []
  | n + 1, v => BitVec.ofNat 8 v :: leBytes n (v / 256)

/-- XOR a block of at most 136 bytes into the sponge. -/
def keccakAbsorb (a : List (BitVec 64)) (blk : List Byte) : List (BitVec 64) :=
  a.zipIdx.map fun (w, i) => w ^^^ BitVec.ofNat 64 (leNat ((blk.drop (8 * i)).take 8))

/-- Absorb all full blocks, then the padded last one (fuel: number of blocks). -/
def shakeAbsorb : Nat → List (BitVec 64) → List Byte → List (BitVec 64)
  | 0, a, _ => a
  | f + 1, a, m =>
    if m.length < 136 then
      let z := 136 - m.length
      let pad : List Byte :=
        if z = 1 then [0x9F#8] else 0x1F#8 :: (List.replicate (z - 2) 0#8 ++ [0x80#8])
      keccakF (keccakAbsorb a (m ++ pad))
    else shakeAbsorb f (keccakF (keccakAbsorb a (m.take 136))) (m.drop 136)

def spongeBytes (a : List (BitVec 64)) : List Byte :=
  (a.take 17).flatMap fun w => leBytes 8 w.toNat

/-- Squeeze `n` bytes (fuel: number of blocks). -/
def shakeSqueeze : Nat → List (BitVec 64) → Nat → List Byte
  | 0, _, _ => []
  | f + 1, a, n => if n ≤ 136 then (spongeBytes a).take n
    else spongeBytes a ++ shakeSqueeze f (keccakF a) (n - 136)

/-- SHAKE256 of a message, `n` bytes of output. -/
def shake256 (m : List Byte) (n : Nat) : List Byte :=
  shakeSqueeze (n / 136 + 1) (shakeAbsorb (m.length / 136 + 1) (List.replicate 25 0#64) m) n

/-- The bytes of an ASCII string. -/
def ascii (s : String) : List Byte := s.toList.map fun c => BitVec.ofNat 8 c.toNat

/-- One byte into the CRC-32 of IEEE 802.3, reflected form. -/
def crcByte (c : BitVec 32) (b : Byte) : BitVec 32 :=
  (List.range 8).foldl (fun (x : BitVec 32) _ =>
    if x.getLsbD 0 then (x >>> 1) ^^^ 0xEDB88320#32 else x >>> 1) (c ^^^ b.setWidth 32)

/-- CRC-32 of IEEE 802.3 (R339). -/
def crc32 (m : List Byte) : Nat := (~~~ (m.foldl crcByte 0xFFFFFFFF#32)).toNat

end Sys2Proof.Machine
end

