-- ==== Sys2Proof/Machine/SMap.lean ====
section
/-!
DEFINITION. Sparse maps in one canonical form: a list of (key, value) with keys strictly rising and no
entry equal to the default an unlisted key reads as. Equal maps are equal data. Lists with a place for each element.
-/
namespace Sys2Proof.Machine

/-- The value at a key; an unlisted key reads as the default. -/
def mget {α : Type} (d : α) : List (Nat × α) → Nat → α
  | [], _ => d
  | (k, v) :: t, x => if x = k then v else mget d t x

/-- The entries under other keys. -/
def mdel {α : Type} (m : List (Nat × α)) (x : Nat) : List (Nat × α) := m.filter fun e => e.1 != x

/-- Set a key; setting the default removes every entry of it. -/
def mset {α : Type} [DecidableEq α] (d : α) : List (Nat × α) → Nat → α → List (Nat × α)
  | [], x, v => if v = d then [] else [(x, v)]
  | (k, w) :: t, x, v =>
    if x < k then (if v = d then (k, w) :: mdel t x else (x, v) :: (k, w) :: t)
    else if x = k then (if v = d then mdel t x else (k, v) :: t)
    else (k, w) :: mset d t x v

/-- The canonical form: keys strictly rising, all above a lower limit, no default entry. -/
def mwfFrom {α : Type} [DecidableEq α] (d : α) : Nat → List (Nat × α) → Bool
  | _, [] => true
  | lo, (k, v) :: t => decide (lo ≤ k) && decide (v ≠ d) && mwfFrom d (k + 1) t

/-- The canonical form. -/
def mwf {α : Type} [DecidableEq α] (d : α) (m : List (Nat × α)) : Bool := mwfFrom d 0 m

/-- Keep the entries whose key passes a test. -/
def mkeep {α : Type} (p : Nat → Bool) (m : List (Nat × α)) : List (Nat × α) := m.filter fun e => p e.1

/-- Replace the first element that passes a test. -/
def putFirst {α : Type} (p : α → Bool) (y : α) : List α → List α
  | [] => []
  | x :: t => if p x then y :: t else x :: putFirst p y t

end Sys2Proof.Machine
end

