-- ==== Sys2Proof/Machine/Operands.lean ====
section
/-!
DEFINITION. Operand forms: descriptor fields (06 R192), tensor descriptors (06 R196-R199), element
addressing and packing (02 R56, 06 R198), reading elements and converting results into a tensor
(02 R69-R72, R76-R79), the canonical byte stream of a tensor (11 R437), and byte-exact overlap.
-/
namespace Sys2Proof.Machine

/-! ## Command descriptors -/

/-- Field high:low of 32-bit word `w` of a descriptor (word w is bytes 4w+3:4w). -/
def fld (d : Desc) (w hi lo : Nat) : Nat := bits d.toNat (32 * w + hi) (32 * w + lo)

def dOpcode (d : Desc) : Nat := fld d 0 31 24

/-- A descriptor with field high:low of word `w` replaced. -/
def putFld (d : Desc) (w hi lo v : Nat) : Desc := BitVec.ofNat 512 (putBits d.toNat (32 * w + hi) (32 * w + lo) v)

/-- A flag reference (R193). -/
structure FlagRef where
  en : Bool
  die : Nat
  idx : Nat
  deriving DecidableEq, Repr

def FlagRef.of (w : Nat) : FlagRef := ⟨bit w 15, bits w 14 12, bits w 11 0⟩

/-- Flags of a die: 4,096 on a C-die, 1,024 on the others (R208). -/
def flagCount (die : Nat) : Nat := if die < 4 then 4096 else 1024

def FlagRef.inRange (f : FlagRef) : Bool := f.idx < flagCount f.die

/-- Store key of a flag: 4,096 keys for each die. -/
def FlagRef.key (f : FlagRef) : Nat := f.die * 4096 + f.idx

/-- Positions of the set bits of a mask of `n` bits, ascending. -/
def setBits (m n : Nat) : List Nat := (List.range n).filter fun i => m.testBit i

/-! ## Tensor descriptors -/

/-- Field high:low of word `w` of a tensor descriptor. -/
def tfld (t : TDesc) (w hi lo : Nat) : Nat := bits t.toNat (32 * w + hi) (32 * w + lo)

def putTfld (t : TDesc) (w hi lo v : Nat) : TDesc :=
  BitVec.ofNat 256 (putBits t.toNat (32 * w + hi) (32 * w + lo) v)

def TDesc.base (t : TDesc) : Nat := tfld t 0 31 0 + tfld t 1 15 0 * 2 ^ 32
def TDesc.vtag (t : TDesc) : Nat := tfld t 1 31 16
def TDesc.stride (t : TDesc) : Nat := tfld t 2 31 0
/-- Signed scale offset in units of 128 bytes. -/
def TDesc.scaleOff (t : TDesc) : Int :=
  let v := tfld t 3 31 0
  if v < 2 ^ 31 then v else (v : Int) - 2 ^ 32
def TDesc.grad (t : TDesc) : Bool := tfld t 4 31 31 = 1
def TDesc.mxax (t : TDesc) : Nat := tfld t 4 30 30
def TDesc.fmtCode (t : TDesc) : Nat := tfld t 4 29 24
def TDesc.inner (t : TDesc) : Nat := tfld t 4 23 0
def TDesc.digSlot (t : TDesc) : Nat := tfld t 5 31 24
def TDesc.outer (t : TDesc) : Nat := tfld t 5 23 0
def TDesc.digEn (t : TDesc) : Bool := tfld t 6 31 31 = 1
def TDesc.poison (t : TDesc) : Bool := tfld t 6 30 30 = 1
def TDesc.poisonSeq (t : TDesc) : Nat := tfld t 6 29 18
def TDesc.otagValid (t : TDesc) : Bool := tfld t 6 17 17 = 1
def TDesc.otag (t : TDesc) : Nat := tfld t 6 15 0
def TDesc.logical (t : TDesc) : Nat := tfld t 7 31 0
/-- The element format; a reserved code never enters a table (R199). -/
def TDesc.fmt (t : TDesc) : Fmt := (Fmt.ofCode t.fmtCode).getD (.plain .fp32)
def TDesc.isMx (t : TDesc) : Bool := t.fmt.isMx
def TDesc.elem (t : TDesc) : Elem := t.fmt.elem

def TDesc.setPoison (t : TDesc) (p : Bool) (seq : Nat) : TDesc := putTfld (putTfld t 6 30 30 (b2n p)) 6 29 18 seq
def TDesc.setVtag (t : TDesc) (v : Nat) : TDesc := putTfld t 1 31 16 v
def TDesc.setOtag (t : TDesc) (v : Nat) : TDesc := putTfld (putTfld t 6 15 0 v) 6 17 17 1

/-- The fields a load clears (R187): VTAG 0, OTAG_VALID 0, POISON 0. The rest come from the binary. -/
def TDesc.cleared (t : TDesc) : TDesc :=
  putTfld (putTfld (putTfld t 1 31 16 0) 6 30 30 0) 6 17 17 0

def roundUp (a b : Nat) : Nat := ceilDiv a b * b

/-- Bytes of one packed row (R56). -/
def TDesc.rowBytes (t : TDesc) : Nat := ceilDiv (t.inner * t.elem.width) 8

def TDesc.scaleBase (t : TDesc) : Nat := ((t.base : Int) + 128 * t.scaleOff).toNat
def TDesc.scaleCols (t : TDesc) : Nat := if t.mxax = 0 then ceilDiv t.inner 32 else t.inner
def TDesc.scaleRows (t : TDesc) : Nat := if t.mxax = 0 then t.outer else ceilDiv t.outer 32
def TDesc.scaleStride (t : TDesc) : Nat := roundUp t.scaleCols 128

/-- Rows of bytes: `n` rows of `len` bytes, `stride` apart. -/
structure Rows where
  base : Nat
  stride : Nat
  len : Nat
  n : Nat
  deriving DecidableEq, Repr

/-- The byte rows a tensor occupies: its data, and its scale array if MX. -/
def TDesc.rows (t : TDesc) : List Rows :=
  ⟨t.base, t.stride, t.rowBytes, t.outer⟩ ::
    (if t.isMx then [⟨t.scaleBase, t.scaleStride, t.scaleCols, t.scaleRows⟩] else [])

/-- One past the last byte. -/
def Rows.top (r : Rows) : Nat := r.base + (r.n - 1) * r.stride + r.len

/-- Whether some byte of [a, a + len) lies in a row. -/
def Rows.hits (r : Rows) (a len : Nat) : Bool :=
  if r.n = 0 || r.len = 0 || len = 0 then false
  else if r.n = 1 || r.stride ≤ r.len then decide (a < r.top && r.base < a + len)
  else
    let k := if a < r.base + r.len then 0 else (a - r.base - r.len) / r.stride + 1
    decide (k < r.n) && decide (r.base + k * r.stride < a + len)

/-- Whether two sets of byte rows share a byte. -/
def Rows.overlap (x y : Rows) : Bool :=
  (List.range x.n).any fun i => y.hits (x.base + i * x.stride) x.len

/-- Whether two tensors share a byte. -/
def TDesc.overlaps (x y : TDesc) : Bool := x.rows.any fun a => y.rows.any fun b => a.overlap b

/-- Bytes of a tensor, elements and scales (the d_bytes of R207). -/
def TDesc.bytes (t : TDesc) : Nat :=
  t.outer * t.rowBytes + (if t.isMx then t.scaleRows * t.scaleCols else 0)

/-! ## Memory bytes -/

/-- A module memory: bytes by address; an unlisted byte reads 0. -/
abbrev Mem := List (Nat × Byte)

def rdByte (m : Mem) (a : Nat) : Byte := mget 0#8 m a
def rdBytes (m : Mem) (a n : Nat) : List Byte := (List.range n).map fun i => rdByte m (a + i)
/-- `n` bytes at `a`, little-endian. -/
def rdNat (m : Mem) (a n : Nat) : Nat := leNat (rdBytes m a n)

def wrBytes (m : Mem) : Nat → List Byte → Mem
  | _, [] => m
  | a, b :: t => wrBytes (mset 0#8 m a b) (a + 1) t

/-- Write `w` bits of `v` at bit `off` of byte `a`; the other bits of the bytes touched keep their values. -/
def wrBits (m : Mem) (a off w v : Nat) : Mem :=
  let n := ceilDiv (off + w) 8
  wrBytes m a (leBytes n (if w = 0 then rdNat m a n else putBits (rdNat m a n) (off + w - 1) off v))

/-! ## Elements -/

/-- Byte address and bit of element (r, c). -/
def TDesc.addr (t : TDesc) (r c : Nat) : Nat := t.base + r * t.stride + c * t.elem.width / 8
def TDesc.bitOff (t : TDesc) (c : Nat) : Nat := c * t.elem.width % 8
def TDesc.scaleAddr (t : TDesc) (r c : Nat) : Nat :=
  if t.mxax = 0 then t.scaleBase + r * t.scaleStride + c / 32
  else t.scaleBase + r / 32 * t.scaleStride + c

/-- The code of element (r, c). -/
def rdCode (m : Mem) (t : TDesc) (r c : Nat) : Nat :=
  let w := t.elem.width
  (rdNat m (t.addr r c) (ceilDiv (t.bitOff c + w) 8) >>> t.bitOff c) % 2 ^ w

/-- The exact value of element (r, c), block scale applied (R57). -/
def rdVal (m : Mem) (t : TDesc) (r c : Nat) : Fv :=
  if t.isMx then mxVal t.elem (rdByte m (t.scaleAddr r c)).toNat (rdCode m t r c)
  else t.elem.dec (rdCode m t r c)

/-- Element (r, c) widened to FP32 (R69, R131). -/
def rdF32 (m : Mem) (t : TDesc) (r c : Nat) : F32 := f32r (rdVal m t r c)

/-- One write: `w` bits of `v` at bit `off` of byte `a`. -/
structure Wr where
  a : Nat
  off : Nat
  w : Nat
  v : Nat
  deriving DecidableEq, Repr

/-- Write of element code (r, c). -/
def wrElem (t : TDesc) (r c code : Nat) : Wr := ⟨t.addr r c, t.bitOff c, t.elem.width, code⟩

/-- Convert an FP32 value into element (r, c) of a plain tensor: the write, and whether it raises OVERFLOW
for a gradient tensor (R72, R105). `rnd` gives the rounding by logical index. -/
def convPlain (t : TDesc) (rnd : Nat → Rnd) (r c : Nat) (v : F32) : List Wr × Bool :=
  let q := rnd (r * t.inner + c)
  ([wrElem t r c (t.elem.enc q (f32v v))], t.grad && overflowsIn t.elem q (f32v v))

/-- Convert one MX block whose elements are the cells listed (R71). -/
def convBlock (t : TDesc) (rnd : Nat → Rnd) (cells : List (Nat × Nat)) (val : Nat → Nat → F32) : List Wr × Bool :=
  match cells with
  | [] => ([], false)
  | (r0, c0) :: _ =>
    let vs := cells.map fun (r, c) => f32v (val r c)
    let rn (i : Nat) : Rnd := match cells[i]? with
      | some (r, c) => rnd (r * t.inner + c)
      | none => .near
    let (sc, codes) := mxBlock t.elem rn vs
    (⟨t.scaleAddr r0 c0, 0, 8, sc⟩ :: (cells.zip codes).map fun ((r, c), k) => wrElem t r c k,
      t.grad && sc == 0xFF)

/-- Indices lo .. hi - 1. -/
def rangeFrom (lo hi : Nat) : List Nat := (List.range (hi - lo)).map (lo + ·)

/-- Convert the rectangle rows [r0, r1) by columns [c0, c1) of a tensor, whole blocks if MX: all writes, and
whether any raises OVERFLOW. `r0` and `c0` start blocks. -/
def convRect (t : TDesc) (rnd : Nat → Rnd) (r0 r1 c0 c1 : Nat) (val : Nat → Nat → F32) : List Wr × Bool :=
  let parts :=
    if t.isMx then
      if t.mxax = 0 then
        (rangeFrom r0 r1).flatMap fun r => (List.range (ceilDiv (c1 - c0) 32)).map fun b =>
          convBlock t rnd ((rangeFrom (c0 + 32 * b) (min c1 (c0 + 32 * b + 32))).map fun c => (r, c)) val
      else
        (rangeFrom c0 c1).flatMap fun c => (List.range (ceilDiv (r1 - r0) 32)).map fun b =>
          convBlock t rnd ((rangeFrom (r0 + 32 * b) (min r1 (r0 + 32 * b + 32))).map fun r => (r, c)) val
    else (rangeFrom r0 r1).flatMap fun r => (rangeFrom c0 c1).map fun c => convPlain t rnd r c (val r c)
  (parts.flatMap (·.1), parts.any (·.2))

/-- Rounding of a conversion that asks for stochastic rounding or not (R76, R77). -/
def rndOf (stoch : Bool) (seed step tid idx : Nat) : Rnd :=
  if stoch then .stoch (srDraw seed step tid idx) else .near

/-- The canonical byte stream of a tensor (R437): its rows' packed bytes in order, then its scale rows. -/
def TDesc.stream (m : Mem) (t : TDesc) : List Byte :=
  t.rows.flatMap fun x => (List.range x.n).flatMap fun i => rdBytes m (x.base + i * x.stride) x.len

/-! ## Places of the module address map (01 R21) -/

/-- Whether [a, b) lies in the tile store of C-die n. -/
def inTile (n a b : Nat) : Bool :=
  decide (0x400000000000 + n * 0x100000000 ≤ a) && decide (b ≤ 0x400000000000 + n * 0x100000000 + 0xC000000)

/-- Whether [a, b) lies in the stat store of C-die n. -/
def inStat (n a b : Nat) : Bool :=
  decide (0x400040000000 + n * 0x100000000 ≤ a) && decide (b ≤ 0x400040000000 + n * 0x100000000 + 0x800000)

/-- Whether [a, b) lies in the scratch window of M-die k with `ways` scratch ways. -/
def inScratch (k ways a b : Nat) : Bool :=
  decide (0x500000000000 + k * 0x100000000 ≤ a) &&
    decide (b ≤ 0x500000000000 + k * 0x100000000 + ways * 0x2000000)

/-- Every byte of a tensor's rows passes an interval test. -/
def TDesc.within (t : TDesc) (p : Nat → Nat → Bool) : Bool := t.rows.all fun r => p r.base r.top

/-- The alignment and stride rules of 03 R94 for a tensor in the tile store. -/
def TDesc.alignOk (t : TDesc) : Bool :=
  let ok (r : Rows) (unit : Nat) := r.base % 128 = 0 && (r.n ≤ 1 || r.stride % unit = 0)
  match t.rows with
  | d :: s => ok d (if t.elem.width = 6 then 384 else 128) && s.all fun x => ok x 128
  | [] => true

end Sys2Proof.Machine
end

