-- ==== Sys2Proof/Machine/Checks.lean ====
section
/-!
DEFINITION. What makes a command illegal or inconsistent: skip codes (06 R220), the order in which rules
are applied (R550), and the checks shared by the opcodes.
-/
namespace Sys2Proof.Machine

/-- One broken rule: the stage of R550 it belongs to, its skip code, and the offending field as a descriptor
word and bit (255 where no field is at fault). -/
structure Viol where
  stage : Nat
  code : Nat
  word : Nat
  bit : Nat
  deriving DecidableEq, Repr

/-- Skip codes (R220). -/
def skReserved : Nat := 0x01
def skField : Nat := 0x02
def skFormat : Nat := 0x03
def skShape : Nat := 0x04
def skPlacement : Nat := 0x05
def skNull : Nat := 0x06
def skFlagRange : Nat := 0x07
def skAbsent : Nat := 0x08
def skWaitRange : Nat := 0x09
def skPatchRange : Nat := 0x0A
def skOverlap : Nat := 0x0B
def skVersion : Nat := 0x0C
def skStatKey : Nat := 0x0D
def skGatherIndex : Nat := 0x0E
def skStepControl : Nat := 0x0F
def skFenced : Nat := 0x10
def skHardFault : Nat := 0x11
def skUmbra : Nat := 0x12
def skPeerMismatch : Nat := 0x13

/-- Place of a body check's code in step 3 of R550; the region-table checks of R252 stand at 39. -/
def bodyStage (code : Nat) : Nat :=
  if code = skReserved then 30 else if code = skField then 31 else if code = skNull then 32
  else if code = skAbsent then 33 else if code = skFormat then 34 else if code = skShape then 35
  else if code = skPlacement then 36 else if code = skOverlap then 37 else if code = skVersion then 38
  else if code = skStatKey then 40 else if code = skStepControl then 41 else 50

/-- A body check that fails at a field. -/
def bodyV (bad : Bool) (code word bit : Nat) : List Viol := if bad then [⟨bodyStage code, code, word, bit⟩] else []

/-- The earlier of two broken rules: by stage, then by word and bit (R550). -/
def Viol.before (x y : Viol) : Bool :=
  x.stage < y.stage || (x.stage = y.stage && (x.word < y.word || (x.word = y.word && x.bit ≤ y.bit)))

/-- The rule a command is skipped under: the first of all broken ones (R550). -/
def firstViol : List Viol → Option Viol
  | [] => none
  | v :: t => match firstViol t with
    | none => some v
    | some w => some (if v.before w then v else w)

/-- A reserved field must be 0 (R16). -/
def resv (d : Desc) (w hi lo : Nat) : List Viol := bodyV (fld d w hi lo != 0) skReserved w lo
/-- Words lo .. hi are reserved. -/
def resvWords (d : Desc) (lo hi : Nat) : List Viol := (rangeFrom lo (hi + 1)).flatMap fun w => resv d w 31 0
/-- A field that must be 0 for the opcode. -/
def mustZero (d : Desc) (w hi lo : Nat) : List Viol := bodyV (fld d w hi lo != 0) skField w lo
/-- A named tensor must not be the null tensor (R199). -/
def notNull (d : Desc) (w hi lo : Nat) : List Viol := bodyV (fld d w hi lo = 0) skNull w lo

/-- The header's checks (R194), stages 10 to 12. -/
def headerChecks (d : Desc) : List Viol :=
  let pen := fld d 0 15 15 = 1
  let v (bad : Bool) (st code w b : Nat) : List Viol := if bad then [⟨st, code, w, b⟩] else []
  let wait := FlagRef.of (fld d 1 15 0)
  let sig := FlagRef.of (fld d 1 31 16)
  let sig2 := FlagRef.of (fld d 3 15 0)
  v (fld d 0 0 0 != 0) 10 skReserved 0 0 ++
  v (!pen && fld d 0 5 1 != 0) 10 skReserved 0 1 ++
  v (!pen && fld d 0 10 6 != 0) 10 skReserved 0 6 ++
  v (!pen && fld d 0 14 11 != 0) 10 skReserved 0 11 ++
  v (!pen && fld d 0 23 16 != 0) 10 skReserved 0 16 ++
  v (pen && fld d 0 14 11 < 4) 10 skReserved 0 11 ++
  v (pen && fld d 0 10 6 + fld d 0 5 1 + 1 > 32) 10 skReserved 0 1 ++
  -- a reference with EN = 0 must be 0x0000 (R193)
  v (!wait.en && fld d 1 15 0 != 0) 11 skField 1 0 ++
  v (!sig.en && fld d 1 31 16 != 0) 11 skField 1 16 ++
  v (!sig2.en && fld d 3 15 0 != 0) 11 skField 3 0 ++
  v (!wait.en && fld d 2 31 0 != 0) 11 skField 2 0 ++
  v (!wait.en && fld d 3 31 24 != 0) 11 skField 3 24 ++
  v (fld d 3 23 16 = 0 && (sig.en || sig2.en)) 11 skField 3 16 ++
  v (fld d 3 23 16 != 0 && !sig.en && !sig2.en) 11 skField 3 16 ++
  v (wait.en && !wait.inRange) 12 skFlagRange 1 0 ++
  v (sig.en && !sig.inRange) 12 skFlagRange 1 16 ++
  v (sig2.en && !sig2.inRange) 12 skFlagRange 3 0

/-- Shape check of a named tensor. -/
def shapeIs (t : TDesc) (outer inner : Nat) (w b : Nat) : List Viol :=
  bodyV (t.outer != outer || t.inner != inner) skShape w b

/-- A tensor that must lie in the tile store of C-die n and meet R94. -/
def tileOk (n : Nat) (t : TDesc) (w b : Nat) : List Viol :=
  bodyV (!t.within (inTile n) || !t.alignOk) skPlacement w b

end Sys2Proof.Machine
end

