-- ==== Sys2Proof/Machine/Stream.lean ====
section
/-!
DEFINITION. Commands of the command processor, the movers, the prefetchers and the prism units: fields, checks
and time bounds (06 R205-R207, R213, R217, R235, R238; 08 R315; 11 R440-R442, R444).
-/
namespace Sys2Proof.Machine

/-! ## DMA (06 R205-R207) -/

def dmaTag (d : Desc) : Nat := fld d 4 31 30
def dmaDst (d : Desc) : Nat := fld d 4 28 16
def dmaSrc (d : Desc) : Nat := fld d 4 12 0
def dmaRef (d : Desc) : Nat := fld d 5 28 16
def dmaIdx (d : Desc) : Nat := fld d 5 12 0
def dmaMask (d : Desc) : Nat := fld d 6 7 0
def dmaFill (d : Desc) : Nat := fld d 7 31 0

/-- Whether the check of TAG_MODE 0b10 fails (06 R202). -/
def tagMismatch (ref : TDesc) (vtag : Nat) : Bool := !ref.otagValid || ref.otag != vtag

/-- Checks of a DMA command. Formats or shapes of S and D that disagree are laid to D's field (DESIGN CHOICE, assumption
42). -/
def dmaChecks (tt : Nat → TDesc) (stores : Nat → Nat → Bool) (d : Desc) : List Viol :=
  let op := dOpcode d
  let td := tt (dmaDst d); let ts := tt (dmaSrc d); let ti := tt (dmaIdx d)
  let fill := op = 0x62; let gather := op = 0x61; let copy := op = 0x60
  let place (t : TDesc) (w b : Nat) : List Viol := bodyV (!t.within stores) skPlacement w b
  resv d 4 29 29 ++ resv d 4 15 13 ++ resv d 5 31 29 ++ resv d 5 15 13 ++ resv d 6 31 8 ++ resvWords d 8 15 ++
  bodyV (dmaTag d = 3 && !fill) skReserved 4 30 ++
  bodyV (fill && dmaTag d != 0) skField 4 30 ++ bodyV (fill && dmaSrc d != 0) skField 4 0 ++
  bodyV (dmaRef d != 0 && (fill || dmaTag d != 2)) skField 5 16 ++ bodyV (dmaIdx d != 0 && !gather) skField 5 0 ++
  bodyV (dmaMask d = 0) skField 6 0 ++ bodyV (!fill && dmaFill d != 0) skField 7 0 ++
  bodyV (fill && dmaFill d ≥ 2 ^ td.elem.width) skField 7 0 ++
  notNull d 4 28 16 ++ (if fill then [] else notNull d 4 12 0) ++ (if gather then notNull d 5 12 0 else []) ++
  (if !fill && dmaTag d = 2 then notNull d 5 28 16 else []) ++
  bodyV (!fill && (td.fmtCode != ts.fmtCode || td.mxax != ts.mxax)) skFormat 4 16 ++
  bodyV (gather && ts.isMx && ts.mxax != 0) skFormat 4 0 ++ bodyV (gather && ti.fmt != .plain .int32) skFormat 5 0 ++
  bodyV (fill && (td.isMx || td.fmt = .plain .int32)) skFormat 4 16 ++
  bodyV (copy && (td.outer != ts.outer || td.inner != ts.inner)) skShape 4 16 ++
  bodyV (gather && td.inner != ts.inner) skShape 4 16 ++
  bodyV (gather && (ti.outer != 1 || ti.inner != td.outer)) skShape 5 0 ++
  place td 4 16 ++ (if fill then [] else place ts 4 0) ++ (if gather then place ti 5 0 else []) ++
  bodyV (!fill && dmaTag d = 2 && tagMismatch (tt (dmaRef d)) ts.vtag) skVersion 5 16

def dmaOutputs (d : Desc) : List Nat := [dmaDst d]
def dmaInputs (d : Desc) : List Nat :=
  if dOpcode d = 0x62 then [] else dmaSrc d :: (if dOpcode d = 0x61 then [dmaIdx d] else [])

def dmaBound (n : Nat) (tt : Nat → TDesc) (rate : Nat) (d : Desc) : Nat :=
  let ids := dmaDst d :: dmaInputs d
  let far := ids.any fun i => !(tt i).within (inTile n)
  32 + (if far then 512 else 0) + ceilDiv (tt (dmaDst d)).bytes ((setBits (dmaMask d) 8).length * rate) +
    (if dOpcode d = 0x61 then ceilDiv (tt (dmaIdx d)).bytes 128 else 0) + 64

/-! ## Prefetch streams (08 R315) -/

def pfStream (d : Desc) : Nat := if dOpcode d = 0x68 then fld d 4 21 16 else fld d 4 5 0
def pfSrc (d : Desc) : Nat := fld d 4 12 0
def pfFirst (d : Desc) : Nat := fld d 5 23 0
def pfRows (d : Desc) : Nat := fld d 6 23 0
def pfLimit (d : Desc) : Nat := fld d 7 9 0

def pfChecks (tt : Nat → TDesc) (inMem : Nat → Nat → Bool) (hints : Nat) (d : Desc) : List Viol :=
  if dOpcode d = 0x69 then resv d 4 31 6 ++ resvWords d 5 15
  else
    resv d 4 31 22 ++ resv d 4 15 13 ++ resv d 5 31 24 ++ resv d 6 31 24 ++ resv d 7 31 10 ++ resvWords d 8 15 ++
    bodyV (pfRows d = 0) skReserved 6 0 ++ bodyV (pfLimit d = 0) skReserved 7 0 ++
    bodyV (pfLimit d > 512) skField 7 0 ++ bodyV (pfStream d + hints ≥ 64) skField 4 16 ++ notNull d 4 12 0 ++
    bodyV (pfFirst d + pfRows d > (tt (pfSrc d)).outer) skShape 6 0 ++
    bodyV (!(tt (pfSrc d)).within inMem) skPlacement 4 0

/-! ## Flags and patches (06 R213, R217) -/

/-- The waits of a command: reference, base, multiplier, and the word of the reference (06 R192, R213). -/
def cmdWaits (d : Desc) : List (FlagRef × Nat × Nat × Nat) :=
  let hd := (FlagRef.of (fld d 1 15 0), fld d 2 31 0, fld d 3 31 24, 1)
  if dOpcode d = 0x90 then
    hd :: [4, 6, 8].map fun w => (FlagRef.of (fld d w 15 0), fld d (w + 1) 31 0, fld d w 23 16, w)
  else [hd]

/-- The signals of a command: reference and increment (06 R192, R213). -/
def cmdSignals (d : Desc) : List (FlagRef × Nat) :=
  let hd := [(FlagRef.of (fld d 1 31 16), fld d 3 23 16), (FlagRef.of (fld d 3 15 0), fld d 3 23 16)]
  let body := if dOpcode d = 0x91 then [4, 5, 6, 7].map fun w => (FlagRef.of (fld d w 15 0), fld d w 23 16) else []
  (hd ++ body).filter fun (r, _) => r.en && r.inRange

/-- Target of a wait at step count `sq`, in 64 bits (06 R209). -/
def waitTarget (base mul sq : Nat) : Nat := (base + mul * sq) % 2 ^ 64

/-- Rules on waits that stop their evaluation: FIELD, FLAG_RANGE and WAIT_RANGE of a wait (06 R219). -/
def waitViols (d : Desc) (sq : Nat) : List Viol :=
  (cmdWaits d).flatMap fun (r, base, mul, w) =>
    let bw := if w = 1 then 2 else w + 1
    let mw := if w = 1 then 3 else w
    let mb := if w = 1 then 24 else 16
    let st := if w = 1 then 11 else 31
    (if !r.en && base != 0 then [(⟨st, skField, bw, 0⟩ : Viol)] else []) ++
    (if !r.en && mul != 0 then [(⟨st, skField, mw, mb⟩ : Viol)] else []) ++
    (if r.en && !r.inRange then [(⟨12, skFlagRange, w, 0⟩ : Viol)] else []) ++
    (if r.en && waitTarget base mul sq > 0xFFFFFFFF then [(⟨20, skWaitRange, bw, 0⟩ : Viol)] else [])

def flagChecks (d : Desc) : List Viol :=
  if dOpcode d = 0x90 then
    ([4, 6, 8].flatMap fun w =>
      resv d w 31 24 ++ bodyV (fld d w 15 15 = 0 && fld d w 15 0 != 0) skField w 0) ++
    ((rangeFrom 10 16).flatMap fun w => mustZero d w 31 0)
  else
    ([4, 5, 6, 7].flatMap fun w =>
      resv d w 31 24 ++ bodyV (fld d w 15 15 = 0 && fld d w 15 0 != 0) skField w 0 ++
      bodyV (fld d w 23 16 = 0 && fld d w 15 0 != 0) skField w 16 ++
      (let r := FlagRef.of (fld d w 15 0)
       if r.en && !r.inRange then [(⟨12, skFlagRange, w, 0⟩ : Viol)] else [])) ++
    ((rangeFrom 8 16).flatMap fun w => mustZero d w 31 0)

def patchReg (d : Desc) : Nat := if dOpcode d = 0x94 then fld d 4 23 16 else fld d 4 7 0
def patchSrc (d : Desc) : Nat := fld d 4 12 0
def patchCount (d : Desc) : Nat := fld d 5 8 0

def patchChecks (n : Nat) (tt : Nat → TDesc) (d : Desc) : List Viol :=
  if dOpcode d = 0x94 then
    let t := tt (patchSrc d)
    mustZero d 4 31 24 ++ mustZero d 4 15 13 ++ mustZero d 5 31 9 ++ ((rangeFrom 6 16).flatMap fun w => mustZero d w 31 0) ++
    bodyV (patchCount d = 0 || patchCount d > 256 || patchReg d + patchCount d > 256) skField 5 0 ++
    notNull d 4 12 0 ++ bodyV (t.bytes < 4 * patchCount d) skShape 4 0 ++
    bodyV (!t.within (inTile n)) skPlacement 4 0
  else mustZero d 4 31 8 ++ ((rangeFrom 6 16).flatMap fun w => mustZero d w 31 0)

/-! ## Patched fields (06 R214, R215) -/

def dPatchEn (d : Desc) : Bool := fld d 0 15 15 = 1
def dPatchReg (d : Desc) : Nat := fld d 0 23 16
def dPatchWord (d : Desc) : Nat := fld d 0 14 11
def dPatchLsb (d : Desc) : Nat := fld d 0 10 6
def dPatchMsb (d : Desc) : Nat := fld d 0 10 6 + fld d 0 5 1
def dPatchLegal (d : Desc) : Bool := dPatchEn d && 4 ≤ dPatchWord d && dPatchMsb d < 32

/-- The value a patch register's low bits give the field. -/
def patchValue (d : Desc) (reg : Nat) : Nat := bits reg (fld d 0 5 1) 0
/-- The descriptor as patched. -/
def patchDesc (d : Desc) (reg : Nat) : Desc :=
  if dPatchLegal d then putFld d (dPatchWord d) (dPatchMsb d) (dPatchLsb d) (patchValue d reg) else d
def patchViols (d : Desc) (reg : Nat) : List Viol :=
  if dPatchLegal d && patchValue d reg > fld d (dPatchWord d) (dPatchMsb d) (dPatchLsb d) then
    [⟨21, skPatchRange, dPatchWord d, dPatchLsb d⟩]
  else []
/-- Whether a patched 0 makes the command empty. -/
def patchEmpty (d : Desc) (reg : Nat) : Bool := dPatchLegal d && patchValue d reg = 0

/-! ## Digests (11 R440-R442, R444) -/

def digTensor (d : Desc) : Nat := fld d 4 12 0
def digMask (d : Desc) : Nat := fld d 4 23 16
def mirGroup (d : Desc) : Nat := fld d 4 13 8
def mirSlot (d : Desc) : Nat := fld d 4 7 0
def mirStride (d : Desc) : Nat := fld d 5 5 0
def mirStream (d : Desc) : Nat := fld d 4 31 16

def digChecks (n : Nat) (tt : Nat → TDesc) (d : Desc) : List Viol :=
  resv d 4 31 24 ++ resv d 4 15 13 ++ resvWords d 5 15 ++
  bodyV (!(tt (digTensor d)).digEn) skField 4 0 ++ bodyV (digMask d = 0) skField 4 16 ++ notNull d 4 12 0 ++
  bodyV (!(tt (digTensor d)).within (inTile n)) skPlacement 4 0

/-- Chunks of a tensor's stream (11 R438). -/
def digChunks (t : TDesc) : Nat := ceilDiv t.bytes 4096

def digBound (tt : Nat → TDesc) (d : Desc) : Nat :=
  let t := tt (digTensor d)
  let np := (setBits (digMask d) 8).length
  let lines := t.outer * ceilDiv t.rowBytes 128 + (if t.isMx then t.scaleRows * ceilDiv t.scaleCols 128 else 0)
  32 + max (ceilDiv (digChunks t) np * 64) (ceilDiv (2 * lines) np) + ceilDiv (8 * digChunks t + 21) 136 * 24 + 64

def mersenne61 : Nat := 2 ^ 61 - 1

/-- 56-bit words of a chunk, the last zero-padded (11 R438). -/
def words56 : Nat → List Byte → List Nat
  | 0, _ => []
  | _, [] => []
  | f + 1, bs => leNat (bs.take 7) :: words56 f (bs.drop 7)

def chunkHash (kappa : Nat) (bs : List Byte) : Nat :=
  (words56 (bs.length + 1) bs).foldl (fun h w => (h * kappa + w) % mersenne61) 0

/-- The key of a step (11 R438). -/
def digKappa (seed step : Nat) : Nat :=
  let k := leNat ((shake256 (ascii "ZARIUS-K" ++ leBytes 8 seed ++ leBytes 8 step) 32).take 8) % mersenne61
  if k < 2 then 2 else k

def chunksOf (n : Nat) : Nat → List Byte → List (List Byte)
  | 0, _ => []
  | _, [] => []
  | f + 1, bs => bs.take n :: chunksOf n f (bs.drop n)

/-- The digest of a tensor from its canonical stream (11 R439), as a little-endian number. -/
def tensorDigest (kappa : Nat) (t : TDesc) (stream : List Byte) : Nat :=
  let hashes := (chunksOf 4096 (stream.length + 1) stream).flatMap fun c => leBytes 8 (chunkHash kappa c)
  leNat (shake256 (ascii "ZARIUS-T" ++ leBytes 4 t.logical ++ leBytes 4 t.outer ++ leBytes 4 t.inner ++
    leBytes 1 t.fmtCode ++ hashes) 32)

/-! ## Step control (06 R238, 07 R262) -/

def shLen (d : Desc) : Nat := fld d 4 23 0
def shMask (d : Desc) : Nat := fld d 4 31 24

def stepChecks (voted : Bool) (d : Desc) : List Viol :=
  match dOpcode d with
  | 0xF2 => resv d 4 31 30 ++ resvWords d 5 15 ++ bodyV (shLen d = 0) skField 4 0 ++ bodyV (shMask d % 64 = 0) skField 4 24
  | 0xF1 => resvWords d 4 15 ++ bodyV voted skStepControl 255 255
  | _ => resvWords d 4 15

end Sys2Proof.Machine
end

