-- ==== Sys2Proof/Machine/Transc.lean ====
section
/-!
DEFINITION. The transcendental functions of the vector units, by the algorithms of 02 R81 and the
constants of R82 (each the FP32 value nearest its exact expression). R83's special results follow.
-/
namespace Sys2Proof.Machine

def constE : List F32 := [0x3F800000#32, 0x3F317218#32, 0x3E75FDF0#32, 0x3D635847#32, 0x3C1D955B#32,
  0x3AAEC3FF#32, 0x39218489#32, 0x377FE5FE#32]
def constG : List F32 := [0x4038AA3B#32, 0x3F76384F#32, 0x3F13BB63#32, 0x3ED30BB1#32, 0x3EA4258A#32]
def constH : List F32 := [0x40000000#32, 0x3F2AAAAB#32, 0x3ECCCCCD#32, 0x3E924925#32, 0x3E638E39#32]
def constT1 : F32 := 0xBEAAAAAB#32
def constT2 : F32 := 0x3E088889#32
def constT3 : F32 := 0xBD5D0DD1#32
def constS : List F32 := [0x3F906EBB#32, 0xBEC093A3#32, 0x3DE71791#32, 0xBCDC1672#32, 0x3BAB2DE7#32]
def constQP : F32 := 0x3EA7BA05#32
def constA : List F32 := [0x3E827906#32, 0xBE91A98E#32, 0x3FB5F0E3#32, 0xBFBA00E3#32, 0x3F87DC22#32]
def constLog2eHi : F32 := 0x3FB8AA3B#32
def constLog2eLo : F32 := 0x32A57060#32
def constLn2 : F32 := 0x3F317218#32

def f32One : F32 := 0x3F800000#32
def f32Zero : F32 := 0#32
def f32Inf : F32 := 0x7F800000#32
def f32NegInf : F32 := 0xFF800000#32

/-- Horner's rule by fused multiply-adds, the highest coefficient first taken (R81). -/
def horner (x : F32) : List F32 → F32
  | [] => f32Zero
  | [c] => c
  | c :: cs => ffma (horner x cs) x c

/-- FP32 nearest integer, ties to even. -/
def rintEven (x : F32) : F32 :=
  match f32v x with
  | .fin n m e => if 0 ≤ e then x else f32r (.fin n (roundShift .near m (-e).toNat) 0)
  | _ => x

/-- p * 2^n rounded once. -/
def ldexpRn (p : F32) (n : Int) : F32 := f32r ((f32v p).scale n)

def core2 (f : F32) : F32 := horner f constE

def zrExp2 (x : F32) : F32 :=
  if fisNan x then fnan
  else if fle 0x43000000#32 x then f32Inf
  else if flt x 0xC3170000#32 then f32Zero
  else ldexpRn (core2 (fsub x (rintEven x))) (f32v (rintEven x)).rintInt

def zrExp (x : F32) : F32 :=
  if fisNan x then fnan
  else if flt 0x42B20000#32 x then f32Inf
  else if flt x 0xC2D00000#32 then f32Zero
  else
    let n := rintEven (fmul x constLog2eHi)
    let f := ffma x constLog2eHi (fneg n)
    let f := ffma x constLog2eLo f
    ldexpRn (core2 f) (f32v n).rintInt

/-- x = f * 2^e with f in [1, 2), for finite x > 0; then the reduced argument s and the exponent (R81). -/
def reduceLog (x : F32) : F32 × Int :=
  match f32v x with
  | .fin _ m e =>
    let f := f32r (.fin false m (-(m.log2 : Int)))
    let ex := e + m.log2
    if flt 0x3FB504F3#32 f then
      let f := fmul f 0x3F000000#32
      (fdiv (fsub f f32One) (fadd f f32One), ex + 1)
    else (fdiv (fsub f f32One) (fadd f f32One), ex)
  | _ => (f32Zero, 0)

def zrLog2 (x : F32) : F32 :=
  if fisNan x || flt x f32Zero then fnan
  else if feq x f32Zero then f32NegInf
  else if x = f32Inf then f32Inf
  else
    let (s, e) := reduceLog x
    let z := fmul s s
    ffma s (horner z constG) (f32ofInt e)

def zrLog (x : F32) : F32 :=
  if fisNan x || flt x f32Zero then fnan
  else if feq x f32Zero then f32NegInf
  else if x = f32Inf then f32Inf
  else
    let (s, e) := reduceLog x
    let z := fmul s s
    ffma (f32ofInt e) constLn2 (fmul s (horner z constH))

def zrTanh (x : F32) : F32 :=
  if fisNan x then fnan
  else if feq x f32Zero then x
  else
    let a := fabs x
    let t :=
      if flt a 0x3D800000#32 then
        let z := fmul a a
        ffma (fmul a z) (ffma (ffma constT3 z constT2) z constT1) a
      else
        let e := zrExp (fmul 0xC0000000#32 a)
        fdiv (fsub f32One e) (fadd f32One e)
    fcopysign t x

def zrSigmoid (x : F32) : F32 :=
  if fisNan x then fnan
  else if fle f32Zero x then fdiv f32One (fadd f32One (zrExp (fneg x)))
  else
    let e := zrExp x
    fdiv e (fadd f32One e)

def zrErf (x : F32) : F32 :=
  if fisNan x then fnan
  else if feq x f32Zero then x
  else
    let a := fabs x
    let y :=
      if fle 0x40800000#32 a then f32One
      else if flt a 0x3E000000#32 then
        fmul a (horner (fmul a a) constS)
      else
        let t := fdiv f32One (ffma constQP a f32One)
        let q := fmul (horner t constA) t
        ffma (fneg q) (zrExp (fneg (fmul a a))) f32One
    fcopysign y x

/-! ## Activations (03 R102, R103) -/

def constInvSqrt2 : F32 := 0x3F3504F3#32
def constGtA : F32 := 0x3F4C422A#32
def constGtB : F32 := 0x3D372713#32
def f32Half : F32 := 0x3F000000#32

/-- The activation of code 0x00-0x07 (R102); every other code is reserved. -/
def activate (code : Nat) (v : F32) : F32 :=
  match code with
  | 1 => fmax v f32Zero
  | 2 => let r := fmax v f32Zero; fmul r r
  | 3 => fmul (fmul v f32Half) (fadd f32One (zrErf (fmul v constInvSqrt2)))
  | 4 =>
    let q := ffma constGtB (fmul v v) f32One
    let t := zrTanh (fmul constGtA (fmul v q))
    fmul (fmul v f32Half) (fadd f32One t)
  | 5 => fmul v (zrSigmoid v)
  | 6 => zrSigmoid v
  | 7 => zrTanh v
  | _ => v

end Sys2Proof.Machine
end

