-- ==== Sys2Proof/Machine/Matrix.lean ====
section
/-!
DEFINITION. Matrix commands MM.F and MM.B (03 Forward and Backward Matrix Engines): fields, checks,
division among engines, the tile's arithmetic (02 R60-R66), epilogue, checksum exemption and time bound.
-/
namespace Sys2Proof.Machine

def mmAT (d : Desc) : Bool := fld d 4 13 13 = 1
def mmBT (d : Desc) : Bool := fld d 4 29 29 = 1
def mmA (d : Desc) : Nat := fld d 4 12 0
def mmB (d : Desc) : Nat := fld d 4 28 16
def mmC (d : Desc) : Nat := fld d 5 12 0
def mmCEn (d : Desc) : Bool := fld d 5 13 13 = 1
def mmD (d : Desc) : Nat := fld d 5 28 16
def mmDMxax (d : Desc) : Nat := fld d 5 29 29
def mmZ (d : Desc) : Nat := fld d 6 12 0
def mmZEn (d : Desc) : Bool := fld d 6 13 13 = 1
def mmBias (d : Desc) : Nat := fld d 6 28 16
def mmBiasEn (d : Desc) : Bool := fld d 6 29 29 = 1
def mmM (d : Desc) : Nat := fld d 7 19 0
def mmN (d : Desc) : Nat := fld d 8 19 0
def mmK (d : Desc) : Nat := fld d 9 23 0
def mmMask (d : Desc) : Nat := fld d 10 15 0
def mmAct (d : Desc) : Nat := fld d 10 23 16
def mmAlphaEn (d : Desc) : Bool := fld d 10 25 25 = 1
def mmRnd (d : Desc) : Nat := fld d 10 27 26
def mmAlpha (d : Desc) : F32 := BitVec.ofNat 32 (fld d 11 31 0)
def mmSeed (d : Desc) : Nat := fld d 12 31 0 + fld d 13 31 0 * 2 ^ 32
def isMmF (d : Desc) : Bool := dOpcode d = 0x10

/-- Legal operand format pairs (R59). -/
def mmPairOk (a b : Fmt) : Bool :=
  let base (e : Elem) : Bool := !e.isInt && e != .fp32
  match a, b with
  | .plain x, .plain y => base x && (x = y || ((x = .e4m3 || x = .e5m2) && (y = .e4m3 || y = .e5m2)))
  | .mx x, .mx y => x = y || ((x = .e4m3 || x = .e5m2) && (y = .e4m3 || y = .e5m2))
  | _, _ => false

/-- Output formats of R104. -/
def mmOutOk (f : Fmt) : Bool :=
  match f with
  | .plain e => !e.isInt
  | .mx _ => true

/-- Logical engines the command names: 0-7 for F, 8-23 for B (the index j of CMD_ENG_MAP). -/
def mmLogical (d : Desc) : List Nat :=
  if isMmF d then setBits (mmMask d) 8 else (setBits (mmMask d) 16).map (8 + ·)

/-- Checks of R96-R98 on the stored descriptor, for C-die n with tensor table `tt` and logical map `emap`. -/
def mmChecks (n : Nat) (tt : Nat → TDesc) (emap : Nat → Option Nat) (d : Desc) : List Viol :=
  let f := isMmF d
  let ta := tt (mmA d); let tb := tt (mmB d); let tc := tt (mmC d)
  let td := tt (mmD d); let tz := tt (mmZ d); let tbias := tt (mmBias d)
  let m := mmM d; let nn := mmN d; let k := mmK d
  let srcs : List TDesc := [ta, tb] ++ (if mmBiasEn d then [tbias] else [])
  let hitsSrc (o : TDesc) (sameAsC : Bool) : Bool :=
    srcs.any (fun x => o.overlaps x) || (mmCEn d && !sameAsC && o.overlaps tc)
  -- reserved
  resv d 4 31 30 ++ resv d 4 15 14 ++ resv d 5 31 30 ++ resv d 5 15 14 ++ resv d 6 31 30 ++ resv d 6 15 14 ++
  resv d 7 31 20 ++ resv d 8 31 20 ++ resv d 9 31 24 ++ resv d 10 31 28 ++ resv d 10 24 24 ++
  resvWords d 14 15 ++
  bodyV (m = 0) skReserved 7 0 ++ bodyV (nn = 0) skReserved 8 0 ++ bodyV (k = 0) skReserved 9 0 ++
  bodyV (mmRnd d ≥ 2) skReserved 10 26 ++ bodyV (f && mmAct d > 7) skReserved 10 16 ++
  -- must be 0, ranges
  (if f then mustZero d 4 29 29 ++ mustZero d 4 13 13 ++ mustZero d 10 15 8
   else mustZero d 6 29 29 ++ mustZero d 6 13 13 ++ mustZero d 10 23 16) ++
  bodyV (mmDMxax d != 0 && !td.isMx) skField 5 29 ++
  bodyV (mmMask d = 0) skField 10 0 ++
  -- null tensors
  notNull d 4 12 0 ++ notNull d 4 28 16 ++ notNull d 5 28 16 ++
  (if mmCEn d then notNull d 5 12 0 else []) ++ (if mmBiasEn d then notNull d 6 28 16 else []) ++
  (if mmZEn d then notNull d 6 12 0 else []) ++
  bodyV ((mmLogical d).any fun j => (emap j).isNone) skAbsent 10 0 ++
  -- formats
  bodyV (!mmPairOk ta.fmt tb.fmt) skFormat 4 0 ++
  bodyV (ta.isMx && ta.mxax != b2n (mmAT d)) skFormat 4 0 ++
  bodyV (tb.isMx && tb.mxax != 1 - b2n (mmBT d)) skFormat 4 16 ++
  bodyV (mmCEn d && tc.fmt != .plain .fp32) skFormat 5 0 ++
  bodyV (!mmOutOk td.fmt) skFormat 5 16 ++ bodyV (td.isMx && td.mxax != mmDMxax d) skFormat 5 16 ++
  bodyV (mmZEn d && tz.fmt != .plain .fp32 && tz.fmt != .plain .bf16 && tz.fmt != .plain .fp16) skFormat 6 0 ++
  bodyV (mmBiasEn d && tbias.fmt != .plain .fp32 && tbias.fmt != .plain .bf16) skFormat 6 16 ++
  -- shapes
  (if mmAT d then shapeIs ta k m 4 0 else shapeIs ta m k 4 0) ++
  (if mmBT d then shapeIs tb nn k 4 16 else shapeIs tb k nn 4 16) ++
  (if mmCEn d then shapeIs tc m nn 5 0 else []) ++ shapeIs td m nn 5 16 ++
  (if mmZEn d then shapeIs tz m nn 6 0 else []) ++ (if mmBiasEn d then shapeIs tbias 1 nn 6 16 else []) ++
  -- placement
  tileOk n ta 4 0 ++ tileOk n tb 4 16 ++ (if mmCEn d then tileOk n tc 5 0 else []) ++ tileOk n td 5 16 ++
  (if mmZEn d then tileOk n tz 6 0 else []) ++ (if mmBiasEn d then tileOk n tbias 6 16 else []) ++
  -- overlap (R98)
  bodyV (hitsSrc td (mmC d = mmD d)) skOverlap 5 16 ++
  bodyV (mmZEn d && (hitsSrc tz false || tz.overlaps td)) skOverlap 6 0

/-- Tensors written, and tensors read in the order of the field table (R203). -/
def mmOutputs (d : Desc) : List Nat := mmD d :: (if mmZEn d then [mmZ d] else [])
def mmInputs (d : Desc) : List Nat :=
  [mmB d, mmA d] ++ (if mmCEn d then [mmC d] else []) ++ (if mmBiasEn d then [mmBias d] else [])

def mmTilesM (d : Desc) : Nat := ceilDiv (mmM d) 128
def mmTilesN (d : Desc) : Nat := ceilDiv (mmN d) 256
def mmTiles (d : Desc) : Nat := mmTilesM d * mmTilesN d

/-- Tiles of the engine at position `p` of the mask among `e` (R106), and its n-th tile. -/
def mmShare (d : Desc) (e p : Nat) : Nat := (mmTiles d + e - 1 - p) / e
def mmTileNo (e p n : Nat) : Nat := p + e * n

/-- The exact value of one group, rounded to FP32 once (R61, R62). -/
def groupValue (a b : Nat → Fv) (lo hi : Nat) : F32 :=
  f32r ((rangeFrom lo hi).foldl (fun s k => s.add ((a k).mul (b k))) (.fin true 0 0))

/-- The canonical summation rule (R60). -/
def canonDot (c : F32) (k : Nat) (a b : Nat → Fv) : F32 :=
  (List.range (ceilDiv k 32)).foldl (fun acc g => fadd acc (groupValue a b (32 * g) (min k (32 * g + 32)))) c

/-- Operand elements a[m][k] and b[k][n] (R95). -/
def mmElA (mem : Mem) (tt : Nat → TDesc) (d : Desc) (m k : Nat) : Fv :=
  if mmAT d then rdVal mem (tt (mmA d)) k m else rdVal mem (tt (mmA d)) m k
def mmElB (mem : Mem) (tt : Nat → TDesc) (d : Desc) (k n : Nat) : Fv :=
  if mmBT d then rdVal mem (tt (mmB d)) n k else rdVal mem (tt (mmB d)) k n
def mmElC (mem : Mem) (tt : Nat → TDesc) (d : Desc) (m n : Nat) : F32 :=
  if mmCEn d then rdF32 mem (tt (mmC d)) m n else f32Zero

/-- The value v of R100 of an accumulator, before Z and the activation. -/
def mmPre (mem : Mem) (tt : Nat → TDesc) (d : Desc) (n : Nat) (acc : F32) : F32 :=
  let v := if mmAlphaEn d then fmul acc (mmAlpha d) else acc
  if isMmF d && mmBiasEn d then fadd v (rdF32 mem (tt (mmBias d)) 0 n) else v

/-- Tile i's rectangle: rows, then columns. -/
def mmRect (d : Desc) (i : Nat) : Nat × Nat × Nat × Nat :=
  let r := 128 * (i / mmTilesN d)
  let c := 256 * (i % mmTilesN d)
  (r, min (mmM d) (r + 128), c, min (mmN d) (c + 256))

/-- Everything tile i writes from its accumulators, by row of its rectangle, and whether it raises OVERFLOW (R100,
R104, R105). `step` is the step number of the stochastic draw (R77). -/
def mmTile (mem : Mem) (tt : Nat → TDesc) (d : Desc) (step i : Nat) (acc : List F32) : List Wr × Bool :=
  let (r0, r1, c0, c1) := mmRect d i
  let td := tt (mmD d)
  let stoch := mmRnd d = 1 && td.elem != .fp32
  let v (m n : Nat) : F32 := mmPre mem tt d n (acc.getD ((m - r0) * (c1 - c0) + (n - c0)) f32Zero)
  let (wd, od) := convRect td (rndOf stoch (mmSeed d) step td.logical) r0 r1 c0 c1 fun m n =>
    if isMmF d then activate (mmAct d) (v m n) else v m n
  if isMmF d && mmZEn d then
    let (wz, oz) := convRect (tt (mmZ d)) (fun _ => .near) r0 r1 c0 c1 v
    (wz ++ wd, od || oz)
  else (wd, od)

/-- cc one tile occupies the output port for, by output format (table under R107). -/
def mmOutCc (f : Fmt) : Nat :=
  match f with
  | .plain e => 128 * e.width / 8
  | .mx .e4m3 => 132 | .mx .e5m2 => 132 | .mx .e3m2 => 100 | .mx .e2m3 => 100 | .mx _ => 68

/-- Bank factor of one operand (R108). -/
def mmPhi (t : TDesc) : Nat := if t.outer ≤ 1 then 1 else max 1 (ceilDiv (Nat.gcd (t.stride / 128) 96) 8)

/-- Time bound of R107, from the stored descriptor. -/
def mmBound (tt : Nat → TDesc) (d : Desc) : Nat :=
  let ta := tt (mmA d)
  let kcc := match ta.elem with
    | .e2m1 => ceilDiv (mmK d) 2
    | .bf16 => 2 * mmK d
    | .fp16 => 2 * mmK d
    | _ => mmK d
  let cIo := if mmCEn d then 512 else 0
  let tIo := max 128 (mmOutCc (tt (mmD d)).fmt + (if mmZEn d then mmOutCc (tt (mmZ d)).fmt else 0) + cIo)
  let tPort := tIo + (if ta.isMx then ceilDiv (384 * ceilDiv (mmK d) 32) 256 else 0)
  let tTile := max kcc tPort * max (mmPhi ta) (mmPhi (tt (mmB d)))
  32 + 64 + cIo + ceilDiv (mmTiles d) (mmLogical d).length * tTile + 128 + tIo + 32

end Sys2Proof.Machine
end

