-- ==== Sys2Proof/Machine/Vector.lean ====
section
/-!
DEFINITION. Vector and reduction commands VEC.EW, RED.ROW, RED.COL (04 Vector Units and Reduction Units):
fields, checks, functions, division among units, reductions in their fixed order, and time bound.
-/
namespace Sys2Proof.Machine

def vS0 (d : Desc) : Nat := fld d 4 12 0
def vM0 (d : Desc) : Nat := fld d 4 15 14
def vS1 (d : Desc) : Nat := fld d 4 28 16
def vM1 (d : Desc) : Nat := fld d 4 31 30
def vD (d : Desc) : Nat := fld d 5 12 0
def vS2 (d : Desc) : Nat := fld d 5 28 16
def vM2 (d : Desc) : Nat := fld d 5 31 30
def vRows (d : Desc) : Nat := fld d 6 15 0
def vCount (d : Desc) : Nat := fld d 6 29 16
def vMask (d : Desc) : Nat := fld d 7 3 0
def vAcc (d : Desc) : Bool := fld d 7 20 20 = 1
def vDMxax (d : Desc) : Nat := fld d 7 21 21
def vRnd (d : Desc) : Nat := fld d 7 23 22
def vFn (d : Desc) : Nat := fld d 7 31 24
def vImm (d : Desc) (i : Nat) : F32 := BitVec.ofNat 32 (fld d (8 + i) 31 0)
def vMaskId (d : Desc) : Nat := fld d 11 12 0
def vSeed (d : Desc) : Nat := fld d 12 31 0 + fld d 13 31 0 * 2 ^ 32
def vIsEw (d : Desc) : Bool := dOpcode d = 0x20
def vIsRow (d : Desc) : Bool := dOpcode d = 0x40
def vIsCol (d : Desc) : Bool := dOpcode d = 0x41

/-- Sources used by a VEC.EW function; none for a reserved code (R132). -/
def ewArity (fn : Nat) : Option Nat :=
  if fn = 0x05 || fn = 0x06 || fn = 0x09 || fn = 0x23 || fn = 0x30 then some 3
  else if (0x01 ≤ fn && fn ≤ 0x04) || fn = 0x07 || fn = 0x08 || fn = 0x1D || fn = 0x1E ||
    (0x20 ≤ fn && fn ≤ 0x22) then some 2
  else if fn = 0x00 || (0x0A ≤ fn && fn ≤ 0x16) || (0x18 ≤ fn && fn ≤ 0x1C) || fn = 0x24 ||
    (0x28 ≤ fn && fn ≤ 0x2B) then some 1
  else none

/-- Lane cycles per element (R132). -/
def ewCycles (fn : Nat) : Nat :=
  if fn = 0x09 || fn = 0x19 then 2
  else if fn = 0x04 || (0x0D ≤ fn && fn ≤ 0x0F) then 4
  else if fn = 0x10 then 12 else if fn = 0x11 then 10 else if fn = 0x12 || fn = 0x13 then 14
  else if fn = 0x14 || fn = 0x1C then 18 else if fn = 0x15 then 17 else if fn = 0x16 then 26
  else if fn = 0x1A then 30 else if fn = 0x1B then 25 else if fn = 0x1D then 19 else if fn = 0x1E then 31
  else 1

/-- Sources used by a reduction; none for a reserved code (R140). -/
def redArity (fn : Nat) : Option Nat := if fn = 3 then some 2 else if fn ≤ 9 then some 1 else none

def vArity (d : Desc) : Option Nat := if vIsEw d then ewArity (vFn d) else redArity (vFn d)

/-- Mode, identifier, word and bit of source s. -/
def vSrc (d : Desc) (s : Nat) : Nat × Nat × Nat × Nat :=
  if s = 0 then (vM0 d, vS0 d, 4, 0) else if s = 1 then (vM1 d, vS1 d, 4, 16) else (vM2 d, vS2 d, 5, 16)

/-- Shape a source must have (R126). -/
def vSrcShape (d : Desc) (mode : Nat) : Nat × Nat :=
  if mode = 0 then (vRows d, vCount d) else if mode = 1 then (1, vCount d) else (vRows d, 1)

def vDShape (d : Desc) : Nat × Nat :=
  if vIsEw d then (vRows d, vCount d) else if vIsRow d then (vRows d, 1) else (1, vCount d)

/-- Checks of R124-R130 and R137. -/
def vecChecks (n : Nat) (tt : Nat → TDesc) (d : Desc) : List Viol :=
  let ar := (vArity d).getD 0
  let td := tt (vD d)
  let used := List.range ar
  let unused := rangeFrom ar 3
  let ew := vIsEw d
  let modeBit (s : Nat) : Nat × Nat := if s = 0 then (4, 14) else if s = 1 then (4, 30) else (5, 30)
  resv d 4 29 29 ++ resv d 4 13 13 ++ resv d 5 29 29 ++ resv d 5 15 13 ++ resv d 6 31 30 ++ resv d 7 19 4 ++
  resv d 11 31 13 ++ resvWords d 14 15 ++
  bodyV (vCount d = 0) skReserved 6 16 ++ bodyV (vRows d = 0) skReserved 6 0 ++
  bodyV (vArity d).isNone skReserved 7 24 ++ bodyV (vRnd d ≥ 2) skReserved 7 22 ++
  (if ew then mustZero d 7 20 20 else mustZero d 7 23 22 ++ mustZero d 5 31 30 ++ mustZero d 5 28 16) ++
  bodyV (vDMxax d != 0 && !td.isMx) skField 7 21 ++ bodyV (vMask d = 0) skField 7 0 ++
  bodyV (!(ew && vFn d = 0x30) && vMaskId d != 0) skField 11 0 ++
  bodyV (ew && vFn d = 0x30 && vRnd d = 1) skField 7 22 ++
  bodyV (!ew && (vFn d = 7 || vFn d = 8) && vAcc d) skField 7 20 ++
  (unused.flatMap fun s =>
    let (m, i, w, b) := vSrc d s
    bodyV ((vArity d).isSome && m != 0) skField (modeBit s).1 (modeBit s).2 ++
      bodyV ((vArity d).isSome && i != 0) skField w b) ++
  (used.flatMap fun s =>
    let (m, i, w, b) := vSrc d s
    if m = 3 then bodyV (i != 0) skField w b
    else
      let t := tt i
      let (o, inn) := vSrcShape d m
      bodyV (i = 0) skNull w b ++
      bodyV (t.elem.isInt || (m != 0 && t.isMx)) skFormat w b ++
      shapeIs t o inn w b ++ tileOk n t w b ++
      bodyV (!(m = 0 && i = vD d) && td.overlaps t) skOverlap 5 0) ++
  notNull d 5 12 0 ++
  bodyV (if ew then !mmOutOk td.fmt else td.fmt != .plain .fp32) skFormat 5 0 ++
  bodyV (ew && td.isMx && td.mxax != vDMxax d) skFormat 5 0 ++
  shapeIs td (vDShape d).1 (vDShape d).2 5 0 ++ tileOk n td 5 0

def vecOutputs (d : Desc) : List Nat := [vD d]
/-- Tensors read, in the order of the field table (S1, S0, S2); D's prior value when it accumulates (R203). -/
def vecInputs (d : Desc) : List Nat :=
  ([1, 0, 2].filterMap fun s =>
    let (m, i, _, _) := vSrc d s
    if m = 3 || (vArity d).getD 0 ≤ s then none else some i) ++ (if vAcc d then [vD d] else [])

/-- Value of source s at (r, e) (R126, R131). -/
def vVal (mem : Mem) (tt : Nat → TDesc) (d : Desc) (s r e : Nat) : F32 :=
  let (m, i, _, _) := vSrc d s
  match m with
  | 0 => rdF32 mem (tt i) r e
  | 1 => rdF32 mem (tt i) 0 e
  | 2 => rdF32 mem (tt i) r 0
  | _ => vImm d s

/-- floor, ceil, nearest-even and truncation to an integer, keeping the sign of a zero result. -/
def fround (mode : Nat) (a : F32) : F32 :=
  match f32v a with
  | .fin n m e =>
    if 0 ≤ e then a
    else
      let sh := (-e).toNat
      let q := m >>> sh
      let more := m % 2 ^ sh != 0
      let k :=
        if mode = 0 then (if n && more then q + 1 else q)
        else if mode = 1 then (if !n && more then q + 1 else q)
        else if mode = 2 then roundShift .near m sh
        else q
      f32r (.fin n k 0)
  | .nan => fnan
  | _ => a

/-- floor(p * 2^32) of a value clamped to [0, 1] (R133). -/
def dropThresh (b : F32) : Nat :=
  match f32v (fmin (fmax b f32Zero) f32One) with
  | .fin _ m e => if 0 ≤ e + 32 then m <<< (e + 32).toNat else m >>> (-(e + 32)).toNat
  | _ => 0

/-- VEC.EW functions (R132); DROPOUT takes its draw (R133). -/
def ewFn (fn : Nat) (a b c : F32) (draw : Nat) : F32 :=
  let flag (x : Bool) : F32 := if x then f32One else f32Zero
  match fn with
  | 0x00 => if fisNan a then fnan else a
  | 0x01 => fadd a b
  | 0x02 => fsub a b
  | 0x03 => fmul a b
  | 0x04 => fdiv a b
  | 0x05 => ffma a b c
  | 0x06 => ffma (fneg a) b c
  | 0x07 => fmax a b
  | 0x08 => fmin a b
  | 0x09 => fmin (fmax a b) c
  | 0x0A => fabs a
  | 0x0B => fneg a
  | 0x0C => fmul a a
  | 0x0D => fdiv f32One a
  | 0x0E => fsqrt a
  | 0x0F => frsqrt a
  | 0x10 => zrExp a
  | 0x11 => zrExp2 a
  | 0x12 => zrLog a
  | 0x13 => zrLog2 a
  | 0x14 => zrTanh a
  | 0x15 => zrSigmoid a
  | 0x16 => zrErf a
  | 0x18 => activate 1 a
  | 0x19 => activate 2 a
  | 0x1A => activate 3 a
  | 0x1B => activate 4 a
  | 0x1C => activate 5 a
  | 0x1D => fmul (activate 5 a) b
  | 0x1E => fmul (activate 3 a) b
  | 0x20 => flag (flt b a)
  | 0x21 => flag (fle b a)
  | 0x22 => flag (feq a b)
  | 0x23 => if fisNan a || (f32v a).isZero then (if fisNan c then fnan else c) else (if fisNan b then fnan else b)
  | 0x24 => flag (fisFin a)
  | 0x28 => fround 0 a
  | 0x29 => fround 1 a
  | 0x2A => fround 2 a
  | 0x2B => fround 3 a
  | 0x30 => if fisNan b then fnan else if draw < dropThresh b then fmul a c else f32Zero
  | _ => f32Zero

/-- The result of VEC.EW at (r, e), before conversion. -/
def ewVal (mem : Mem) (tt : Nat → TDesc) (d : Desc) (step r e : Nat) : F32 :=
  let ar := (vArity d).getD 0
  let v (s : Nat) : F32 := if s < ar then vVal mem tt d s r e else f32Zero
  ewFn (vFn d) (v 0) (v 1) (v 2) (srDraw (vSeed d) step (vMaskId d) (r * (tt (vD d)).inner + e))

/-- Everything a rectangle of VEC.EW writes, and whether it raises OVERFLOW (R134). -/
def ewRect (mem : Mem) (tt : Nat → TDesc) (d : Desc) (step r0 r1 c0 c1 : Nat) : List Wr × Bool :=
  let td := tt (vD d)
  convRect td (rndOf (vRnd d = 1 && td.elem != .fp32) (vSeed d) step td.logical) r0 r1 c0 c1 (ewVal mem tt d step)

def vChunks (d : Desc) : Nat := ceilDiv (vCount d) 1024

/-- Lane items (one chunk of one row each) of the unit at position `p` of `nu` (R135). -/
def vShare (d : Desc) (nu p : Nat) : Nat :=
  if vIsCol d then (vChunks d + nu - 1 - p) / nu * vRows d
  else if vIsEw d && vDMxax d = 1 then
    (((List.range (ceilDiv (vRows d) 32)).filter fun b => b % nu = p).map fun b =>
      min 32 (vRows d - 32 * b) * vChunks d).foldl (· + ·) 0
  else (vRows d + nu - 1 - p) / nu * vChunks d

/-- Row and chunk of lane item `k` of the unit at position `p`: ascending in the order of R135. -/
def vItem (d : Desc) (nu p k : Nat) : Nat × Nat :=
  if vIsCol d then (k % vRows d, p + nu * (k / vRows d))
  else if vIsEw d && vDMxax d = 1 then
    let per := 32 * vChunks d
    let b := p + nu * (k / per)
    let rin := max 1 (min 32 (vRows d - 32 * b))
    let m := k % per
    (32 * b + m % rin, m / rin)
  else (p + nu * (k / vChunks d), k % vChunks d)

/-- Whether lane item `k` is the last of its unit of work (R147), and the first item of that unit of work. -/
def vLastOfWork (d : Desc) (nu p k : Nat) : Bool × Nat :=
  if vIsCol d then (k % vRows d + 1 = vRows d, k / vRows d * vRows d)
  else if vIsRow d then (k % vChunks d + 1 = vChunks d, k / vChunks d * vChunks d)
  else if vDMxax d = 1 then
    let (r, _) := vItem d nu p k
    let rin := max 1 (min 32 (vRows d - r / 32 * 32))
    (r % 32 + 1 = rin, k - r % 32)
  else (true, k)

/-! ## Reductions (R138-R142) -/

/-- first, step and combine of the folding functions 0x00-0x06 (R140). -/
def redFirst (fn : Nat) (a b : F32) : F32 :=
  match fn with
  | 1 => fabs a | 2 => fmul a a | 3 => fmul a b | 6 => fabs a | _ => if fisNan a then fnan else a
def redStep (fn : Nat) (acc a b : F32) : F32 :=
  match fn with
  | 0 => fadd acc a | 1 => fadd acc (fabs a) | 2 => ffma a a acc | 3 => ffma a b acc
  | 4 => fmax acc a | 5 => fmin acc a | _ => fmax acc (fabs a)
def redCombine (fn : Nat) (p q : F32) : F32 :=
  if fn ≤ 3 then fadd p q else if fn = 5 then fmin p q else fmax p q

/-- One strand over a list of indices; none when it is empty. -/
def strand (fn : Nat) (a b : Nat → F32) : List Nat → Option F32
  | [] => none
  | i :: t => some (t.foldl (fun acc j => redStep fn acc (a j) (b j)) (redFirst fn (a i) (b i)))

/-- One level of the fixed tree: strand s takes strand s + w (R139). -/
def treeLevel (fn : Nat) (p : List (Option F32)) (w : Nat) : List (Option F32) :=
  (List.range w).map fun s =>
    match p.getD s none, p.getD (s + w) none with
    | none, q => q
    | some x, none => some x
    | some x, some y => some (redCombine fn x y)

/-- RED.ROW's fold: 1,024 strands, then the tree of 10 levels (R139). -/
def foldRow (fn count : Nat) (a b : Nat → F32) : F32 :=
  let p := (List.range 1024).map fun s =>
    strand fn a b ((List.range ((count + 1023 - s) / 1024)).map fun i => s + 1024 * i)
  let q := [512, 256, 128, 64, 32, 16, 8, 4, 2, 1].foldl (treeLevel fn) p
  (q.getD 0 none).getD f32Zero

/-- RED.COL's fold: one strand, ascending. -/
def foldCol (fn count : Nat) (a b : Nat → F32) : F32 := (strand fn a b (List.range count)).getD f32Zero

/-- x strictly above y with -0 below +0; neither NaN. -/
def above (x y : F32) : Bool :=
  flt y x || ((f32v x).isZero && (f32v y).isZero && !x.msb && y.msb)

/-- Lowest index of the extreme value; a NaN wins (R142). -/
def argExt (mx : Bool) (count : Nat) (a : Nat → F32) : Nat :=
  match (List.range count).find? fun i => fisNan (a i) with
  | some i => i
  | none => (List.range count).foldl (fun best i =>
      if (if mx then above (a i) (a best) else above (a best) (a i)) then i else best) 0

/-- The reduction of `count` inputs before ACC. -/
def redVal (row : Bool) (fn count : Nat) (a b : Nat → F32) : F32 :=
  if fn = 7 then f32ofInt (argExt true count a)
  else if fn = 8 then f32ofInt (argExt false count a)
  else if fn = 9 then f32ofInt ((List.range count).filter fun i => !fisFin (a i)).length
  else if row then foldRow fn count a b else foldCol fn count a b

/-- Combining with D's prior value (R141). -/
def redAcc (fn : Nat) (dv x : F32) : F32 :=
  if fn = 4 || fn = 6 then fmax dv x else if fn = 5 then fmin dv x else fadd dv x

/-- What the fold of row r (RED.ROW) or column chunk r (RED.COL) writes, and whether it raises OVERFLOW. -/
def redFold (mem : Mem) (tt : Nat → TDesc) (d : Desc) (r : Nat) : List Wr × Bool :=
  let td := tt (vD d)
  let out (rr cc : Nat) (x : F32) : List Wr × Bool :=
    convPlain td (fun _ => .near) rr cc (if vAcc d then redAcc (vFn d) (rdF32 mem td rr cc) x else x)
  if vIsRow d then
    out r 0 (redVal true (vFn d) (vCount d) (fun e => vVal mem tt d 0 r e) (fun e => vVal mem tt d 1 r e))
  else
    let ps := (rangeFrom (1024 * r) (min (vCount d) (1024 * r + 1024))).map fun e =>
      out 0 e (redVal false (vFn d) (vRows d) (fun i => vVal mem tt d 0 i e) (fun i => vVal mem tt d 1 i e))
    (ps.flatMap (·.1), ps.any (·.2))

/-! ## Time bound (R143) -/

/-- 16 times the 128-byte lines of 1,024 elements (table under R143). -/
def lines16 (f : Fmt) : Nat :=
  match f with
  | .plain e => e.width * 16
  | .mx e => if e.width = 8 then 132 else if e.width = 6 then 99 else 66

def vecBound (tt : Nat → TDesc) (d : Desc) : Nat :=
  let ar := (vArity d).getD 0
  let srcs := (List.range ar).map fun s => vSrc d s
  let l16 := (srcs.map fun (m, i, _, _) => if m = 0 then lines16 (tt i).fmt else if m = 2 then 16 else 0).foldl (· + ·) 0
  let lines := ceilDiv (l16 + (if vIsEw d then lines16 (tt (vD d)).fmt else 0)) 16
  let tChunk := max (if vIsEw d then ewCycles (vFn d) else 1) (ceilDiv lines 8)
  let chunks := vChunks d
  let nu := (setBits (vMask d) 4).length
  let rows := vRows d
  let work := if vIsCol d then ceilDiv chunks nu * rows
    else if vDMxax d = 1 then ceilDiv (ceilDiv rows 32) nu * 32 * chunks
    else ceilDiv rows nu * chunks
  let preload := (srcs.map fun (m, i, _, _) =>
    if m = 1 then ceilDiv (vCount d * ((tt i).elem.width / 8)) 1024 else 0).foldl (· + ·) 0
  32 + preload + work * tChunk + 64 + (if vIsRow d then 40 + ceilDiv (ceilDiv rows nu) 256 else 0) +
    (if vIsCol d then 4 * ceilDiv chunks nu else 0)

end Sys2Proof.Machine
end

