-- ==== Sys2Proof/Machine/Row.lean ====
section
/-!
DEFINITION. Row commands (05 Row Engines, Stat Store and Derivatives): fields, checks, the passes of each
command as row programs (R163-R167, R173-R175), the division among engines (R156), column folds (R162)
and the time bound (R176).
-/
namespace Sys2Proof.Machine

/-- One pass of a row program of the strata image (R174, R175). The operation words are R175's; a fold names
its function and two lane selectors; a row write its output and a lane register; a column fold its output,
function (0 SUM, 3 DOT) and two lane selectors. How the image section spells the rest of a pass is not
stated (assumption 12). -/
structure ProgPass where
  stat : Bool
  statA : Nat
  statB : Nat
  ops : List Nat
  folds : List (Nat × Nat × Nat × Nat)
  writes : List (Nat × Nat)
  cols : List (Nat × Nat × Nat × Nat)
  scal : List Nat
  deriving DecidableEq, Repr

def rS0 (d : Desc) : Nat := fld d 4 12 0
def rS1 (d : Desc) : Nat := fld d 4 28 16
def rS2 (d : Desc) : Nat := fld d 5 12 0
def rS3 (d : Desc) : Nat := fld d 5 28 16
def rD0 (d : Desc) : Nat := fld d 6 12 0
def rD1 (d : Desc) : Nat := fld d 6 28 16
def rD2 (d : Desc) : Nat := fld d 7 12 0
def rStatEn (d : Desc) : Bool := fld d 7 26 26 = 1
def rSlot (d : Desc) : Nat := fld d 7 25 16
def rCount (d : Desc) : Nat := fld d 8 19 0
def rRows (d : Desc) : Nat := fld d 9 19 0
def rFn (d : Desc) : Nat := fld d 10 7 0
def rMask (d : Desc) : Nat := fld d 10 11 8
def rRnd (d : Desc) : Nat := fld d 10 13 12
def rStatFree (d : Desc) : Bool := fld d 10 14 14 = 1
def rAcc (d : Desc) : Bool := fld d 10 15 15 = 1
def rMaskMode (d : Desc) : Nat := fld d 10 17 16
def rScaleSrc (d : Desc) : Bool := fld d 10 18 18 = 1
def rDgEn (d : Desc) : Bool := fld d 10 19 19 = 1
def rDiag (d : Desc) : Int :=
  let v := fld d 11 31 0
  if v < 2 ^ 31 then v else (v : Int) - 2 ^ 32
def rImm0 (d : Desc) : F32 := BitVec.ofNat 32 (fld d 12 31 0)
def rImm1 (d : Desc) : F32 := BitVec.ofNat 32 (fld d 13 31 0)
def rSeed (d : Desc) : Nat := fld d 14 31 0 + fld d 15 31 0 * 2 ^ 32

/-- The row commands by opcode. -/
inductive RowKind where
  | lnF | lnB | rmsF | rmsB | smaxF | smaxB | xentF | xentB | actd | prog
  deriving DecidableEq, Repr

def rKind (d : Desc) : RowKind :=
  match dOpcode d with
  | 0x50 => .lnF | 0x51 => .lnB | 0x52 => .rmsF | 0x53 => .rmsB | 0x54 => .smaxF | 0x55 => .smaxB
  | 0x56 => .xentF | 0x57 => .xentB | 0x58 => .actd | _ => .prog

def RowKind.fwd : RowKind → Bool
  | .lnF => true | .rmsF => true | .smaxF => true | .xentF => true | _ => false
def RowKind.bwd : RowKind → Bool
  | .lnB => true | .rmsB => true | .smaxB => true | .xentB => true | _ => false
def RowKind.norm : RowKind → Bool
  | .lnF => true | .lnB => true | .rmsF => true | .rmsB => true | _ => false
def RowKind.smax : RowKind → Bool
  | .smaxF => true | .smaxB => true | _ => false
def RowKind.xent : RowKind → Bool
  | .xentF => true | .xentB => true | _ => false

/-- Class code of a slot key (ROW_STAT_SLOT.CLASS). -/
def RowKind.cls : RowKind → Nat
  | .lnF => 0 | .lnB => 0 | .rmsF => 1 | .rmsB => 1 | .smaxF => 2 | .smaxB => 2 | .xentF => 3 | .xentB => 3 | _ => 4

/-- Gated derivative codes use B and write dB (R158, R173). -/
def actdGated (fn : Nat) : Bool := fn = 0x11 || fn = 0x12
def actdOk (fn : Nat) : Bool := (1 ≤ fn && fn ≤ 7) || actdGated fn

/-! ## Which tensors a command uses (R158) -/

/-- How an identifier field is used. -/
inductive RowUse where
  | none | mat | vec | col | any
  deriving DecidableEq, Repr

/-- Selectors a word of lane operations reads. -/
def opSrcs (w : Nat) : List Nat :=
  let ar := (ewArity (bits w 31 24)).getD 0
  [bits w 17 12, bits w 11 6, bits w 5 0].take ar

/-- Whether a program reads source s. -/
def progReads (ps : List ProgPass) (s : Nat) : Bool :=
  ps.any fun p => p.ops.any (fun w => (opSrcs w).contains (8 + s)) ||
    p.folds.any (fun (_, _, a, b) => a = 8 + s || b = 8 + s) ||
    p.cols.any (fun (_, _, a, b) => a = 8 + s || b = 8 + s)

def progRowWrites (ps : List ProgPass) (o : Nat) : Bool := ps.any fun p => p.writes.any fun w => w.1 = o
def progColWrites (ps : List ProgPass) (o : Nat) : Bool := ps.any fun p => p.cols.any fun w => w.1 = o
/-- Whether a program uses a selector in an operation, a fold or a column fold. -/
def progUses (ps : List ProgPass) (sel : Nat) : Bool :=
  ps.any fun p => (p.ops ++ p.scal).any (fun w => (opSrcs w).contains sel) ||
    p.folds.any (fun (_, _, a, b) => a = sel || b = sel) || p.cols.any (fun (_, _, a, b) => a = sel || b = sel)

/-- Uses of S0-S3 and D0-D2. -/
def rowUses (d : Desc) (prog : List ProgPass) : List RowUse × List RowUse :=
  let dg : RowUse := if rDgEn d then .vec else .none
  let g := actdGated (rFn d)
  match rKind d with
  | .lnF => ([.mat, .vec, .vec, .none], [.mat, .none, .none])
  | .rmsF => ([.mat, .vec, .none, .none], [.mat, .none, .none])
  | .lnB => ([.mat, .mat, .vec, .none], [.mat, dg, dg])
  | .rmsB => ([.mat, .mat, .vec, .none], [.mat, dg, .none])
  | .smaxF => ([.mat, .none, .none, .none], [.mat, .none, .none])
  | .smaxB => ([.mat, .mat, .none, .none], [.mat, .none, .none])
  | .xentF => ([.mat, .col, .none, .none], [.col, .none, .none])
  | .xentB => ([.mat, .col, .none, .none], [.mat, .none, .none])
  | .actd => ([.mat, .mat, if g then .mat else .none, .none], [.mat, if g then .mat else .none, .none])
  | .prog => ([0, 1, 2, 3].map fun s => if progReads prog s then .any else .none,
      [0, 1, 2].map fun o => if progRowWrites prog o then .mat else if progColWrites prog o then .vec else .none)

/-- (identifier, word, bit) of S0-S3 and D0-D2. -/
def rowSrcFields (d : Desc) : List (Nat × Nat × Nat) := [(rS0 d, 4, 0), (rS1 d, 4, 16), (rS2 d, 5, 0), (rS3 d, 5, 16)]
def rowDstFields (d : Desc) : List (Nat × Nat × Nat) := [(rD0 d, 6, 0), (rD1 d, 6, 16), (rD2 d, 7, 0)]

/-- Whether an FP32 value is an integer from lo to hi. -/
def f32IntIn (v : F32) (lo hi : Int) : Bool :=
  match f32v v with
  | .fin n m e =>
    let x := (Fv.fin n m e).rintInt
    (Fv.ofInt x).cmp (.fin n m e) = 0 && lo ≤ x && x ≤ hi
  | _ => false

/-- Checks of R155, R157-R161. `prog` is the named row program, if the image holds it; of a program that it does not hold
no field but FN is known to be used or not. -/
def rowChecks (n : Nat) (tt : Nat → TDesc) (prog : Option (List ProgPass)) (d : Desc) : List Viol :=
  let k := rKind d
  let ps := prog.getD []
  let (us, ud) := rowUses d ps
  let rows := rRows d; let cnt := rCount d
  let causal := rMaskMode d = 1
  let absent := k = .prog && (decide (64 ≤ rFn d) || prog.isNone)
  let srcs := if absent then [] else (rowSrcFields d).zip us
  let dsts := if absent then [] else (rowDstFields d).zip ud
  let unusedImm (w sel : Nat) : List Viol := bodyV (k = .prog && !absent && !progUses ps sel && fld d w 31 0 != 0) skField w 0
  -- pairs allowed to name one identifier (R161): Y and X, dX and dY, dZ and dY
  let shared (o s : Nat) : Bool :=
    !k.xent && o = 0 && ((k.fwd && s = 0) || ((k.bwd || k = .actd) && s = 1))
  resv d 4 31 29 ++ resv d 4 15 13 ++ resv d 5 31 29 ++ resv d 5 15 13 ++ resv d 6 31 29 ++ resv d 6 15 13 ++
  resv d 7 31 27 ++ resv d 7 15 13 ++ resv d 8 31 20 ++ resv d 9 31 20 ++ resv d 10 31 20 ++
  bodyV (cnt = 0) skReserved 8 0 ++ bodyV (rows = 0) skReserved 9 0 ++
  bodyV (rMaskMode d ≥ 2) skReserved 10 16 ++ bodyV (rRnd d ≥ 2) skReserved 10 12 ++
  bodyV (k = .actd && !actdOk (rFn d)) skReserved 10 0 ++
  bodyV absent skField 10 0 ++
  bodyV (k != .actd && k != .prog && rFn d != 0) skField 10 0 ++
  bodyV (rDgEn d && k != .lnB && k != .rmsB) skField 10 19 ++
  bodyV (rScaleSrc d && k != .xentB) skField 10 18 ++
  bodyV (rMaskMode d != 0 && !k.smax) skField 10 16 ++
  bodyV (!causal && fld d 11 31 0 != 0) skField 11 0 ++
  bodyV (rMask d = 0) skField 10 8 ++
  bodyV ((k = .actd || (k = .prog && !absent && !ps.any (·.stat))) && rStatEn d) skField 7 26 ++
  bodyV (rStatFree d && !k.bwd && !(k = .prog && (absent || ps.any (·.stat)))) skField 10 14 ++
  bodyV (rAcc d && !((k = .prog && (absent || ps.any fun p => !p.cols.isEmpty)) || rDgEn d)) skField 10 15 ++
  unusedImm 12 33 ++ unusedImm 13 34 ++
  bodyV (!(k.norm || k.smax || k = .prog) && fld d 12 31 0 != 0) skField 12 0 ++
  bodyV (!(k.smax || k = .xentB || k = .prog) && fld d 13 31 0 != 0) skField 13 0 ++
  bodyV (k.smax && !causal && fld d 13 31 0 != 0) skField 13 0 ++
  bodyV (causal && k.smax && !f32IntIn (rImm1 d) 1 16777216) skField 13 0 ++
  bodyV (k.norm && cnt > 16384) skField 8 0 ++
  (srcs.flatMap fun ((i, w, b), u) =>
    let t := tt i
    match u with
    | .none => bodyV (i != 0) skField w b
    | _ =>
      bodyV (i = 0) skNull w b ++ tileOk n t w b ++
      bodyV (match u with
        | .vec => t.fmt != .plain .fp32 && t.fmt != .plain .bf16
        | .col => t.fmt != .plain .fp32
        | _ => t.elem.isInt) skFormat w b ++
      (match u with
        | .mat => shapeIs t rows cnt w b
        | .vec => shapeIs t 1 cnt w b
        | .col => shapeIs t rows 1 w b
        | _ => bodyV (!((t.outer = rows || t.outer = 1) && (t.inner = cnt || t.inner = 1))) skShape w b)) ++
  (dsts.flatMap fun ((i, w, b), u) =>
    let t := tt i
    match u with
    | .none => bodyV (i != 0) skField w b
    | _ =>
      bodyV (i = 0) skNull w b ++ tileOk n t w b ++
      bodyV (match u with
        | .mat => !mmOutOk t.fmt || (t.isMx && t.mxax != 0)
        | _ => t.fmt != .plain .fp32) skFormat w b ++
      (match u with
        | .mat => shapeIs t rows cnt w b
        | .vec => shapeIs t 1 cnt w b
        | _ => shapeIs t rows 1 w b)) ++
  (dsts.zipIdx.flatMap fun (((i, w, b), u), o) =>
    if u = .none then [] else
    bodyV (srcs.zipIdx.any fun (((j, _, _), v), s) =>
      v != .none && !(shared o s && i = j) && (tt i).overlaps (tt j)) skOverlap w b ++
    bodyV (dsts.zipIdx.any fun (((j, _, _), v), o2) =>
      v != .none && o2 < o && (tt i).overlaps (tt j)) skOverlap w b)

/-- Tensors a row command writes; of an absent row program every one it names (R160). -/
def rowOutputs (d : Desc) (ps : List ProgPass) : List Nat :=
  if rKind d = .prog && ps.isEmpty then [rD0 d, rD1 d, rD2 d] else
  ((rowDstFields d).zip (rowUses d ps).2).filterMap fun ((i, _, _), u) => if u = .none then none else some i
/-- Sources in the order of the field table (S1, S0, S3, S2); the column outputs (D1, D0, D2) too when they combine
with their prior value. -/
def rowInputs (d : Desc) (ps : List ProgPass) : List Nat :=
  let src := (rowSrcFields d).zip (rowUses d ps).1
  let dst := (rowDstFields d).zip (rowUses d ps).2
  ([1, 0, 3, 2].filterMap fun k => (src[k]?).bind fun ((i, _, _), u) => if u = .none then none else some i) ++
  (if rAcc d then [1, 0, 2].filterMap fun k => (dst[k]?).bind fun ((i, _, _), u) => if u = .vec then some i else none
   else [])

/-! ## Passes -/

/-- One pass of a row: folds over the unmasked elements, the scalar registers after it, row writes
(output, value) and column folds (output, function, a, b). `sc` are the scalar registers. -/
structure RowPass where
  stat : Bool
  folds : List (Nat × (List F32 → Nat → F32) × (List F32 → Nat → F32))
  post : List F32 → List F32 → List F32
  writes : List (Nat × (List F32 → Nat → F32))
  cols : List (Nat × Nat × (List F32 → Nat → F32) × (List F32 → Nat → F32))

/-- A lane or scalar register; one that nothing has written in this row reads +0 (DESIGN CHOICE, assumption 41). -/
def scGet (sc : List F32) (i : Nat) : F32 := sc.getD i f32Zero
def scPut (sc : List F32) (i : Nat) (v : F32) : List F32 := (sc ++ List.replicate (i + 1 - sc.length) f32Zero).set i v

/-- Constants of R173. -/
def constInvSqrt2Pi : F32 := 0x3ECC422A#32
def constGtB3 : F32 := 0x3E095D4F#32

/-- ROW.ACTD (R173): dz, and db for the gated codes. -/
def actdFn (fn : Nat) (z dy b : F32) : F32 × F32 :=
  let geluH : F32 :=
    let t := fmul z constInvSqrt2
    let c := fmul (fadd f32One (zrErf t)) f32Half
    let w := fmul (fmul z z) 0xBF000000#32
    let g := fmul (zrExp w) constInvSqrt2Pi
    ffma z g c
  match fn with
  | 0x01 => (if fisNan z then fnan else if flt f32Zero z then (if fisNan dy then fnan else dy) else f32Zero, f32Zero)
  | 0x02 => let r := fmax z f32Zero; (fmul dy (fadd r r), f32Zero)
  | 0x03 => (fmul dy geluH, f32Zero)
  | 0x04 =>
    let p := fmul z z
    let q := ffma constGtB p f32One
    let t := zrTanh (fmul constGtA (fmul z q))
    let c := fmul (fadd f32One t) f32Half
    let v := ffma (fneg t) t f32One
    let m := fmul constGtA (ffma constGtB3 p f32One)
    let w := fmul (fmul z f32Half) v
    (fmul dy (ffma w m c), f32Zero)
  | 0x05 =>
    let g := zrSigmoid z
    (fmul dy (fmul g (ffma z (fsub f32One g) f32One)), f32Zero)
  | 0x06 => let g := zrSigmoid z; (fmul dy (fmul g (fsub f32One g)), f32Zero)
  | 0x07 => let t := zrTanh z; (fmul dy (ffma (fneg t) t f32One), f32Zero)
  | 0x11 =>
    let g := zrSigmoid z
    let h := fmul g (ffma z (fsub f32One g) f32One)
    (fmul (fmul dy b) h, fmul dy (fmul z g))
  | 0x12 => (fmul (fmul dy b) geluH, fmul dy (activate 3 z))
  | _ => (f32Zero, f32Zero)

/-- Whether element e of row r is masked (R164). -/
def rowMasked (d : Desc) (r e : Nat) : Bool :=
  rMaskMode d = 1 && (rKind d).smax &&
    decide ((e : Int) > ((r % ((f32v (rImm1 d)).rintInt.toNat) : Nat) : Int) + rDiag d)

/-- A fold over the unmasked elements of a row: the fold of R139 with masked strand positions left empty. -/
def foldRowMasked (fn count : Nat) (masked : Nat → Bool) (a b : Nat → F32) : Option F32 :=
  let p := (List.range 1024).map fun s =>
    strand fn a b (((List.range ((count + 1023 - s) / 1024)).map fun i => s + 1024 * i).filter fun e => !masked e)
  ([512, 256, 128, 64, 32, 16, 8, 4, 2, 1].foldl (treeLevel fn) p).getD 0 none

/-- A cross-entropy target (R167): its index, ignored, or invalid. -/
inductive Target where
  | idx (t : Nat) | ignore | bad
  deriving DecidableEq, Repr

def rowTarget (mem : Mem) (tt : Nat → TDesc) (d : Desc) (r : Nat) : Target :=
  let v := rdF32 mem (tt (rS1 d)) r 0
  if feq v 0xBF800000#32 then .ignore
  else if f32IntIn v 0 ((rCount d : Int) - 1) then .idx (f32v v).rintInt.toNat
  else .bad

/-- What a normalisation command loads into an engine's broadcast buffer before its rows: γ, and β where it uses it
(R153, R158). -/
def rowBroadcast (mem : Mem) (tt : Nat → TDesc) (d : Desc) : List (List F32) :=
  let ids := match rKind d with
    | .lnF => [rS1 d, rS2 d]
    | .rmsF => [rS1 d]
    | .lnB => [rS2 d]
    | .rmsB => [rS2 d]
    | _ => []
  ids.map fun i => (List.range (rCount d)).map fun e => rdF32 mem (tt i) 0 e

/-- The passes of a built-in command for row r; `ls` is the current loss scale, `bc` the broadcast buffer (R163,
R165-R167, R173). -/
def builtinPasses (mem : Mem) (tt : Nat → TDesc) (d : Desc) (ls : F32) (bc : List (List F32)) (r : Nat) : List RowPass :=
  let n := f32ofInt (rCount d)
  let x (e : Nat) : F32 := rdF32 mem (tt (rS0 d)) r e
  let s1 (e : Nat) : F32 := rdF32 mem (tt (rS1 d)) r e
  let gamma (e : Nat) : F32 := (bc.getD 0 []).getD e f32Zero
  let beta (e : Nat) : F32 := (bc.getD 1 []).getD e f32Zero
  let xh (sc : List F32) (e : Nat) : F32 := fmul (fsub (x e) (scGet sc 0)) (scGet sc 1)
  let xr (sc : List F32) (e : Nat) : F32 := fmul (x e) (scGet sc 0)
  let noB (_ : List F32) (_ : Nat) : F32 := f32Zero
  let keep (sc _ : List F32) : List F32 := sc
  let rstd (f : List F32) : F32 := frsqrt (fadd (fdiv (scGet f 0) n) (rImm0 d))
  let lnStat : List RowPass :=
    [⟨true, [(0, fun _ e => x e, noB)], fun _ f => [fdiv (scGet f 0) n], [], []⟩,
     ⟨true, [(2, fun sc e => fsub (x e) (scGet sc 0), noB)], fun sc f => [scGet sc 0, rstd f], [], []⟩]
  let rmsStat : List RowPass := [⟨true, [(2, fun _ e => x e, noB)], fun _ f => [rstd f, f32Zero], [], []⟩]
  let z (e : Nat) : F32 := if (rKind d).smax then fmul (x e) (rImm0 d) else x e
  let ez (sc : List F32) (e : Nat) : F32 := zrExp (fsub (z e) (scGet sc 0))
  let allMasked := (List.range (rCount d)).all fun e => rowMasked d r e
  let smStat : List RowPass :=
    [⟨true, [(4, fun _ e => z e, noB)], fun _ f => [if allMasked then f32NegInf else scGet f 0], [], []⟩,
     ⟨true, [(0, ez, noB)], fun sc f =>
        [scGet sc 0, if allMasked then f32Zero else fdiv f32One (scGet f 0), scGet f 0], [], []⟩]
  let msk (v : List F32 → Nat → F32) (sc : List F32) (e : Nat) : F32 := if rowMasked d r e then f32Zero else v sc e
  let y (sc : List F32) (e : Nat) : F32 := fmul (ez sc e) (scGet sc 1)
  match rKind d with
  | .lnF => lnStat ++ [⟨false, [], keep, [(0, fun sc e => ffma (xh sc e) (gamma e) (beta e))], []⟩]
  | .rmsF => rmsStat ++ [⟨false, [], keep, [(0, fun sc e => fmul (xr sc e) (gamma e))], []⟩]
  | .lnB =>
    let g (e : Nat) : F32 := fmul (s1 e) (gamma e)
    lnStat ++
    [⟨false, [(0, fun _ e => g e, noB), (3, fun _ e => g e, xh)],
      fun sc f => [scGet sc 0, scGet sc 1, fdiv (scGet f 0) n, fdiv (scGet f 1) n], [], []⟩,
     ⟨false, [], keep,
      [(0, fun sc e => fmul (fsub (g e) (ffma (xh sc e) (scGet sc 3) (scGet sc 2))) (scGet sc 1))],
      if rDgEn d then [(1, 3, fun _ e => s1 e, xh), (2, 0, fun _ e => s1 e, noB)] else []⟩]
  | .rmsB =>
    let g (e : Nat) : F32 := fmul (s1 e) (gamma e)
    rmsStat ++
    [⟨false, [(3, fun _ e => g e, xr)], fun sc f => [scGet sc 0, scGet sc 1, fdiv (scGet f 0) n], [], []⟩,
     ⟨false, [], keep,
      [(0, fun sc e => fmul (fsub (g e) (fmul (xr sc e) (scGet sc 2))) (scGet sc 0))],
      if rDgEn d then [(1, 3, fun _ e => s1 e, xr)] else []⟩]
  | .smaxF => smStat ++ [⟨false, [], keep, [(0, msk y)], []⟩]
  | .smaxB => smStat ++
    [⟨false, [(3, fun _ e => s1 e, y)], fun sc f => [scGet sc 0, scGet sc 1, scGet sc 2, scGet f 0], [], []⟩,
     ⟨false, [], keep, [(0, msk fun sc e => fmul (fmul (y sc e) (fsub (s1 e) (scGet sc 3))) (rImm0 d))], []⟩]
  | .xentF => smStat
  | .xentB =>
    let k := if rScaleSrc d then fmul (rImm1 d) ls else rImm1 d
    smStat ++ [⟨false, [], keep, [(0, fun sc e =>
      match rowTarget mem tt d r with
      | .ignore => f32Zero
      | .bad => fnan
      | .idx t => fmul (if e = t then fsub (y sc e) f32One else y sc e) k)], []⟩]
  | .actd =>
    let b (e : Nat) : F32 := if actdGated (rFn d) then rdF32 mem (tt (rS2 d)) r e else f32Zero
    let dz : Nat × (List F32 → Nat → F32) := (0, fun _ e => (actdFn (rFn d) (x e) (s1 e) (b e)).1)
    let db : Nat × (List F32 → Nat → F32) := (1, fun _ e => (actdFn (rFn d) (x e) (s1 e) (b e)).2)
    [⟨false, [], keep, if actdGated (rFn d) then [dz, db] else [dz], []⟩]
  | .prog => ([] : List RowPass)

/-- ROW.XENT.F's loss of a row (R166, R167). -/
def xentLoss (mem : Mem) (tt : Nat → TDesc) (d : Desc) (r : Nat) (sc : List F32) : F32 :=
  match rowTarget mem tt d r with
  | .ignore => f32Zero
  | .bad => fnan
  | .idx t => fsub (fadd (scGet sc 0) (zrLog (scGet sc 2))) (rdF32 mem (tt (rS0 d)) r t)

/-! ## Row programs of the image (R174, R175) -/

/-- An S tensor of a row program read at (r, e): one of a single row or column is broadcast (DESIGN CHOICE, assumption
41: the spec gives a program's sources no shapes). -/
def progSrc (mem : Mem) (t : TDesc) (r e : Nat) : F32 :=
  rdF32 mem t (if t.outer = 1 then 0 else r) (if t.inner = 1 then 0 else e)

/-- Value of a selector (R175). `v` are the lane registers (none for scalar operations). -/
def selVal (mem : Mem) (tt : Nat → TDesc) (d : Desc) (r e : Nat) (v sc fr : List F32) (sel : Nat) : F32 :=
  if sel ≤ 7 then scGet v sel
  else if sel ≤ 11 then progSrc mem (tt ([rS0 d, rS1 d, rS2 d, rS3 d].getD (sel - 8) 0)) r e
  else if sel ≤ 27 then scGet sc (sel - 12)
  else if sel ≤ 29 then scGet fr (sel - 28)
  else if sel = 30 then f32ofInt e
  else if sel = 31 then f32ofInt r
  else if sel = 32 then f32ofInt (rCount d)
  else if sel = 33 then rImm0 d
  else if sel = 34 then rImm1 d
  else f32Zero

/-- Run operation words on a register list whose register 0 has selector `lo`. -/
def runOps (val : List F32 → Nat → F32) (lo : Nat) (regs : List F32) : List Nat → List F32
  | [] => regs
  | w :: t =>
    let r := ewFn (bits w 31 24) (val regs (bits w 17 12)) (val regs (bits w 11 6)) (val regs (bits w 5 0)) 0
    runOps val lo (scPut regs (bits w 23 18 - lo) r) t

/-- A pass of a row program. In a scalar operation, where there is no element, selector 30 gives e = 0 (DESIGN CHOICE,
assumption 41). -/
def progPass (mem : Mem) (tt : Nat → TDesc) (d : Desc) (r : Nat) (p : ProgPass) : RowPass :=
  let lanes (sc : List F32) (e : Nat) : List F32 :=
    runOps (fun v s => selVal mem tt d r e v sc [] s) 0 [] p.ops
  let sel (s : Nat) (sc : List F32) (e : Nat) : F32 := selVal mem tt d r e (lanes sc e) sc [] s
  ⟨p.stat, p.folds.map (fun (fn, _, a, b) => (fn, sel a, sel b)),
   fun sc f =>
    let sc : List F32 := (p.folds.zip f).foldl (fun (s : List F32) q => scPut s (q.1.2.1 - 12) q.2) sc
    runOps (fun v s => selVal mem tt d r 0 [] v f s) 12 sc p.scal,
   p.writes.map (fun (o, v) => (o, sel v)),
   p.cols.map (fun (o, fn, a, b) => (o, fn, sel a, sel b))⟩

/-- The passes of any row command. -/
def rowPasses (mem : Mem) (tt : Nat → TDesc) (ps : List ProgPass) (d : Desc) (ls : F32) (bc : List (List F32)) (r : Nat) :
    List RowPass :=
  if rKind d = .prog then ps.map (progPass mem tt d r) else builtinPasses mem tt d ls bc r

/-- Number of stat passes, and of all passes. -/
def rowStatPasses (ps : List ProgPass) (d : Desc) : Nat :=
  match rKind d with
  | .lnF => 2 | .lnB => 2 | .rmsF => 1 | .rmsB => 1 | .actd => 0
  | .prog => (ps.filter (·.stat)).length
  | _ => 2
def rowNumPasses (ps : List ProgPass) (d : Desc) : Nat :=
  match rKind d with
  | .lnF => 3 | .lnB => 4 | .rmsF => 2 | .rmsB => 3 | .smaxF => 3 | .smaxB => 4 | .xentF => 2 | .xentB => 3
  | .actd => 1 | .prog => ps.length

/-- Words A and B of a row's statistics from its scalar registers after the stat passes, and back. -/
def rowStatOf (ps : List ProgPass) (d : Desc) (sc : List F32) : F32 × F32 :=
  match rKind d, (ps.filter (·.stat)).getLast? with
  | .prog, some p => (scGet sc (p.statA - 12), scGet sc (p.statB - 12))
  | .prog, none => (f32Zero, f32Zero)
  | _, _ => (scGet sc 0, scGet sc 1)
def rowOfStat (ps : List ProgPass) (d : Desc) (a b : F32) : List F32 :=
  match rKind d, (ps.filter (·.stat)).getLast? with
  | .prog, some p => scPut (scPut [] (p.statA - 12) a) (p.statB - 12) b
  | .prog, none => []
  | _, _ => [a, b]

/-- Division among engines (R156): rows of strand q = r mod 4 run on the engine at position q mod n_w; the rows
of position p in ascending order. -/
def rowShare (rows nw p : Nat) : List Nat := (List.range rows).filter fun r => r % 4 % nw = p

def rowChunks (d : Desc) : Nat := ceilDiv (rCount d) 1024

/-- The column output of one element from its four strands (R162): combined as p0 + p2, p1 + p3, then both. -/
def colTree (p : List (Option F32)) : F32 :=
  let add (x y : Option F32) : Option F32 :=
    match x, y with
    | none, q => q
    | some a, none => some a
    | some a, some b => some (fadd a b)
  (add (add (p.getD 0 none) (p.getD 2 none)) (add (p.getD 1 none) (p.getD 3 none))).getD f32Zero

/-! ## Time bound (R176) -/

def actdCycles (fn : Nat) : Nat :=
  match fn with
  | 1 => 1 | 2 => 3 | 3 => 46 | 4 => 31 | 5 => 21 | 6 => 20 | 7 => 20 | 0x11 => 24 | _ => 49

/-- (tensors streamed, c_p) of each pass. -/
def rowPassCost (ps : List ProgPass) (d : Desc) : List (List Nat × Nat) :=
  let x := rS0 d; let s1 := rS1 d; let o := rD0 d
  let dg := b2n (rDgEn d)
  match rKind d with
  | .lnF => [([x], 1), ([x], 2), ([x, o], 3)]
  | .rmsF => [([x], 1), ([x, o], 2)]
  | .lnB => [([x], 1), ([x], 2), ([x, s1], 5), ([x, s1, o], 6 + 2 * dg)]
  | .rmsB => [([x], 1), ([x, s1], 3), ([x, s1, o], 5 + dg)]
  | .smaxF => [([x], 2), ([x], 15), ([x, o], 15)]
  | .smaxB => [([x], 2), ([x], 15), ([x, s1], 16), ([x, s1, o], 18)]
  | .xentF => [([x], 1), ([x], 14)]
  | .xentB => [([x], 1), ([x], 14), ([x, o], 16)]
  | .actd => [([x, s1, o] ++ (if actdGated (rFn d) then [rS2 d, rD1 d] else []), actdCycles (rFn d))]
  | .prog => ps.map fun p =>
      (([rS0 d, rS1 d, rS2 d, rS3 d].zipIdx.filterMap fun (i, s) => if progReads [p] s then some i else none) ++
        ([rD0 d, rD1 d, rD2 d].zipIdx.filterMap fun (i, o) => if progRowWrites [p] o then some i else none),
        (p.ops.map fun w => ewCycles (bits w 31 24)).foldl (· + ·) 0 + p.folds.length)

def rowBound (tt : Nat → TDesc) (ps : List ProgPass) (d : Desc) : Nat :=
  let chunks := rowChunks d
  let nw := (setBits (rMask d) 4).length
  let perRow := (rowPassCost ps d).foldl (fun acc (ts, c) =>
    let l := ceilDiv ((ts.map fun i => lines16 (tt i).fmt).foldl (· + ·) 0) 16
    acc + chunks * max (4 * c) (ceilDiv l 4) + 40) 32
  let vecs := ((rowSrcFields d).zip (rowUses d ps).1).filterMap fun ((i, _, _), u) => if u = .vec then some i else none
  let preload := (vecs.map fun i => ceilDiv (rCount d * ((tt i).elem.width / 8)) 1024).foldl (· + ·) 0
  32 + preload + ceilDiv 4 nw * ceilDiv (rRows d) 4 * perRow + 64 +
    (if rDgEn d then 8 * ceilDiv (rCount d) 256 else 0)

end Sys2Proof.Machine
end

