-- ==== Sys2Proof/Machine/Update.lean ====
section
/-!
DEFINITION. Update commands UPD.APPLY, UPD.FACTOR, UPD.GATHERADD, UPD.SNAP (07 The Update Engine in the
Memory Dies): regions and blocks, clamps of the step parameter block, the update rules, the factor unit,
checks and time bounds. `homed m a n` says whether [a, a + n) is homed on M-die m.
-/
namespace Sys2Proof.Machine

def uParam (d : Desc) : Nat := fld d 4 28 16
def uGrad (d : Desc) : Nat := fld d 4 12 0
def uMask (d : Desc) : Nat := fld d 5 31 16
def uTbl (d : Desc) : Nat := fld d 5 12 0
def uCount (d : Desc) : Nat := fld d 6 31 16 + 1
def uFirst (d : Desc) : Nat := fld d 6 15 0
def uSeed (d : Desc) : Nat := fld d 12 31 0 + fld d 13 31 0 * 2 ^ 32
def gaDst (d : Desc) : Nat := fld d 4 28 16
def gaSrc (d : Desc) : Nat := fld d 4 12 0
def gaUses (d : Desc) : Nat := fld d 5 3 0
def snMap (d : Desc) : Nat := fld d 4 28 16
def snBounce (d : Desc) : Nat := fld d 4 12 0
def snSession (d : Desc) : Nat := fld d 7 15 0

/-- A region entry (R250): its eight 64-bit words and the address they stand at. -/
structure Region where
  addr : Nat
  q : List Nat
  deriving DecidableEq, Repr

def Region.w (r : Region) (i hi lo : Nat) : Nat := bits (r.q.getD i 0) hi lo
def Region.stateFmt (r : Region) : Nat := r.w 0 61 60
def Region.owner (r : Region) : Nat := r.w 0 59 59
def Region.frozen (r : Region) : Bool := r.w 0 58 58 = 1
def Region.rule (r : Region) : Nat := r.w 0 57 56
def Region.group (r : Region) : Nat := r.w 0 55 48
def Region.param (r : Region) : Nat := r.w 0 47 0
def Region.pb (r : Region) : Nat := 16 * 2 ^ r.w 1 53 52
def Region.blockLog (r : Region) : Nat := r.w 1 51 48
def Region.silt (r : Region) : Nat := r.w 1 47 0
def Region.srId (r : Region) : Nat := r.w 2 63 48
def Region.state0 (r : Region) : Nat := r.w 2 47 0
def Region.state1 (r : Region) : Nat := r.w 3 47 0
def Region.grad (r : Region) : Nat := r.w 4 47 0
def Region.ledger (r : Region) : Nat := r.w 5 47 0
def Region.factor (r : Region) : Nat := r.w 6 47 0
def Region.ctr (r : Region) : Nat := r.w 7 63 32
def Region.count (r : Region) : Nat := r.w 7 31 0

/-- Region i of a region table. -/
def readRegion (mem : Mem) (tbl : TDesc) (i : Nat) : Region :=
  let a := tbl.base + i * tbl.stride
  ⟨a, (List.range 8).map fun k => rdNat mem (a + 8 * k) 8⟩

/-- The regions of a command's range, ascending. -/
def uRegions (mem : Mem) (tt : Nat → TDesc) (d : Desc) : List (Nat × Region) :=
  (List.range (uCount d)).map fun i => (uFirst d + i, readRegion mem (tt (uTbl d)) (uFirst d + i))

def Region.block (r : Region) : Nat := 2 ^ r.blockLog
def Region.blocks (r : Region) : Nat := ceilDiv r.count r.block
def Region.pblocks (r : Region) : Nat := ceilDiv r.count r.pb
/-- Parameters lo .. hi - 1 of block b (R251). -/
def Region.span (r : Region) (b : Nat) : Nat × Nat := (b * r.block, min r.count ((b + 1) * r.block))
/-- Bytes of one packed lower triangle, padded to 128 (R278). -/
def triSize (pb : Nat) : Nat := roundUp (pb * (pb + 1) / 2 * 4) 128
def Region.stateBytes (r : Region) : Nat := if r.stateFmt = 0 then 4 else 2

/-- Byte spans of a region (R249, R250): base and length. -/
def Region.spans (r : Region) : List (Nat × Nat) :=
  [(r.param, 2 * r.count), (r.silt, r.count), (r.state0, r.stateBytes * r.count), (r.grad, 4 * r.count),
   (r.ledger, 8 * r.blocks)] ++
  (if r.rule = 1 then [(r.state1, r.stateBytes * r.count)] else []) ++
  (if r.rule = 2 then [(r.state1, r.pblocks * triSize r.pb), (r.factor, r.pblocks * (triSize r.pb + 4))] else [])

/-- Whether a field other than a base breaks R250. -/
def Region.fieldBad (r : Region) : Bool :=
  r.w 0 63 62 != 0 || r.stateFmt = 3 || r.rule = 3 || r.w 1 63 54 != 0 || r.w 1 53 52 = 3 ||
  (r.rule != 2 && r.w 1 53 52 != 0) || r.blockLog < 6 || r.blockLog > 12 || r.w 3 63 48 != 0 ||
  r.w 4 63 48 != 0 || r.w 5 63 48 != 0 || r.w 6 63 48 != 0 || r.count = 0

/-- Whether a base breaks R249 or R250. -/
def Region.baseBad (homed : Nat → Nat → Nat → Bool) (r : Region) : Bool :=
  [r.param, r.silt, r.state0, r.state1, r.grad, r.ledger, r.factor].any (fun a => a % 128 != 0) ||
  (r.rule = 0 && r.state1 != 0) || (r.rule != 2 && r.factor != 0) ||
  r.spans.any fun (a, n) => !homed r.owner a n

/-- The first entry of a command's range that breaks R249 or R250, or the rule a factor command needs. -/
def badEntry (mem : Mem) (tt : Nat → TDesc) (homed : Nat → Nat → Nat → Bool) (d : Desc) (needPrecond : Bool) :
    Option (Nat × Region) :=
  (uRegions mem tt d).find? fun (_, r) => r.fieldBad || r.baseBad homed || (needPrecond && r.rule != 2)

/-- Checks of the region table and of the entries read at the head (R252, R267, R280); `last` are those that need the entries
to be right. -/
def tableChecks (mem : Mem) (tt : Nat → TDesc) (homed : Nat → Nat → Nat → Bool) (inMem : Nat → Nat → Bool)
    (d : Desc) (needPrecond : Bool) (last : List Viol) : List Viol :=
  let t := tt (uTbl d)
  let ok := t.fmt = .plain .int32 && t.inner = 16 && 1 ≤ t.outer && t.outer ≤ 65536 && t.within inMem &&
    uFirst d + uCount d ≤ t.outer
  notNull d 5 12 0 ++
  bodyV (t.fmt != .plain .int32) skFormat 5 0 ++
  bodyV (t.inner != 16 || t.outer < 1 || t.outer > 65536) skShape 5 0 ++
  bodyV (!t.within inMem) skPlacement 5 0 ++
  bodyV (uFirst d + uCount d > t.outer) skField 6 0 ++
  (if ok then
    match badEntry mem tt homed d needPrecond with
    | none => last
    | some (_, r) =>
      [⟨39, if r.fieldBad || (needPrecond && r.rule != 2) then skField else skPlacement, 255, 255⟩]
  else [])

/-- Engines of M-die m a U_MASK names. -/
def uEngines (d : Desc) (m : Nat) : List Nat := setBits (bits (uMask d) (8 * m + 7) (8 * m)) 8

/-- M-dies that own a region of the range. -/
def uOwners (mem : Mem) (tt : Nat → TDesc) (d : Desc) : List Nat :=
  [0, 1].filter fun m => (uRegions mem tt d).any fun (_, r) => r.owner = m

def updChecks (mem : Mem) (tt : Nat → TDesc) (homed : Nat → Nat → Nat → Bool) (inMem : Nat → Nat → Bool)
    (scratch : Nat → Nat → Bool) (d : Desc) : List Viol :=
  let hd := resv d 4 31 29 ++ resv d 4 15 13
  match dOpcode d with
  | 0x80 =>
    hd ++ resv d 5 15 13 ++ resvWords d 7 11 ++ resvWords d 14 15 ++ notNull d 4 12 0 ++ notNull d 4 28 16 ++
    tableChecks mem tt homed inMem d false
      (if (uOwners mem tt d).any fun m => (uEngines d m).isEmpty then [⟨39, skField, 5, 16⟩] else [])
  | 0x82 =>
    hd ++ resv d 5 15 13 ++ resvWords d 7 15 ++ notNull d 4 12 0 ++ notNull d 4 28 16 ++ mustZero d 5 31 16 ++
    tableChecks mem tt homed inMem d true []
  | 0x81 =>
    let td := tt (gaDst d)
    let us := (List.range (gaUses d)).map (gaSrc d + ·)
    let home := [0, 1].find? fun m => td.within fun a b => homed m a (b - a)
    hd ++ resv d 5 15 4 ++ resvWords d 6 15 ++ bodyV (gaUses d < 2 || gaUses d > 8) skField 5 0 ++
    notNull d 4 12 0 ++ notNull d 4 28 16 ++
    bodyV (gaSrc d + gaUses d > 8192) skField 4 0 ++
    bodyV (td.fmt != .plain .fp32) skFormat 4 16 ++ bodyV (us.any fun i => (tt i).fmt != .plain .fp32) skFormat 4 0 ++
    (us.flatMap fun i => shapeIs (tt i) td.outer td.inner 4 0) ++
    (match home with
    | none => bodyV true skPlacement 4 16
    | some m =>
      bodyV (us.any fun i => !(tt i).within fun a b => homed m a (b - a)) skPlacement 4 0 ++
      bodyV (uEngines d m).isEmpty skField 5 16) ++
    bodyV (us.any fun i => i != gaDst d && td.overlaps (tt i)) skOverlap 4 16 ++
    bodyV (us.any fun i => i = gaDst d && i != gaSrc d) skOverlap 4 16
  | _ =>
    let rs := uRegions mem tt d
    let blocks := (rs.map fun (_, r) => r.blocks).foldl (· + ·) 0
    hd ++ resv d 5 31 13 ++ resv d 7 31 16 ++ resvWords d 8 15 ++ notNull d 4 12 0 ++ notNull d 4 28 16 ++
    bodyV (snSession d > 255) skField 7 0 ++
    bodyV (!(tt (snMap d)).within scratch) skPlacement 4 16 ++
    bodyV (!(tt (snBounce d)).within scratch) skPlacement 4 0 ++
    bodyV ((tt (snBounce d)).bytes < 64 * uCount d + 2 ^ 20) skShape 4 0 ++
    bodyV ((tt (snMap d)).bytes * 8 < blocks) skShape 4 16 ++
    tableChecks mem tt homed inMem d false []

def updOutputs (d : Desc) : List Nat := if dOpcode d = 0x83 then [] else [fld d 4 28 16]
/-- Tensors read: the slots of a sum; the gradient slots and the region table of an update. -/
def updInputs (d : Desc) : List Nat :=
  if dOpcode d = 0x83 then [] else if dOpcode d = 0x81 then (List.range (gaUses d)).map (gaSrc d + ·)
  else [uGrad d, uTbl d]

/-! ## The step parameter block (R255, R256, R259, R260) -/

/-- Clamp a sealed FP32 field to [lo, hi]; NaN takes its own value and -0 becomes +0 (R259). -/
def clampF (lo hi nanv v : F32) : F32 :=
  if fisNan v then nanv
  else if flt v lo then lo
  else if flt hi v then hi
  else if feq v f32Zero then f32Zero
  else v

/-- Limits and NaN value of the seven FP32 fields of a group, by index (R259). -/
def groupLimits : List (F32 × F32 × F32) :=
  [(f32Zero, 0x41800000#32, f32Zero), (f32Zero, f32One, f32Zero), (f32Zero, 0x3F7FFFFF#32, f32Zero),
   (f32Zero, 0x3F7FFFFF#32, f32Zero), (0x00800000#32, f32One, 0x00800000#32),
   (0x00800000#32, f32One, 0x00800000#32), (f32Zero, 0x4B800000#32, f32One)]

/-- Field i of group g of a block of bytes. -/
def spbField (spb : List Byte) (g i : Nat) : F32 := BitVec.ofNat 32 (leNat ((spb.drop (0x100 + 32 * g + 4 * i)).take 4))

/-- Whether two field values differ other than in the sign of a zero (R260). -/
def clampedF (w e : F32) : Bool := w != e && !(feq w f32Zero && feq e f32Zero)

/-- A group's effective bytes, and its clamped fields: offset, value written, effective value. For a decay factor that leaves
its range the product LR × WD stands as the value written (R260). -/
def clampGroup (spb : List Byte) (g : Nat) : List Byte × List (Nat × Nat × Nat) :=
  let vs := groupLimits.zipIdx.map fun ((lo, hi, nv), i) =>
    let w := spbField spb g i
    (0x100 + 32 * g + 4 * i, w, clampF lo hi nv w)
  let lr := (vs.getD 0 (0, 0, 0)).2.2
  let wd := (vs.getD 1 (0, 0, 0)).2.2
  let q := fmul lr wd
  let p := fsub f32One q
  let d := clampF f32Zero f32One f32Zero p
  let flags := (spb.drop (0x100 + 32 * g + 28)).take 4
  ((vs.flatMap fun (_, _, e) => leBytes 4 e.toNat) ++ leBytes 4 (leNat flags % 4),
   (vs.filterMap fun (o, w, e) => if clampedF w e then some (o, w.toNat, e.toNat) else none) ++
   (if clampedF p d then [(0x80000000 + g, q.toNat, d.toNat)] else []))

/-- A group's derived decay factor (R259). -/
def decayOf (lr wd : F32) : F32 := clampF f32Zero f32One f32Zero (fsub f32One (fmul lr wd))

/-- A signed byte. -/
def sbyte (v : Nat) : Int := if v < 128 then v else (v : Int) - 256
def ofSbyte (i : Int) : Nat := (i % 256).toNat

/-- The effective block of a sealed block (R259): `prev` is the previous effective STEP, none for the first
block after a load; the LS limits come from UPD_LS_CFG. Also the clamped fields, in offset order. -/
def effectiveSpb (spb : List Byte) (prev : Option Nat) (lsMin lsMax : Int) (lsInterval : Nat) :
    List Byte × List (Nat × Nat × Nat) :=
  let stepW := leNat (spb.take 8)
  let step := match prev with
    | none => stepW
    | some p => (p + 1) % 2 ^ 64
  let control := leNat ((spb.drop 8).take 4)
  let ls := leNat ((spb.drop 12).take 4)
  let set := bit ls 31
  let ex := sbyte (bits ls 7 0)
  let exE := if set then max lsMin (min lsMax ex) else ex
  let cl := bits ls 23 8
  let clE := if set then min cl (lsInterval - 1) else cl
  let lsE := b2n set * 2 ^ 31 + clE * 256 + ofSbyte exE
  let gs := (List.range 256).map fun g => clampGroup spb g
  (leBytes 8 step ++ leBytes 4 (control % 2) ++ leBytes 4 lsE ++ (spb.drop 0x10).take 32 ++ List.replicate 208 0#8 ++
    gs.flatMap (·.1),
   (if step != stepW then [(0, stepW, step)] else []) ++
   (if set && exE != ex then [(0x0C, ofSbyte ex, ofSbyte exE)] else []) ++
   (if set && clE != cl then [(0x0D, cl, clE)] else []) ++ gs.flatMap (·.2))

/-! ## The rules (R269-R279) -/

/-- What an engine holds for a region while it runs it (R269). -/
structure Hyper where
  t : Nat
  e : Int
  lr : F32
  d : F32
  b1 : F32
  b2 : F32
  eps : F32
  damp : F32
  un : F32
  bc1 : F32
  bc2 : F32
  omb1 : F32
  omb2 : F32
  nesterov : Bool
  seed : Nat
  step : Nat
  deriving DecidableEq, Repr

def powKGo : Nat → F32 → F32 → Nat → F32
  | 0, r, _, _ => r
  | f + 1, r, b, k =>
    if k = 0 then r
    else
      let r := if k % 2 = 1 then fmul r b else r
      powKGo f r (if k / 2 = 0 then b else fmul b b) (k / 2)

/-- pow_k of R274. -/
def powK (x : F32) (k : Nat) : F32 := powKGo 33 f32One x k

/-- A region's values from the effective block, its group and the loss-scale exponent of the step. -/
def hyperOf (spb : List Byte) (g ctr : Nat) (e : Int) (seed : Nat) : Hyper :=
  let f (i : Nat) : F32 := spbField spb g i
  let flags := leNat ((spb.drop (0x100 + 32 * g + 28)).take 4)
  let bc (b : F32) : F32 := if bit flags 1 then fsub f32One (powK b ctr) else f32One
  ⟨ctr, e, f 0, decayOf (f 0) (f 1), f 2, f 3, f 4, f 5, ldexpRn (f 6) (-e), bc (f 2), bc (f 3),
   fsub f32One (f 2), fsub f32One (f 3), bit flags 0, seed, leNat (spb.take 8)⟩

/-- ulp_bf16 as an exponent of two (R274). -/
def ulpExp (p : Nat) : Int := let x := bits p 14 7; if x = 0 then -133 else (x : Int) - 134

/-- Reconstruct a parameter from its BF16 value and silt (R277). -/
def reconW (p s : Nat) : F32 :=
  f32r ((Elem.dec .bf16 p).add ((Elem.dec .int8 s).scale (ulpExp p - 8)))

/-- The next BF16 value above (toward +Inf). -/
def nextAbove (p : Nat) : Nat := if p = 0x8000 then 1 else if p < 0x8000 then p + 1 else p - 1

/-- Split a finite w into BF16 and silt (R277). -/
def splitW (w : F32) : Nat × Nat :=
  let s (p : Nat) : Int := (((f32v w).add (Elem.dec .bf16 p).neg).scale (8 - ulpExp p)).rintInt
  let p := Elem.enc .bf16 .near (f32v w)
  let p := if s p = 128 then nextAbove p else p
  (p, ((s p) % 256).toNat)

/-- State element i at a base. -/
def rdState (mem : Mem) (r : Region) (base i : Nat) : F32 :=
  if r.stateFmt = 0 then BitVec.ofNat 32 (rdNat mem (base + 4 * i) 4)
  else f32r (Elem.dec .bf16 (rdNat mem (base + 2 * i) 2))

/-- Write of state element i; `which` 0 or 1 (R279). -/
def wrState (r : Region) (h : Hyper) (base which i : Nat) (v : F32) : Wr :=
  if r.stateFmt = 0 then ⟨base + 4 * i, 0, 32, v.toNat⟩
  else
    let rnd := if r.stateFmt = 2 then Rnd.stoch (srDraw h.seed h.step (r.srId + 65536 * which) i) else .near
    ⟨base + 2 * i, 0, 16, Elem.enc .bf16 rnd (f32v v)⟩

def rdF (mem : Mem) (a : Nat) : F32 := BitVec.ofNat 32 (rdNat mem a 4)
/-- Address of entry (i, c) of a packed lower triangle. -/
def triAddr (base i c : Nat) : Nat := base + 4 * (i * (i + 1) / 2 + c)

/-- The ledger entry of a block: LAST and TSTEP (R251). -/
def ledgerLast (mem : Mem) (r : Region) (b : Nat) : Nat := rdNat mem (r.ledger + 8 * b) 4
def ledgerTouch (mem : Mem) (r : Region) (b : Nat) : Nat := rdNat mem (r.ledger + 8 * b + 4) 4
/-- The touch key of a step (R253). -/
def touchKey (step : Nat) : Nat := step % 0xFFFFFFFF

/-- What a block's update writes, and whether the guard of R271 left it unchanged. -/
structure BlockOut where
  writes : List Wr
  nonfinite : Bool
  deriving DecidableEq, Repr

/-- One parameter under SGD_M or ADAMW (R275, R276): new w and new states. -/
def ruleElem (h : Hyper) (rule k : Nat) (g w s0 s1 : F32) : F32 × F32 × F32 :=
  if rule = 0 then
    let w := if k > 0 then fmul w (powK h.d k) else w
    let b := if k > 0 then fmul s0 (powK h.b1 k) else s0
    let b := ffma h.b1 b g
    let u := if h.nesterov then ffma h.b1 b g else b
    (ffma (fneg h.lr) u (fmul w h.d), b, s1)
  else
    let w := if k > 0 then fmul w (powK h.d k) else w
    let m := if k > 0 then fmul s0 (powK h.b1 k) else s0
    let v := if k > 0 then fmul s1 (powK h.b2 k) else s1
    let m := ffma h.omb1 g (fmul h.b1 m)
    let v := ffma h.omb2 (fmul g g) (fmul h.b2 v)
    let u := fdiv (fdiv m h.bc1) (fadd (fsqrt (fdiv v h.bc2)) h.eps)
    (ffma (fneg h.lr) u (fmul w h.d), m, v)

/-- Catch-up of a packed triangle entry. -/
def decayS (h : Hyper) (k : Nat) (v : F32) : F32 := if k > 0 then fmul v (powK h.b2 k) else v

/-- PRECOND on one preconditioner block j with `n` parameters (R278): per parameter the new w and m, and the
writes of S. -/
def precondBlock (mem : Mem) (r : Region) (h : Hyper) (k j n : Nat) : List (F32 × F32) × List Wr :=
  let sb := r.state1 + j * triSize r.pb
  let gb := r.factor + j * triSize r.pb
  let st := rdNat mem (r.factor + r.pblocks * triSize r.pb + 4 * j) 4
  let i0 := j * r.pb
  let g (i : Nat) : F32 := fmul (rdF mem (r.grad + 4 * (i0 + i))) h.un
  let mNew := (List.range n).map fun i =>
    let m := rdState mem r r.state0 (i0 + i)
    let m := if k > 0 then fmul m (powK h.b1 k) else m
    ffma h.omb1 (g i) (fmul h.b1 m)
  let mh := mNew.map fun m => fdiv m h.bc1
  let sW := (List.range n).flatMap fun i => (List.range (i + 1)).map fun c =>
    let s := decayS h k (rdF mem (triAddr sb i c))
    (⟨triAddr sb i c, 0, 32, (ffma h.omb2 (fmul (g i) (g c)) (fmul h.b2 s)).toNat⟩ : Wr)
  let ws := (List.range n).map fun i =>
    let w := reconW (rdNat mem (r.param + 2 * (i0 + i)) 2) (rdNat mem (r.silt + i0 + i) 1)
    let w := if k > 0 then fmul w (powK h.d k) else w
    let acc : F32 := (List.range (i + 1)).foldl (fun (a : F32) c => ffma (rdF mem (triAddr gb i c)) (scGet mh c) a) f32Zero
    let u := if st = 0 || st = 4 then scGet mh i else acc
    (ffma (fneg h.lr) u (fmul w h.d), scGet mNew i)
  (ws, sW)

/-- Block b of a region under UPD.APPLY (R270, R271). -/
def applyBlock (mem : Mem) (r : Region) (h : Hyper) (b : Nat) : BlockOut :=
  let (lo, hi) := r.span b
  let k := (h.t + 2 ^ 32 - ledgerLast mem r b - 1) % 2 ^ 32
  let gOk := (rangeFrom lo hi).all fun i => fisFin (fmul (rdF mem (r.grad + 4 * i)) h.un)
  let wOk (w : F32) : Bool := fisFin w && (Elem.dec .bf16 (Elem.enc .bf16 .near (f32v w))).isFin
  let wrP (i : Nat) (w : F32) : List Wr :=
    let (p, s) := splitW w
    [⟨r.param + 2 * i, 0, 16, p⟩, ⟨r.silt + i, 0, 8, s⟩]
  let led : Wr := ⟨r.ledger + 8 * b, 0, 32, h.t⟩
  if r.rule = 2 then
    let js := rangeFrom (lo / r.pb) (ceilDiv hi r.pb)
    let outs := js.map fun j => (j, precondBlock mem r h k j (min r.pb (r.count - j * r.pb)))
    let els := outs.flatMap fun (j, o, _) => o.zipIdx.map fun ((w, m), i) => (j * r.pb + i, w, m)
    if gOk && els.all (fun (_, w, _) => wOk w) then
      ⟨(els.flatMap fun (i, w, m) => wrP i w ++ [wrState r h r.state0 0 i m]) ++ (outs.flatMap fun (_, _, s) => s) ++ [led],
        false⟩
    else ⟨[], true⟩
  else
    let els := (rangeFrom lo hi).map fun i =>
      (i, ruleElem h r.rule k (fmul (rdF mem (r.grad + 4 * i)) h.un)
        (reconW (rdNat mem (r.param + 2 * i) 2) (rdNat mem (r.silt + i) 1))
        (rdState mem r r.state0 i) (if r.rule = 1 then rdState mem r r.state1 i else f32Zero))
    if gOk && els.all (fun (_, w, _, _) => wOk w) then
      ⟨(els.flatMap fun (i, w, a, v) => wrP i w ++ [wrState r h r.state0 0 i a] ++
        (if r.rule = 1 then [wrState r h r.state1 1 i v] else [])) ++ [led], false⟩
    else ⟨[], true⟩

/-! ## The factor unit (R281, R282) -/

/-- A square matrix held as rows. -/
abbrev FMat := List (List F32)
def mat (a : FMat) (i c : Nat) : F32 := (a.getD i []).getD c f32Zero
def matPut (a : FMat) (i c : Nat) (v : F32) : FMat := a.set i ((a.getD i []).set c v)

/-- One column of the Cholesky factorisation; none when it fails. -/
def cholCol (n : Nat) (a : FMat) (l : Option FMat) (c : Nat) : Option FMat :=
  match l with
  | none => none
  | some l =>
    let s : F32 := (List.range c).foldl (fun (s : F32) q => ffma (fneg (mat l c q)) (mat l c q) s) (mat a c c)
    if !(flt f32Zero s) || s = f32Inf then none
    else
      let lc := fsqrt s
      let ri := fdiv f32One lc
      some ((rangeFrom (c + 1) n).foldl (fun (l : FMat) i =>
        let t : F32 := (List.range c).foldl (fun (t : F32) q => ffma (fneg (mat l i q)) (mat l c q) t) (mat a i c)
        matPut l i c (fmul t ri)) (matPut l c c lc))

/-- The inverse factor of A = S + delta I (R281); none on failure. -/
def factorOnce (n : Nat) (s : Nat → Nat → F32) (delta : F32) : Option FMat :=
  let a : FMat := (List.range n).map fun i => (List.range n).map fun c => if i = c then fadd (s i c) delta else s i c
  let zero : FMat := List.replicate n (List.replicate n f32Zero)
  match (List.range n).foldl (cholCol n a) (some zero) with
  | none => none
  | some l =>
    let g0 := (List.range n).foldl (fun (g : FMat) i => matPut g i i (fdiv f32One (mat l i i))) zero
    let g := (List.range n).foldl (fun (g : FMat) c =>
      (rangeFrom (c + 1) n).foldl (fun (g : FMat) i =>
        let t : F32 := (rangeFrom c i).foldl (fun (t : F32) q => ffma (mat l i q) (mat g q c) t) f32Zero
        matPut g i c (fmul (fneg t) (mat g i i))) g) g0
    if (List.range n).all fun i => (List.range (i + 1)).all fun c => fisFin (mat g i c) then some g else none

/-- Preconditioner block j of a region: writes, and the rung used (1-3), or 4 for the identity (R282). -/
def factorBlock (mem : Mem) (r : Region) (damp : F32) (j : Nat) : List Wr × Nat :=
  let n := min r.pb (r.count - j * r.pb)
  let sb := r.state1 + j * triSize r.pb
  let gb := r.factor + j * triSize r.pb
  let st := r.factor + r.pblocks * triSize r.pb + 4 * j
  let s (i c : Nat) : F32 := rdF mem (triAddr sb i c)
  let out (g : FMat) (rung : Nat) : List Wr × Nat :=
    (((List.range n).flatMap fun i => (List.range (i + 1)).map fun c =>
      (⟨triAddr gb i c, 0, 32, (mat g i c).toNat⟩ : Wr)) ++ [⟨st, 0, 32, rung⟩], rung)
  match factorOnce n s damp with
  | some g => out g 1
  | none => match factorOnce n s (fmul damp 0x41200000#32) with
    | some g => out g 2
    | none => match factorOnce n s (fmul damp 0x42C80000#32) with
      | some g => out g 3
      | none => ([⟨st, 0, 32, 4⟩], 4)

/-! ## UPD.GATHERADD (R283, R284) -/

def gaElems (tt : Nat → TDesc) (d : Desc) : Nat := (tt (gaDst d)).outer * (tt (gaDst d)).inner
def gaBlocks (tt : Nat → TDesc) (d : Desc) : Nat := ceilDiv (gaElems tt d) 4096

/-- Row b of 2^12 elements: writes, and whether it raises OVERFLOW. -/
def gaBlock (mem : Mem) (tt : Nat → TDesc) (d : Desc) (b : Nat) : List Wr × Bool :=
  let td := tt (gaDst d)
  let vs := (rangeFrom (4096 * b) (min (gaElems tt d) (4096 * b + 4096))).map fun i =>
    let rc := (i / td.inner, i % td.inner)
    (rc, (rangeFrom 1 (gaUses d)).foldl (fun (a : F32) j => fadd a (rdF32 mem (tt (gaSrc d + j)) rc.1 rc.2))
      (rdF32 mem (tt (gaSrc d)) rc.1 rc.2))
  (vs.map fun ((r, c), v) => wrElem td r c v.toNat, td.grad && vs.any fun (_, v) => !fisFin v)

/-- Byte runs of the sources that row b reads. -/
def gaRuns (tt : Nat → TDesc) (d : Desc) (b : Nat) : List (Nat × Nat) :=
  let top := min (gaElems tt d) (4096 * b + 4096)
  (List.range (gaUses d)).flatMap fun j =>
    let t := tt (gaSrc d + j)
    let inn := max 1 t.inner
    (rangeFrom (4096 * b / inn) (ceilDiv top inn)).map fun row =>
      let c0 := max (4096 * b) (row * inn) - row * inn
      let c1 := min top ((row + 1) * inn) - row * inn
      (t.base + row * t.stride + 4 * c0, 4 * (c1 - c0))

/-! ## Bounds (R289) -/

/-- `home` is the home of the tensors of UPD.GATHERADD (R283). -/
def updBound (mem : Mem) (tt : Nat → TDesc) (d : Desc) (rate : Nat → Nat) (home : Nat) (commit : Bool) : Nat :=
  let per (m : Nat) : Nat :=
    let rs := ((uRegions mem tt d).map (·.2)).filter fun r => r.owner = m
    let nu := (uEngines d m).length
    if dOpcode d = 0x80 then
      let bytes := (rs.map fun r =>
        let f := r.stateFmt = 0
        r.count * (if r.rule = 1 then (if f then 26 else 18) else if f then 18 else 14) + r.blocks * 16 +
          (if r.rule = 2 then r.pblocks * 3 * triSize r.pb else 0)).foldl (· + ·) 0
      let params := (rs.map fun r => r.count * (if r.rule = 2 then r.pb / 16 else 1)).foldl (· + ·) 0
      64 + 8 * rs.length + max (ceilDiv bytes (nu * rate m)) (ceilDiv params (nu * 16)) + 128
    else
      let blk := (rs.map fun r =>
        r.pblocks * (3 * (if r.pb = 16 then 48 else if r.pb = 32 then 160 else 640) +
          ceilDiv (2 * triSize r.pb) (rate m))).foldl (· + ·) 0
      64 + 8 * rs.length + blk + 128
  match dOpcode d with
  | 0x81 =>
    32 + ceilDiv ((gaUses d + 1) * (tt (gaDst d)).bytes) ((uEngines d home).length * rate home) + 64
  | 0x83 => 32 + ceilDiv (64 * uCount d + 64) (rate 0) + 64
  | _ => if commit then ((uOwners mem tt d).map per).foldl max 0 else 64

end Sys2Proof.Machine
end

