-- ==== Sys2Proof/Machine/ColFields.lean ====
section
/-!
DEFINITION. Collective commands and DIG.MIRROR (10 R386-R411, 11 R444, R448): groups, fields, checks, shards,
chains and time bounds.
-/
namespace Sys2Proof.Machine

/-- A group entry (10 R386, COL_GROUP). -/
structure Group where
  w : Nat
  deriving DecidableEq, Repr

def Group.valid (g : Group) : Bool := g.w.testBit 63
def Group.axis (g : Group) : Nat := bits g.w 62 61
def Group.closed (g : Group) : Bool := g.w.testBit 60
def Group.n (g : Group) : Nat := bits g.w 59 53
def Group.pos (g : Group) : Nat := bits g.w 52 47
def Group.rsvP (g : Group) : Nat := bits g.w 46 34
def Group.rsvM (g : Group) : Nat := bits g.w 33 21
def Group.delta (g : Group) : Nat := bits g.w 20 10
/-- Whether this member uses its plus and its minus link (R386). -/
def Group.usesP (g : Group) : Bool := g.closed || g.pos + 1 < g.n
def Group.usesM (g : Group) : Bool := g.closed || 0 < g.pos
/-- A group a collective may name (R386). -/
def Group.legal (g : Group) : Bool :=
  g.valid && g.axis != 3 && 2 ≤ g.n && g.n ≤ 64 && g.pos < g.n &&
    (!g.usesP || (1 ≤ g.rsvP && g.rsvP ≤ 7168)) && (!g.usesM || (1 ≤ g.rsvM && g.rsvM ≤ 7168))
/-- Port codes of the plus and minus links of a group's axis (09 R336). -/
def Group.port (g : Group) (dir : Nat) : Nat := 2 * g.axis + dir

def isCol (op : Nat) : Bool := (0x70 ≤ op && op ≤ 0x74) || (0x78 ≤ op && op ≤ 0x7C) || op = 0x7E
/-- A collective for R389 and stream matching: DIG.MIRROR too. -/
def isColLike (op : Nat) : Bool := (isCol op && op != 0x7E) || op = 0xA1

def colGroup (d : Desc) : Nat :=
  match dOpcode d with
  | 0xA1 => mirGroup d
  | 0x7E => 0
  | _ => fld d 6 5 0
def colStream (d : Desc) : Nat :=
  match dOpcode d with
  | 0xA1 => mirStream d
  | 0x7E => 0
  | 0x78 => fld d 6 31 16 | 0x79 => fld d 6 31 16 | 0x7A => fld d 6 31 16 | 0x7B => fld d 6 31 16 | 0x7C => fld d 6 31 16
  | _ => fld d 7 31 16

def colTag (d : Desc) : Nat := fld d 4 31 30
def colDst (d : Desc) : Nat := fld d 4 28 16
def colSrc (d : Desc) : Nat := fld d 4 12 0
def colRef (d : Desc) : Nat := fld d 5 28 16
def colLen (d : Desc) : Nat := fld d 5 12 0
def colRoot (d : Desc) : Nat := fld d 6 23 18
def colRed (d : Desc) : Nat := fld d 6 17 16
def colLand (d : Desc) : Bool := if dOpcode d = 0x7E then fld d 7 16 16 = 1 else fld d 6 12 12 = 1
def colSkip0 (d : Desc) : Bool := if dOpcode d = 0x7E then fld d 7 17 17 = 1 else fld d 6 11 11 = 1
def colFirst (d : Desc) : Nat := fld d 7 15 0
def colCount (d : Desc) : Nat := (if dOpcode d = 0x7E then fld d 6 31 16 else fld d 8 31 16) + 1
def colTbl (d : Desc) : Nat := if dOpcode d = 0x7E then fld d 5 28 16 else fld d 8 12 0
def colRowsEq (d : Desc) : Nat := fld d 9 23 0
def sendDir (d : Desc) : Nat := fld d 6 15 15
def sendHops (d : Desc) : Nat := fld d 6 13 8
def a2aRoute (d : Desc) : Nat := fld d 4 28 16
def a2aData (d : Desc) : Nat := fld d 4 12 0
def a2aLocal (d : Desc) : Nat := fld d 5 28 16
def a2aExpert (d : Desc) : Nat := fld d 5 12 0
def a2aK (d : Desc) : Nat := fld d 6 11 8
def a2aWeight (d : Desc) : Nat := fld d 7 28 16
def a2aPlace (d : Desc) : Nat := fld d 7 12 0
def permTbl (d : Desc) : Nat := fld d 5 12 0
def xdrSession (d : Desc) : Nat := fld d 6 15 0
def xdrDomains (d : Desc) : Nat := fld d 7 30 24

/-- Shared by the five collectives of R390. -/
def is390 (op : Nat) : Bool := 0x70 ≤ op && op ≤ 0x74
def isReduce (op : Nat) : Bool := op = 0x70 || op = 0x72 || op = 0x74 || op = 0x7E

/-- An INT32 element as a signed number. -/
def rdInt (mem : Mem) (t : TDesc) (r c : Nat) : Int :=
  let v := rdCode mem t r c
  if v < 2 ^ 31 then v else (v : Int) - 2 ^ 32

/-- Shard lengths in rows (R390, R391). -/
def shardLens (mem : Mem) (tt : Nat → TDesc) (n : Nat) (d : Desc) : List Nat :=
  if colLen d = 0 then List.replicate n (colRowsEq d)
  else (List.range n).map fun i => (rdInt mem (tt (colLen d)) (i / (tt (colLen d)).inner) (i % (tt (colLen d)).inner)).toNat
def shardOff (ls : List Nat) (i : Nat) : Nat := (ls.take i).foldl (· + ·) 0

/-- The full tensor's OUTER as the opcode gives it. -/
def fullOuter (tt : Nat → TDesc) (d : Desc) : Nat :=
  if dOpcode d = 0x71 then (tt (colDst d)).outer else (tt (colSrc d)).outer

/-- Peer position of a SEND or RECV (R401); none beyond the end of a line. -/
def sendPeer (g : Group) (d : Desc) : Option Nat :=
  let h := sendHops d
  if g.closed then some ((if sendDir d = 0 then g.pos + h else g.pos + g.n * (h / g.n + 1) - h) % g.n)
  else if sendDir d = 0 then (if g.pos + h < g.n then some (g.pos + h) else none)
  else if h ≤ g.pos then some (g.pos - h) else none

/-- One run of a PERMUTE table: source and destination position, source and destination row, rows (R405). -/
structure PRun where
  sp : Nat
  dp : Nat
  sr : Nat
  dr : Nat
  rows : Nat
  deriving DecidableEq, Repr
def permRuns (mem : Mem) (t : TDesc) : List PRun :=
  (List.range t.outer).map fun i =>
    let w := rdCode mem t i 0
    ⟨bits w 7 0, bits w 15 8, rdCode mem t i 1, rdCode mem t i 2, rdCode mem t i 3⟩

/-- D lies wholly within the gradient slots of the regions named (R399). -/
def landOk (mem : Mem) (tt : Nat → TDesc) (homed : Nat → Nat → Nat → Bool) (d : Desc) (td : TDesc) : Bool :=
  let t := tt (colTbl d)
  td.rows.all fun r => (List.range r.n).all fun k =>
    let a := r.base + k * r.stride
    -- each byte of the row lies in some slot; slots are checked at every 128-byte step and the end
    ((List.range (ceilDiv r.len 128)).map (fun j => a + 128 * j) ++ [a + r.len - 1]).all fun x =>
      (List.range (colCount d)).any fun i =>
        let g := readRegion mem t (colFirst d + i)
        decide (g.grad ≤ x) && decide (x < g.grad + 4 * g.count) && homed g.owner x 1

/-- Checks of a landing: the region table as R252 asks, then the place of D. `w`, `b` are the table's field and
`fw`, `fb` FIRST's. -/
def landChecks (mem : Mem) (tt : Nat → TDesc) (homed : Nat → Nat → Nat → Bool) (inMem : Nat → Nat → Bool) (d : Desc)
    (w b fw fb : Nat) : List Viol :=
  let t := tt (colTbl d)
  let ok := t.fmt = .plain .int32 && t.inner = 16 && 1 ≤ t.outer && t.outer ≤ 65536 && t.within inMem &&
    colFirst d + colCount d ≤ t.outer
  if !colLand d then [] else
    notNull d w (b + 12) b ++
    bodyV (colFirst d + colCount d > t.outer) skField fw fb ++
    bodyV (t.fmt != .plain .int32) skFormat w b ++
    bodyV (t.inner != 16 || t.outer < 1 || t.outer > 65536) skShape w b ++
    bodyV (!t.within inMem) skPlacement w b ++
    bodyV (ok && !landOk mem tt homed d (tt (colDst d))) skPlacement 4 16

def colPlace (stores : Nat → Nat → Bool) (t : TDesc) (w b : Nat) : List Viol :=
  bodyV (!t.within stores || t.stride != t.rowBytes) skPlacement w b

/-- The checks of the collectives of R390. -/
def col390Checks (mem : Mem) (tt : Nat → TDesc) (g : Group) (stores : Nat → Nat → Bool)
    (homed : Nat → Nat → Nat → Bool) (inMem : Nat → Nat → Bool) (d : Desc) : List Viol :=
  let op := dOpcode d
  let s := tt (colSrc d); let td := tt (colDst d)
  let red := isReduce op
  let ls := shardLens mem tt g.n d
  let full := fullOuter tt d
  let sh := ls.getD g.pos 0
  let fp (t : TDesc) : Bool := t.fmt = .plain .fp32 || t.fmt = .plain .bf16
  resv d 4 29 29 ++ resv d 4 15 13 ++ resv d 5 31 29 ++ resv d 5 15 13 ++ resv d 6 31 24 ++ resv d 6 15 13 ++
  resv d 6 10 6 ++ resv d 8 15 13 ++ resv d 9 31 24 ++ resvWords d 10 15 ++
  bodyV (op = 0x71 && colTag d = 3) skReserved 4 30 ++ bodyV (red && colRed d = 3) skReserved 6 16 ++
  bodyV (colStream d = 0xFFFF) skReserved 7 16 ++
  bodyV (op != 0x71 && colTag d != 0) skField 4 30 ++ bodyV (colRef d != 0 && (op != 0x71 || colTag d != 2)) skField 5 16 ++
  bodyV (op != 0x73 && op != 0x74 && colRoot d != 0) skField 6 18 ++ bodyV (!red && colRed d != 0) skField 6 16 ++
  bodyV (!colLand d && colSkip0 d) skField 6 11 ++ bodyV (!g.legal) skField 6 0 ++
  bodyV ((op = 0x73 || op = 0x74) && g.legal && colRoot d ≥ g.n) skField 6 18 ++
  bodyV (!colLand d && colFirst d != 0) skField 7 0 ++ bodyV (colStream d = 0xFFFE) skField 7 16 ++
  bodyV (!colLand d && fld d 8 31 16 != 0) skField 8 16 ++ bodyV (!colLand d && fld d 8 12 0 != 0) skField 8 0 ++
  bodyV (colLen d != 0 && colRowsEq d != 0) skField 9 0 ++
  notNull d 4 12 0 ++ notNull d 4 28 16 ++ (if op = 0x71 && colTag d = 2 then notNull d 5 28 16 else []) ++
  bodyV (if red then !fp s else s.isMx && s.mxax != 0) skFormat 4 0 ++
  bodyV (if red then !fp td else td.fmtCode != s.fmtCode || (td.isMx && td.mxax != 0)) skFormat 4 16 ++
  bodyV (colLen d != 0 && (tt (colLen d)).fmt != .plain .int32) skFormat 5 0 ++
  bodyV (op = 0x71 && s.outer != sh) skShape 4 0 ++ bodyV (td.inner != s.inner) skShape 4 16 ++
  bodyV (if op = 0x70 then td.outer != sh else op != 0x71 && td.outer != s.outer) skShape 4 16 ++
  bodyV (shardOff ls g.n != full && !((op = 0x73 || op = 0x74) && colLen d = 0 && colRowsEq d = 0)) skShape 5 0 ++
  bodyV (colLen d != 0 && (tt (colLen d)).outer * (tt (colLen d)).inner != g.n) skShape 5 0 ++
  colPlace stores s 4 0 ++ colPlace stores td 4 16 ++
  landChecks mem tt homed inMem d 8 0 7 0 ++
  bodyV (td.overlaps s && !((op = 0x72 || op = 0x73) && colSrc d = colDst d)) skOverlap 4 16

/-- Whether two runs that land on one member share a destination row (R405). -/
def permOverlap (rs : List PRun) : Bool :=
  (rs.zipIdx).any fun (a, i) => (rs.zipIdx).any fun (b, j) =>
    i < j && a.dp = b.dp && decide (a.dr < b.dr + b.rows) && decide (b.dr < a.dr + a.rows)

/-- Checks of every collective and of DIG.MIRROR. `xdr s` says whether session group s is legal for the DOMAINS
of the command (13 R504). -/
def colChecks (mem : Mem) (tt : Nat → TDesc) (g : Group) (stores : Nat → Nat → Bool)
    (homed : Nat → Nat → Nat → Bool) (inMem : Nat → Nat → Bool) (xdr : Bool) (d : Desc) : List Viol :=
  let s := tt (colSrc d); let td := tt (colDst d)
  let int32 (i w b : Nat) : List Viol := bodyV ((tt i).fmt != .plain .int32) skFormat w b
  match dOpcode d with
  | 0x78 =>
    resv d 4 29 29 ++ resv d 4 15 13 ++ resvWords d 5 5 ++ resv d 6 14 14 ++ resv d 6 7 6 ++ resvWords d 7 15 ++
    bodyV (colStream d = 0xFFFF) skReserved 6 16 ++ bodyV (colTag d != 0) skField 4 30 ++
    bodyV (colDst d != 0) skField 4 16 ++ bodyV (!g.legal) skField 6 0 ++ bodyV (sendHops d = 0) skField 6 8 ++
    bodyV (g.legal && (sendPeer g d).isNone) skField 6 8 ++ bodyV (colStream d = 0xFFFE) skField 6 16 ++
    notNull d 4 12 0 ++ bodyV (s.isMx && s.mxax != 0) skFormat 4 0 ++ colPlace stores s 4 0
  | 0x79 =>
    resv d 4 29 29 ++ resv d 4 15 13 ++ resv d 5 31 29 ++ resv d 5 15 0 ++ resv d 6 14 14 ++ resv d 6 7 6 ++
    resvWords d 7 15 ++ bodyV (colTag d = 3) skReserved 4 30 ++ bodyV (colStream d = 0xFFFF) skReserved 6 16 ++
    bodyV (colSrc d != 0) skField 4 0 ++ bodyV (colRef d != 0 && colTag d != 2) skField 5 16 ++
    bodyV (!g.legal) skField 6 0 ++ bodyV (sendHops d = 0) skField 6 8 ++
    bodyV (g.legal && (sendPeer g d).isNone) skField 6 8 ++ bodyV (colStream d = 0xFFFE) skField 6 16 ++
    notNull d 4 28 16 ++ (if colTag d = 2 then notNull d 5 28 16 else []) ++
    bodyV (td.isMx && td.mxax != 0) skFormat 4 16 ++ colPlace stores td 4 16
  | 0x7C =>
    let t := tt (permTbl d)
    let rs := permRuns mem t
    let bytes := ((rs.filter fun r => r.sp = g.pos && r.dp != g.pos).map fun r => r.rows * s.rowBytes).foldl (· + ·) 0
    resv d 4 31 29 ++ resv d 4 15 13 ++ resv d 5 31 13 ++ resv d 6 15 6 ++ resvWords d 7 15 ++
    bodyV (colStream d = 0xFFFF) skReserved 6 16 ++ bodyV (!g.legal) skField 6 0 ++
    bodyV (colStream d = 0xFFFE) skField 6 16 ++
    bodyV (rs.any fun r => r.sp ≥ g.n || r.dp ≥ g.n) skField 5 0 ++
    bodyV (colSrc d = colDst d && bytes > 32 * 2 ^ 20) skField 4 16 ++
    notNull d 4 12 0 ++ notNull d 4 28 16 ++ notNull d 5 12 0 ++ int32 (permTbl d) 5 0 ++
    bodyV (td.fmtCode != s.fmtCode || (td.isMx && (td.mxax != 0 || s.mxax != 0))) skFormat 4 16 ++
    bodyV (td.inner != s.inner) skShape 4 16 ++ bodyV (t.inner != 4 || t.outer < 1 || t.outer > 4096) skShape 5 0 ++
    bodyV (rs.any fun r => (r.sp = g.pos && r.sr + r.rows > s.outer) || (r.dp = g.pos && r.dr + r.rows > td.outer)) skShape 5 0 ++
    colPlace stores s 4 0 ++ colPlace stores td 4 16 ++
    bodyV (permOverlap rs || (colSrc d != colDst d && td.overlaps s)) skOverlap 4 16
  | 0x7E =>
    let fp (t : TDesc) : Bool := t.fmt = .plain .fp32 || t.fmt = .plain .bf16
    resv d 4 31 29 ++ resv d 4 15 13 ++ resv d 5 31 29 ++ resv d 5 15 13 ++ resv d 7 31 31 ++ resv d 7 23 18 ++
    resvWords d 8 15 ++ bodyV (xdrSession d > 255 || !xdr) skField 6 0 ++
    bodyV (xdrDomains d < 2 || xdrDomains d > 64) skField 7 24 ++ bodyV (!colLand d && colSkip0 d) skField 7 17 ++
    bodyV (!colLand d && fld d 6 31 16 != 0) skField 6 16 ++ bodyV (!colLand d && colFirst d != 0) skField 7 0 ++
    bodyV (!colLand d && colTbl d != 0) skField 5 16 ++ notNull d 4 12 0 ++ notNull d 4 28 16 ++
    bodyV (!fp s) skFormat 4 0 ++ bodyV (!fp td) skFormat 4 16 ++
    bodyV (colLen d != 0 && (tt (colLen d)).fmt != .plain .int32) skFormat 5 0 ++
    shapeIs td s.outer s.inner 4 16 ++
    bodyV (colLen d != 0 && (tt (colLen d)).outer * (tt (colLen d)).inner != xdrDomains d) skShape 5 0 ++
    bodyV (colLen d != 0 && shardOff (shardLens mem tt (xdrDomains d) d) (xdrDomains d) != s.outer) skShape 5 0 ++
    bodyV (colLen d = 0 && xdrDomains d != 0 && s.outer % xdrDomains d != 0) skShape 5 0 ++
    colPlace stores s 4 0 ++ colPlace stores td 4 16 ++
    landChecks mem tt homed inMem d 5 16 7 0 ++
    bodyV (td.overlaps s && colSrc d != colDst d) skOverlap 4 16
  | 0xA1 =>
    resv d 4 15 14 ++ resv d 5 31 6 ++ resvWords d 6 15 ++ bodyV (mirStream d = 0xFFFF) skReserved 4 16 ++
    bodyV (!g.legal) skField 4 8 ++ bodyV (mirStream d = 0xFFFE) skField 4 16 ++
    bodyV (mirStride d = 0 || (g.legal && (g.n % mirStride d != 0 || g.n / mirStride d < 2))) skField 5 0
  | op =>
    if op = 0x7A || op = 0x7B then
      let tr := tt (a2aRoute d); let x := tt (a2aData d); let tp := tt (a2aPlace d); let tw := tt (a2aWeight d)
      let fe (t : TDesc) : Bool := t.fmt = .plain .fp32 || t.fmt = .plain .bf16
      resv d 4 31 29 ++ resv d 4 15 13 ++ resv d 5 31 29 ++ resv d 5 15 13 ++ resv d 6 15 12 ++ resv d 6 7 6 ++
      resv d 7 31 29 ++ resv d 7 15 13 ++ resvWords d 8 15 ++ bodyV (colStream d = 0xFFFF) skReserved 6 16 ++
      (if op = 0x7A then resv d 7 28 16 else []) ++
      bodyV (!g.legal) skField 6 0 ++ bodyV (a2aK d < 1 || a2aK d > 8) skField 6 8 ++ bodyV (colStream d = 0xFFFE) skField 6 16 ++
      notNull d 4 12 0 ++ notNull d 4 28 16 ++ notNull d 5 12 0 ++ notNull d 5 28 16 ++ notNull d 7 12 0 ++
      bodyV (x.isMx && x.mxax != 0) skFormat 4 0 ++ bodyV (op = 0x7B && !fe x) skFormat 4 0 ++ int32 (a2aRoute d) 4 16 ++
      int32 (a2aExpert d) 5 0 ++ int32 (a2aLocal d) 5 16 ++ int32 (a2aPlace d) 7 0 ++
      bodyV (op = 0x7B && a2aWeight d != 0 && tw.fmt != .plain .fp32) skFormat 7 16 ++
      shapeIs tr x.outer (a2aK d) 4 16 ++ shapeIs tp x.outer (a2aK d) 7 0 ++
      (if op = 0x7B && a2aWeight d != 0 then shapeIs tw x.outer (a2aK d) 7 16 else []) ++
      colPlace stores x 4 0
    else col390Checks mem tt g stores homed inMem d

/-- Tensors written and read, in field order (06 R203). COL.A2A.D writes PLACE and the buffers it finds in its
local table (added at completion). -/
def colOutputs (g : Group) (d : Desc) : List Nat :=
  match dOpcode d with
  | 0x74 => if colRoot d = g.pos then [colDst d] else []
  | 0x78 => [] | 0xA1 => []
  | 0x7A => [a2aPlace d]
  | 0x7B => [a2aData d]
  | _ => [colDst d]
def colInputs (d : Desc) : List Nat :=
  let op := dOpcode d
  (if op = 0x79 || op = 0xA1 then []
   else if op = 0x7A then [a2aRoute d, a2aData d, a2aLocal d, a2aExpert d]
   else if op = 0x7B then [a2aRoute d, a2aLocal d, a2aExpert d, a2aWeight d, a2aPlace d]
   else if op = 0x7C then [colSrc d, permTbl d]
   else if op = 0x78 then [colSrc d]
   else if op = 0x7E then colSrc d :: ((if colLand d then [colTbl d] else []) ++ [colLen d])
   else [colSrc d, colLen d] ++ (if colLand d then [colTbl d] else [])).filter (· != 0)

/-! ## Time bounds (R411, 11 R448), in hundredths of a cc -/

/-- a of R395. -/
def chainA (n : Nat) : Nat := n / 2
def chainB (n : Nat) : Nat := (n - 1) / 2
def streamFlits (bytes : Nat) : Nat := 16 * ceilDiv bytes 4080

/-- Largest of the times the stores take, each for all the bytes it gives and takes: bytes by store, with the
store's rate. -/
def storeTime (parts : List (Nat × Nat × Nat)) : Nat :=
  (parts.map fun (k, _, rate) =>
    ceilDiv (((parts.filter fun p => p.1 = k).map (·.2.1)).foldl (· + ·) 0) (max 1 rate)).foldl max 0

/-- Bound of a collective; `repro` the value in force, `store` the store of a tensor and its rate (R385). -/
def colBound (mem : Mem) (tt : Nat → TDesc) (g : Group) (repro : Bool) (store : TDesc → Nat × Nat) (hostShare : Nat)
    (d : Desc) : Nat :=
  let op := dOpcode d
  let hop := 112 * g.delta + 51200
  let a := chainA g.n
  let hSet := if g.closed then a else g.n - 1
  let tSetup := 2 * 917504 + hSet * hop
  if op = 0xA1 then 64 + ceilDiv (2 * tSetup) 100 + 256
  else if op = 0x7E then 64 + ceilDiv (2 * (tt (colSrc d)).bytes) (max 1 hostShare) + 256
  else
    let rsv := max 1 (if g.closed then min g.rsvP g.rsvM else if g.pos = 0 then g.rsvP
      else if g.pos + 1 = g.n then g.rsvM else min g.rsvP g.rsvM)
    let reps := if g.closed then a else g.n - 1
    let full := if op = 0x71 || op = 0x79 then tt (colDst d) else tt (colSrc d)
    let wire (t : TDesc) (rows : Nat) : Nat :=
      if isReduce op then rows * t.inner * 4 else rows * (t.rowBytes + if t.isMx then t.scaleCols else 0)
    let smax := ((shardLens mem tt g.n d).map fun l => wire full l).foldl max 0
    let flits :=
      if op = 0x70 || op = 0x71 then reps * streamFlits smax
      else if op = 0x72 then 2 * reps * streamFlits smax
      else if op = 0x7C then
        ((permRuns mem (tt (permTbl d))).filter (fun r => r.sp != r.dp)).foldl
          (fun acc r => acc + streamFlits (wire (tt (colSrc d)) r.rows)) 0
      else if op = 0x7A || op = 0x7B then
        let x := tt (a2aData d)
        reps * streamFlits (wire x (x.outer * a2aK d))
      else streamFlits (wire full full.outer)
    let hold := repro && ((isReduce op && colRed d = 0) || op = 0x7B)
    let slots := if hold then ceilDiv (5 * flits) (4 * rsv) else ceilDiv flits rsv
    let hData := if op = 0x78 || op = 0x79 then sendHops d
      else if op = 0x73 || op = 0x74 then (if g.closed then a else max (colRoot d) (g.n - 1 - colRoot d))
      else if op = 0x72 then 2 * reps else reps
    let tNet := (slots + 1) * 917504 + hData * hop
    let root := colRoot d = g.pos
    let moved (p : PRun → Bool) : Nat :=
      wire (tt (colSrc d)) ((((permRuns mem (tt (permTbl d))).filter p).map (·.rows)).foldl (· + ·) 0)
    let whole (i : Nat) : Nat × Nat := (i, (tt i).bytes)
    let uses := (if op = 0x78 then [whole (colSrc d)] else if op = 0x79 then [whole (colDst d)]
      else if op = 0x73 then (if !root then [whole (colDst d)] else if colSrc d = colDst d then [whole (colSrc d)]
        else [whole (colSrc d), whole (colDst d)])
      else if op = 0x74 then (if root then [whole (colSrc d), whole (colDst d)] else [whole (colSrc d)])
      else if op = 0x7C then [(colSrc d, moved fun r => r.sp = g.pos), (colDst d, moved fun r => r.dp = g.pos)]
      else if op = 0x7A || op = 0x7B then [whole (a2aData d)] else [whole (colSrc d), whole (colDst d)])
    let tMem := storeTime (uses.map fun (i, n) => ((store (tt i)).1, n, (store (tt i)).2)) * 100
    64 + ceilDiv (tSetup + max tNet tMem) 100 + 256

end Sys2Proof.Machine
end

