-- ==== Sys2Proof/Config.lean ====
section
/-!
DEFINITION. What an implementation fixes and what the spec leaves open: constants with no body,
so that no proof can see what they are. Free values are applied to a counter of the state.
-/
namespace Sys2Proof.Config

/-- A value the spec leaves open, one for each count of `State.freeCtr` (assumption 6). -/
opaque freeValue : Nat → Nat

/-- Node identifier of the member at a position of a group entry more than one hop away, for COL.SEND and COL.RECV:
no table of the spec holds it (assumption 14). -/
opaque memberNode : Nat → Nat → Nat

/-- Exponent of the first of the 8 consecutive roots of the line code's generator polynomial (08 R299). -/
opaque rsRoot : Nat

/-- The 16 bytes of a check line's marker word for 15 poison markers, and the markers that 16 such bytes show: the bits of its
(32,26) extended Hamming code and the bytes above the word are left open (08 R300). -/
opaque markerCode : Nat → Nat
opaque markerRead : Nat → Nat

/-- How a line of 2,048 bits crosses a channel's 24 pins (08 R327 patterns 0x3 and 0x5): the burst and the pin of each bit, and
the place of each bit in the order of a bit stream. -/
opaque lineBurst : Nat → Nat
opaque linePin : Nat → Nat
opaque lineOrder : Nat → Nat

/-- Falcon-1024 verification of a message under a public key (12 R464): key, message, signature. -/
opaque falconVerify : List Byte → List Byte → List Byte → Bool

/-- Falcon-1024 signature of a message under the identity key (11 R453, 12 R467). The count is that of
`State.freeCtr`, since signing draws on a random salt. -/
opaque falconSign : List Byte → List Byte → Nat → List Byte

/-- Falcon-1024 key generation from a seed: public key and secret key (12 R467). -/
opaque falconKeygen : List Byte → List Byte × List Byte

/-- Culeorn's image-signing public key and identity root key, held in the boot ROM (12 R464, R468). -/
opaque culeornKey : List Byte
opaque identityRootKey : List Byte

/-- The module's serial number, 16 bytes (12 R468), its device secret (R467) and its identity certificate. -/
opaque serial : List Byte
opaque deviceSecret : List Byte
opaque identityCert : List Byte

/-- MAC address of an Ethernet port, from fuses (13 R517 ETH_MAC). -/
opaque ethMac : Nat → Nat

/-- A counter of hardware that no command of this model drives (FEC symbols corrected): the
register, its index and the cc (assumption 8). -/
opaque liveCount : Nat → Nat → Nat → Nat

end Sys2Proof.Config
end

