-- ==== Sys2Proof/Machine/LineCode.lean ====
section
/-!
DEFINITION. The inline check code of a line of memory (08 R298, R299): two Reed-Solomon codewords over GF(2^8), of the even and
of the odd bytes of its 256 data bytes and 16 check bytes, each with the four virtual symbols of the line's place.
The first of the generator's eight consecutive roots is left open (`Config.rsRoot`). The order of the symbols, from the highest
degree down, is data, virtual, check, each by ascending offset (DESIGN CHOICE, assumption 45).
-/
namespace Sys2Proof.Machine

/-! ## GF(2^8) with x^8 + x^4 + x^3 + x^2 + 1 -/

def gfDouble (a : Nat) : Nat := (2 * a) ^^^ (if 128 ≤ a then 0x11D else 0)
def gfMul (a b : Nat) : Nat :=
  (List.range 8).foldl (fun acc i => gfDouble acc ^^^ (if b.testBit (7 - i) then a else 0)) 0
def gfPow (a : Nat) : Nat → Nat
  | 0 => 1
  | n + 1 => gfMul a (gfPow a n)
def gfInv (a : Nat) : Nat := gfPow a 254
/-- A power of the element x. -/
def gfExp (n : Nat) : Nat := gfPow 2 (n % 255)

/-! ## Check bytes -/

/-- Coefficients of the generator below its leading one, from degree 7 down. -/
def rsGen : List Nat :=
  ((List.range 8).foldl (fun g j => List.zipWith (· ^^^ ·) (g ++ [0]) (0 :: g.map (gfMul (gfExp (Config.rsRoot + j))))) [1]).tail

/-- The 8 check bytes of a codeword's data and virtual symbols. -/
def rsEncode (syms : List Nat) : List Nat :=
  syms.foldl (fun r x =>
    let f := x ^^^ r.headD 0
    List.zipWith (· ^^^ ·) (r.tail ++ [0]) (rsGen.map (gfMul f))) (List.replicate 8 0)

/-- The 16 check bytes of data line `line` of local channel c; the virtual symbols are the bytes of 64 × line + c. -/
def lineCheck (c line : Nat) (data : List Byte) : List Byte :=
  let word (k : Nat) : List Nat := rsEncode
    ((List.range 128).map (fun i => (data.getD (2 * i + k) 0#8).toNat) ++ (leBytes 4 (64 * line + c)).map (·.toNat))
  (List.range 16).map fun i => BitVec.ofNat 8 ((word (i % 2)).getD (i / 2) 0)

/-! ## Errors and the decoder -/

/-- An error of a line: the bits flipped by place, 0-255 a data byte, 256-271 a check byte, 272-275 a virtual symbol of both
codewords (the line was read from another place). -/
abbrev LineError := List (Nat × Nat)

/-- Degree of the symbol at a place, in its codeword. -/
def symDegree (p : Nat) : Nat := if p < 256 then 139 - p / 2 else if p < 272 then 7 - (p - 256) / 2 else 11 - (p - 272)
/-- Place of the stored symbol of a degree in codeword k. -/
def symPlace (k d : Nat) : Nat := if d < 8 then 256 + 2 * (7 - d) + k else 2 * (139 - d) + k
/-- The errors in codeword k. -/
def codewordErrors (k : Nat) (e : LineError) : LineError := e.filter fun x => 272 ≤ x.1 || x.1 % 2 = k

/-- The 8 syndromes of errors. -/
def syndromes (e : LineError) : List Nat :=
  (List.range 8).map fun j => e.foldl (fun a x => a ^^^ gfMul x.2 (gfExp (symDegree x.1 * (Config.rsRoot + j)))) 0
/-- Syndromes without the part of an error at degree d. -/
def withoutAt (d : Nat) (s : List Nat) : List Nat := List.zipWith (fun a b => b ^^^ gfMul (gfExp d) a) s s.tail

/-- Up to 3 stored symbols whose errors give the syndromes, and those errors (degree, bits). -/
def nearErrors (s : List Nat) : Option (List (Nat × Nat)) :=
  let ds := rangeFrom 0 8 ++ rangeFrom 12 140
  (ds.flatMap fun a => (ds.filter (a < ·)).flatMap fun b => (ds.filter (b < ·)).map fun c => (a, b, c)).findSome? fun (a, b, c) =>
    if (withoutAt a (withoutAt b (withoutAt c s))).all (· = 0) then
      let at_ (x y z : Nat) : Nat × Nat :=
        let scale := gfMul (gfMul (gfExp x ^^^ gfExp y) (gfExp x ^^^ gfExp z)) (gfExp (x * Config.rsRoot))
        (x, gfMul ((withoutAt y (withoutAt z s)).headD 0) (gfInv scale))
      some ([at_ a b c, at_ b a c, at_ c a b].filter (·.2 != 0))
    else none

/-- What the decoder finds in codeword k of a line with an error: up to 3 byte errors as they are; none where it detects an
uncorrectable one, as it does with every 4 or 5 errors and with any it would place in a virtual symbol. -/
def codewordFound (k : Nat) (e : LineError) : Option LineError :=
  let es := codewordErrors k e
  if es.length ≤ 3 && es.all (·.1 < 272) then some es
  else if es.length ≤ 5 then none
  else (nearErrors (syndromes es)).map fun l => l.map fun x => (symPlace k x.1, x.2)
/-- Errors with each place once. -/
def LineError.joined (e : LineError) : LineError :=
  ((e.map (·.1)).eraseDups.map fun p => (p, (e.filter (·.1 = p)).foldl (fun a x => a ^^^ x.2) 0)).filter (·.2 != 0)
/-- What the decoder finds in a line, if both codewords decode. -/
def decodeLine (e : LineError) : Option LineError :=
  match codewordFound 0 e.joined, codewordFound 1 e.joined with
  | some a, some b => some (a ++ b)
  | _, _ => none

/-- The bytes at places `p` on, with errors flipped in. -/
def flipped (p : Nat) (bs : List Byte) (e : LineError) : List Byte :=
  bs.zipIdx.map fun (b, i) => (e.filter (·.1 = p + i)).foldl (fun b x => b ^^^ BitVec.ofNat 8 x.2) b
/-- Whether an error leaves data bytes as the decoder returns them wrong: it took the line for another codeword. -/
def misread (e found : LineError) : Bool := (LineError.joined (e ++ found)).any (·.1 < 256)

end Sys2Proof.Machine
end

