-- ==== Sys2Proof/Machine/RegTable.lean ====
section
/-!
DEFINITION. The register table: every register the spec lists under a heading NAME @ +offset (00 R8),
with its block, offset, index dimensions and fields (high, low, access type of 00 R11, reset value).
The access types: RO, RW, W1C, W1S, WO, RC. A field whose Reset column holds "—" reflects live
hardware state (00 R15); its stored reset here is 0 or a Config value (DESIGN CHOICE, assumption 8).
Names are the spec's own.
-/
namespace Sys2Proof.Machine

/-- Field access types (00 R11). -/
inductive Acc where
  | RO | RW | W1C | W1S | WO | RC
  deriving DecidableEq, Repr

/-- Which control space holds a block: C-dies, M-dies, L-dies, L0 alone, or management and AON (01 R21). -/
inductive Space where
  | cdie | mdie | ldie | l0 | mgmt
  deriving DecidableEq, Repr

/-- One field of a register: bits high..low, access type, reset value, and whether only an AON power-on
reset returns it (the mark "(AON)" of the Reset column). -/
structure Field where
  hi : Nat
  lo : Nat
  acc : Acc
  reset : Nat
  aon : Bool := false
  deriving DecidableEq, Repr

/-- A register of the table: width in bits, its control space, the offset of entry 0 within that space
(block offset plus the heading's), the index dimensions (stride, count), and its fields. -/
structure RegInfo where
  width : Nat
  space : Space
  off : Nat
  dims : List (Nat × Nat)
  fields : List Field
  deriving DecidableEq, Repr

/-- Every register name of the spec. -/
inductive RegName where
  | MME_PRESENT | MME_FENCED | MME_FAULT | MME_FAULT_IRQ_EN | MME_RES_CORR_COUNT | MME_DUP_CORR_COUNT
  | MME_CHK_CORR_COUNT | MME_CHK_SKIP_COUNT | MME_TILE_COUNT | MME_INJECT | MME_ENG_STATUS | MME_ENG_ACTIVE_CC
  | VEC_FENCED | VEC_FAULT | VEC_FAULT_IRQ_EN | VEC_PAIR_CORR_COUNT | VEC_ELEM_COUNT | VEC_INJECT
  | VEC_UNIT_STATUS | VEC_UNIT_ACTIVE_CC | RED_FAULT | RED_FAULT_IRQ_EN | RED_PAIR_CORR_COUNT | RED_ROW_COUNT
  | ROW_FENCED | ROW_FAULT | ROW_FAULT_IRQ_EN | ROW_PAIR_CORR_COUNT | ROW_STAT_MISS_COUNT | ROW_BAD_TARGET_COUNT
  | ROW_STAT_ECC_COUNT | ROW_STAT_CFG | ROW_ROWS_DONE | ROW_INJECT | ROW_ENG_STATUS | ROW_ENG_ACTIVE_CC
  | ROW_STAT_SLOT | CMD_STATUS | CMD_LOAD | CMD_PROG_BASE | CMD_FAULT | CMD_FAULT_IRQ_EN
  | CMD_UMBRA_CFG | CMD_DMA_RATE | CMD_SKIP_SEQ | CMD_OVERRUN_COUNT | CMD_PREEMPT_COUNT | CMD_FLAG_SAT_COUNT
  | CMD_QUEUE_STATUS | CMD_ENG_MAP | CMD_SKIP_CODE_COUNT | CMD_PATCH | CMD_IDLE | CMD_FLAG
  | CMD_TENSOR | UPD_STATUS | UPD_STEP | UPD_SPB_DEADLINE | UPD_LOSS_SCALE | UPD_LS_CFG
  | UPD_LS_INTERVAL | UPD_FAULT | UPD_FAULT_IRQ_EN | UPD_RATE | UPD_FENCED | UPD_CLAMP_COUNT
  | UPD_FROZEN_COUNT | UPD_DAMP_COUNT | UPD_FALLBACK_COUNT | UPD_NONFINITE_COUNT | UPD_PAIR_CORR_COUNT | UPD_BLOCKS_DONE
  | UPD_SNAP_STATUS | UPD_INJECT | UPD_ENG_STATUS | UPD_ENG_ACTIVE_CC | UPD_IDLE | MEM_MAP
  | MEM_HOME | MEM_HOME_SIZE | MEM_PARTITION | MEM_LOAM_CFG | MEM_FAULT | MEM_FAULT_IRQ_EN
  | MEM_CE_COUNT | MEM_UE_COUNT | MEM_LOAM_CE_COUNT | MEM_FORCED_REFRESH_COUNT | MEM_UE_ADDR | MEM_SCRUB_STATUS
  | MEM_LOAM_HITS | MEM_LOAM_MISSES | MEM_PKG_STATUS | MEM_CH_STATUS | MEM_PF_STATUS | MEM_TG_CTRL
  | MEM_TG_SEED | MEM_TG_LINES | MEM_TG_STATUS | MEM_TG_ERRORS | MEM_TG_FIRST_FAIL | NET_NODE
  | NET_CTRL | NET_Q_TIMEOUT | NET_FRAME | NET_RT_CTRL | NET_RT_SWAP_FRAME | NET_FAULT
  | NET_FAULT_IRQ_EN | NET_DROP_COUNT | NET_PORT_CFG | NET_PORT_STATUS | NET_PORT_LANES | NET_PORT_CAUSE
  | NET_PORT_CRC_COUNT | NET_PORT_REPLAY_COUNT | NET_PORT_FEC_CORR | NET_PORT_TX_FLITS | NET_PORT_RX_FLITS | NET_PORT_SLOT_USE
  | NET_SLOT_CTRL | NET_SLOT_SWAP_FRAME | NET_CONG_HIST | NET_RT | NET_SLOT | COL_STATUS
  | COL_FAULT | COL_FAULT_IRQ_EN | COL_TIMEOUT | COL_VERDICT_CFG | COL_VERDICT_SESSION | COL_VERDICT_TIMEOUT
  | COL_GROUP_CTRL | COL_GROUP_SWAP_STEP | COL_PAIR_CORR_COUNT | COL_ABORT_COUNT | COL_MISMATCH_COUNT | COL_A2A_DROP_COUNT
  | COL_TX_BYTES | COL_RX_BYTES | COL_INJECT | COL_SEQ_STATUS | COL_ACTIVE_CC | COL_IDLE
  | COL_GROUP | SYS_MODE | SYNC_CTRL | SYNC_STATUS | SYNC_DT | SYNC_LEAD
  | SYNC_SS_WINDOW | SYNC_SS_MIN_PERIOD | SYNC_BARRIER_WARN | SYNC_RESIDUAL | SYNC_LAST_RELEASE | SYNC_LAST_EDGE
  | SYNC_FAULT | SYNC_FAULT_IRQ_EN | SYNC_SS_COUNT | DIG_SEED | DIG_SEED_ACTIVE | DIG_RING_BASE
  | DIG_RING_CTRL | DIG_RING_HEAD | DIG_RING_ACK | DIG_FAULT | DIG_FAULT_IRQ_EN | DIG_MIRROR_COUNT
  | DIG_OVERRUN_COUNT | DIG_LAST_DIGEST | DIG_PRISM_CORR_COUNT | DIG_PU_FENCED | RST_STATUS | RST_CMD
  | RST_AON | RST_DOMAINS | RST_START_MS | RST_RESETN_FILTERED | RST_CAUSE_COUNT | RST_GAP
  | IMG_STATUS | IMG_SVN | IMG_CMD | IMG_CMD_STATUS | IMG_STAGE_LEN | IMG_DIGEST
  | IMG_STAGE_DIGEST | IMG_STAGE | SEC_STATUS | SEC_CMD | SEC_CMD_STATUS | SEC_OWNER_HASH
  | SEC_SERIAL | SEC_IDENTITY_CERT | HST_ID | HST_LINK | HST_CTL_WIN | HST_WINB_BASE
  | HST_FAULT | HST_FAULT_IRQ_EN | HST_IRQ_HOLDOFF | HST_OUTSIDE_COUNT | HST_POISON_COUNT | HST_MCTP_DROP_COUNT
  | HST_WINB_RD_BYTES | HST_WINB_WR_BYTES | REC_HEAD | REC_OLDEST | REC_RD | REC_IRQ_THRESH
  | REC_IRQ_DELAY | REC_FAULT | REC_FAULT_IRQ_EN | REC_LOST_COUNT | REC_DROP_COUNT | REC_FILTERED_COUNT
  | REC_PROT_DROP_COUNT | ETH_UDP_PORT | ETH_RTO | ETH_OPEN_TIMEOUT | ETH_FAULT | ETH_FAULT_IRQ_EN
  | ETH_XFER_SRC | ETH_XFER_LEN | ETH_XFER_CMD | ETH_XFER_STATUS | ETH_SESSION_CTRL | ETH_PORT_STATUS
  | ETH_MAC | ETH_IP6 | ETH_TX_BYTES | ETH_RX_BYTES | ETH_FEC_CORR | ETH_RX_DROP_COUNT
  | ETH_SESSION | PWR_STATUS | PWR_INPUT | PWR_POWER | PWR_CAP | PWR_DOMAINS
  | PWR_RAIL_FAULT | PWR_FAULT | PWR_FAULT_IRQ_EN | PWR_ENERGY | PWR_VBAK | CLK_STATUS
  | CLK_FAULT | CLK_FAULT_IRQ_EN | CLK_HOLDOVER_US | CLK_SYNC_LOSS_COUNT | THM_STATUS | THM_TARGET
  | THM_WARN | THM_FAULT | THM_FAULT_IRQ_EN | THM_TRIP_INFO | THM_GATED_CC | THM_SENSOR
  deriving DecidableEq, Repr

/-- The registers of the MME_ block (03_matrix_engines.md), in the order of `RegName`. -/
def regsMME : List RegInfo := [
  -- MME_PRESENT
  ⟨32, .cdie, 0x200000, [],
    [⟨23, 8, .RO, 0, false⟩, ⟨7, 0, .RO, 0, false⟩]⟩,
  -- MME_FENCED
  ⟨32, .cdie, 0x200004, [],
    [⟨23, 0, .RO, 0, false⟩]⟩,
  -- MME_FAULT
  ⟨32, .cdie, 0x200008, [],
    [⟨3, 3, .W1C, 0, false⟩, ⟨2, 2, .W1C, 0, false⟩, ⟨1, 1, .W1C, 0, false⟩, ⟨0, 0, .W1C, 0, false⟩]⟩,
  -- MME_FAULT_IRQ_EN
  ⟨32, .cdie, 0x20000c, [],
    [⟨3, 0, .RW, 8, false⟩]⟩,
  -- MME_RES_CORR_COUNT
  ⟨32, .cdie, 0x200010, [],
    [⟨31, 0, .RC, 0, false⟩]⟩,
  -- MME_DUP_CORR_COUNT
  ⟨32, .cdie, 0x200014, [],
    [⟨31, 0, .RC, 0, false⟩]⟩,
  -- MME_CHK_CORR_COUNT
  ⟨32, .cdie, 0x200018, [],
    [⟨31, 0, .RC, 0, false⟩]⟩,
  -- MME_CHK_SKIP_COUNT
  ⟨32, .cdie, 0x20001c, [],
    [⟨31, 0, .RC, 0, false⟩]⟩,
  -- MME_TILE_COUNT
  ⟨64, .cdie, 0x200020, [],
    [⟨63, 0, .RO, 0, false⟩]⟩,
  -- MME_INJECT
  ⟨32, .cdie, 0x200030, [],
    [⟨31, 31, .W1S, 0, false⟩, ⟨9, 8, .RW, 0, false⟩, ⟨4, 0, .RW, 0, false⟩]⟩,
  -- MME_ENG_STATUS
  ⟨32, .cdie, 0x200100, [(4, 24)],
    [⟨31, 31, .RO, 0, false⟩, ⟨30, 30, .RO, 0, false⟩, ⟨29, 29, .RO, 0, false⟩, ⟨25, 24, .RO, 0, false⟩, ⟨23, 0, .RO, 0, false⟩]⟩,
  -- MME_ENG_ACTIVE_CC
  ⟨64, .cdie, 0x200200, [(8, 24)],
    [⟨47, 0, .RO, 0, false⟩]⟩]

/-- The registers of the VEC_ block (04_vector_engine.md), in the order of `RegName`. -/
def regsVEC : List RegInfo := [
  -- VEC_FENCED
  ⟨32, .cdie, 0x300000, [],
    [⟨3, 0, .RO, 0, false⟩]⟩,
  -- VEC_FAULT
  ⟨32, .cdie, 0x300004, [],
    [⟨1, 1, .W1C, 0, false⟩, ⟨0, 0, .W1C, 0, false⟩]⟩,
  -- VEC_FAULT_IRQ_EN
  ⟨32, .cdie, 0x300008, [],
    [⟨1, 0, .RW, 2, false⟩]⟩,
  -- VEC_PAIR_CORR_COUNT
  ⟨32, .cdie, 0x30000c, [],
    [⟨31, 0, .RC, 0, false⟩]⟩,
  -- VEC_ELEM_COUNT
  ⟨64, .cdie, 0x300010, [],
    [⟨63, 0, .RO, 0, false⟩]⟩,
  -- VEC_INJECT
  ⟨32, .cdie, 0x300020, [],
    [⟨31, 31, .W1S, 0, false⟩, ⟨9, 8, .RW, 0, false⟩, ⟨1, 0, .RW, 0, false⟩]⟩,
  -- VEC_UNIT_STATUS
  ⟨32, .cdie, 0x300100, [(4, 4)],
    [⟨30, 30, .RO, 0, false⟩, ⟨29, 29, .RO, 0, false⟩, ⟨25, 24, .RO, 0, false⟩, ⟨23, 0, .RO, 0, false⟩]⟩,
  -- VEC_UNIT_ACTIVE_CC
  ⟨64, .cdie, 0x300200, [(8, 4)],
    [⟨47, 0, .RO, 0, false⟩]⟩]

/-- The registers of the RED_ block (04_vector_engine.md), in the order of `RegName`. -/
def regsRED : List RegInfo := [
  -- RED_FAULT
  ⟨32, .cdie, 0x340000, [],
    [⟨1, 1, .W1C, 0, false⟩, ⟨0, 0, .W1C, 0, false⟩]⟩,
  -- RED_FAULT_IRQ_EN
  ⟨32, .cdie, 0x340004, [],
    [⟨1, 0, .RW, 2, false⟩]⟩,
  -- RED_PAIR_CORR_COUNT
  ⟨32, .cdie, 0x340008, [],
    [⟨31, 0, .RC, 0, false⟩]⟩,
  -- RED_ROW_COUNT
  ⟨64, .cdie, 0x340010, [],
    [⟨63, 0, .RO, 0, false⟩]⟩]

/-- The registers of the ROW_ block (05_row_engine_backward.md), in the order of `RegName`. -/
def regsROW : List RegInfo := [
  -- ROW_FENCED
  ⟨32, .cdie, 0x380000, [],
    [⟨3, 0, .RO, 0, false⟩]⟩,
  -- ROW_FAULT
  ⟨32, .cdie, 0x380004, [],
    [⟨4, 4, .W1C, 0, false⟩, ⟨3, 3, .W1C, 0, false⟩, ⟨2, 2, .W1C, 0, false⟩, ⟨1, 1, .W1C, 0, false⟩, ⟨0, 0, .W1C, 0, false⟩]⟩,
  -- ROW_FAULT_IRQ_EN
  ⟨32, .cdie, 0x380008, [],
    [⟨4, 0, .RW, 26, false⟩]⟩,
  -- ROW_PAIR_CORR_COUNT
  ⟨32, .cdie, 0x38000c, [],
    [⟨31, 0, .RC, 0, false⟩]⟩,
  -- ROW_STAT_MISS_COUNT
  ⟨32, .cdie, 0x380010, [],
    [⟨31, 0, .RC, 0, false⟩]⟩,
  -- ROW_BAD_TARGET_COUNT
  ⟨32, .cdie, 0x380014, [],
    [⟨31, 0, .RC, 0, false⟩]⟩,
  -- ROW_STAT_ECC_COUNT
  ⟨32, .cdie, 0x380018, [],
    [⟨31, 0, .RC, 0, false⟩]⟩,
  -- ROW_STAT_CFG
  ⟨32, .cdie, 0x38001c, [],
    [⟨26, 16, .RC, 0, false⟩, ⟨10, 0, .RO, 0, false⟩]⟩,
  -- ROW_ROWS_DONE
  ⟨64, .cdie, 0x380020, [],
    [⟨63, 0, .RO, 0, false⟩]⟩,
  -- ROW_INJECT
  ⟨32, .cdie, 0x380030, [],
    [⟨31, 31, .W1S, 0, false⟩, ⟨9, 8, .RW, 0, false⟩, ⟨1, 0, .RW, 0, false⟩]⟩,
  -- ROW_ENG_STATUS
  ⟨32, .cdie, 0x380100, [(4, 4)],
    [⟨30, 30, .RO, 0, false⟩, ⟨29, 29, .RO, 0, false⟩, ⟨25, 24, .RO, 0, false⟩, ⟨23, 0, .RO, 0, false⟩]⟩,
  -- ROW_ENG_ACTIVE_CC
  ⟨64, .cdie, 0x380200, [(8, 4)],
    [⟨47, 0, .RO, 0, false⟩]⟩,
  -- ROW_STAT_SLOT
  ⟨64, .cdie, 0x381000, [(8, 1024)],
    [⟨63, 62, .RO, 0, false⟩, ⟨61, 52, .RO, 0, false⟩, ⟨51, 32, .RO, 0, false⟩, ⟨31, 29, .RO, 0, false⟩, ⟨28, 16, .RO, 0, false⟩, ⟨15, 0, .RO, 0, false⟩]⟩]

/-- The registers of the CMD_ block (06_command_streams.md), in the order of `RegName`. -/
def regsCMD : List RegInfo := [
  -- CMD_STATUS
  ⟨32, .cdie, 0x100000, [],
    [⟨31, 31, .RO, 0, false⟩, ⟨30, 30, .RO, 0, false⟩, ⟨23, 16, .RO, 0, false⟩]⟩,
  -- CMD_LOAD
  ⟨32, .cdie, 0x100004, [],
    [⟨0, 0, .WO, 0, false⟩]⟩,
  -- CMD_PROG_BASE
  ⟨64, .cdie, 0x100008, [],
    [⟨47, 7, .RW, 0, false⟩]⟩,
  -- CMD_FAULT
  ⟨32, .cdie, 0x100010, [],
    [⟨5, 5, .W1C, 0, false⟩, ⟨4, 4, .W1C, 0, false⟩, ⟨3, 3, .W1C, 0, false⟩, ⟨2, 2, .W1C, 0, false⟩, ⟨1, 1, .W1C, 0, false⟩, ⟨0, 0, .W1C, 0, false⟩]⟩,
  -- CMD_FAULT_IRQ_EN
  ⟨32, .cdie, 0x100014, [],
    [⟨5, 0, .RW, 39, false⟩]⟩,
  -- CMD_UMBRA_CFG
  ⟨32, .cdie, 0x100018, [],
    [⟨4, 0, .RW, 20, false⟩]⟩,
  -- CMD_DMA_RATE
  ⟨32, .cdie, 0x10001c, [],
    [⟨8, 0, .RO, 0, false⟩]⟩,
  -- CMD_SKIP_SEQ
  ⟨32, .cdie, 0x100020, [],
    [⟨31, 0, .RO, 0, false⟩]⟩,
  -- CMD_OVERRUN_COUNT
  ⟨32, .cdie, 0x100024, [],
    [⟨31, 0, .RC, 0, false⟩]⟩,
  -- CMD_PREEMPT_COUNT
  ⟨32, .cdie, 0x100028, [],
    [⟨31, 0, .RC, 0, false⟩]⟩,
  -- CMD_FLAG_SAT_COUNT
  ⟨32, .cdie, 0x10002c, [],
    [⟨31, 0, .RC, 0, false⟩]⟩,
  -- CMD_QUEUE_STATUS
  ⟨64, .cdie, 0x100100, [(8, 16)],
    [⟨63, 32, .RO, 0, false⟩, ⟨31, 29, .RO, 0, false⟩, ⟨28, 28, .RO, 0, false⟩, ⟨27, 24, .RO, 0, false⟩, ⟨19, 0, .RO, 0, false⟩]⟩,
  -- CMD_ENG_MAP
  ⟨32, .cdie, 0x100200, [(4, 24)],
    [⟨31, 31, .RO, 0, false⟩, ⟨4, 0, .RO, 0, false⟩]⟩,
  -- CMD_SKIP_CODE_COUNT
  ⟨32, .cdie, 0x100400, [(4, 32)],
    [⟨31, 0, .RC, 0, false⟩]⟩,
  -- CMD_PATCH
  ⟨32, .cdie, 0x100800, [(4, 256)],
    [⟨31, 0, .RO, 0, false⟩]⟩,
  -- CMD_IDLE
  ⟨64, .cdie, 0x104000, [(128, 40), (8, 9)],
    [⟨47, 0, .RO, 0, false⟩]⟩,
  -- CMD_FLAG
  ⟨32, .cdie, 0x110000, [(4, 4096)],
    [⟨31, 0, .RO, 0, false⟩]⟩,
  -- CMD_TENSOR
  ⟨256, .cdie, 0x180000, [(32, 8192)],
    [⟨255, 0, .RO, 0, false⟩]⟩]

/-- The registers of the UPD_ block (07_update_engine.md), in the order of `RegName`. -/
def regsUPD : List RegInfo := [
  -- UPD_STATUS
  ⟨32, .mdie, 0x400000, [],
    [⟨31, 30, .RO, 3, false⟩, ⟨29, 29, .RO, 0, false⟩, ⟨28, 28, .RO, 0, false⟩]⟩,
  -- UPD_STEP
  ⟨64, .mdie, 0x400008, [],
    [⟨63, 0, .RO, 0, false⟩]⟩,
  -- UPD_SPB_DEADLINE
  ⟨32, .mdie, 0x400010, [],
    [⟨31, 0, .RW, 1000000, false⟩]⟩,
  -- UPD_LOSS_SCALE
  ⟨32, .mdie, 0x400014, [],
    [⟨23, 8, .RO, 0, false⟩, ⟨7, 0, .RO, 0, false⟩]⟩,
  -- UPD_LS_CFG
  ⟨32, .mdie, 0x400018, [],
    [⟨31, 28, .RO, 0, false⟩, ⟨23, 16, .RO, 0, false⟩, ⟨15, 8, .RO, 0, false⟩, ⟨7, 0, .RO, 0, false⟩]⟩,
  -- UPD_LS_INTERVAL
  ⟨32, .mdie, 0x40001c, [],
    [⟨15, 0, .RO, 0, false⟩]⟩,
  -- UPD_FAULT
  ⟨32, .mdie, 0x400020, [],
    [⟨8, 8, .W1C, 0, false⟩, ⟨7, 7, .W1C, 0, false⟩, ⟨6, 6, .W1C, 0, false⟩, ⟨5, 5, .W1C, 0, false⟩, ⟨4, 4, .W1C, 0, false⟩, ⟨3, 3, .W1C, 0, false⟩, ⟨2, 2, .W1C, 0, false⟩, ⟨1, 1, .W1C, 0, false⟩, ⟨0, 0, .W1C, 0, false⟩]⟩,
  -- UPD_FAULT_IRQ_EN
  ⟨32, .mdie, 0x400024, [],
    [⟨8, 0, .RW, 354, false⟩]⟩,
  -- UPD_RATE
  ⟨32, .mdie, 0x400028, [],
    [⟨8, 0, .RO, 0, false⟩]⟩,
  -- UPD_FENCED
  ⟨32, .mdie, 0x40002c, [],
    [⟨8, 0, .RO, 0, false⟩]⟩,
  -- UPD_CLAMP_COUNT
  ⟨32, .mdie, 0x400030, [],
    [⟨31, 0, .RC, 0, false⟩]⟩,
  -- UPD_FROZEN_COUNT
  ⟨32, .mdie, 0x400034, [],
    [⟨31, 0, .RC, 0, false⟩]⟩,
  -- UPD_DAMP_COUNT
  ⟨32, .mdie, 0x400038, [],
    [⟨31, 0, .RC, 0, false⟩]⟩,
  -- UPD_FALLBACK_COUNT
  ⟨32, .mdie, 0x40003c, [],
    [⟨31, 0, .RC, 0, false⟩]⟩,
  -- UPD_NONFINITE_COUNT
  ⟨32, .mdie, 0x400040, [],
    [⟨31, 0, .RC, 0, false⟩]⟩,
  -- UPD_PAIR_CORR_COUNT
  ⟨32, .mdie, 0x400044, [],
    [⟨31, 0, .RC, 0, false⟩]⟩,
  -- UPD_BLOCKS_DONE
  ⟨64, .mdie, 0x400048, [],
    [⟨63, 0, .RO, 0, false⟩]⟩,
  -- UPD_SNAP_STATUS
  ⟨64, .mdie, 0x400050, [],
    [⟨39, 0, .RO, 0, false⟩]⟩,
  -- UPD_INJECT
  ⟨32, .mdie, 0x400060, [],
    [⟨31, 31, .W1S, 0, false⟩, ⟨9, 8, .RW, 0, false⟩, ⟨3, 0, .RW, 0, false⟩]⟩,
  -- UPD_ENG_STATUS
  ⟨32, .mdie, 0x400100, [(4, 9)],
    [⟨30, 30, .RO, 0, false⟩, ⟨29, 29, .RO, 0, false⟩, ⟨28, 28, .RO, 0, false⟩, ⟨23, 0, .RO, 0, false⟩]⟩,
  -- UPD_ENG_ACTIVE_CC
  ⟨64, .mdie, 0x400200, [(8, 9)],
    [⟨47, 0, .RO, 0, false⟩]⟩,
  -- UPD_IDLE
  ⟨64, .mdie, 0x401000, [(128, 9), (8, 9)],
    [⟨47, 0, .RO, 0, false⟩]⟩]

/-- The registers of the MEM_ block (08_memory_system.md), in the order of `RegName`. -/
def regsMEM : List RegInfo := [
  -- MEM_MAP
  ⟨64, .mdie, 0x600000, [],
    [⟨63, 0, .RO, 0, false⟩]⟩,
  -- MEM_HOME
  ⟨64, .mdie, 0x600008, [],
    [⟨47, 0, .RO, 0, false⟩]⟩,
  -- MEM_HOME_SIZE
  ⟨64, .mdie, 0x600010, [],
    [⟨47, 0, .RO, 0, false⟩]⟩,
  -- MEM_PARTITION
  ⟨32, .mdie, 0x600018, [],
    [⟨31, 28, .RO, 0, false⟩, ⟨27, 16, .RO, 0, false⟩, ⟨15, 4, .RO, 0, false⟩]⟩,
  -- MEM_LOAM_CFG
  ⟨32, .mdie, 0x60001c, [],
    [⟨24, 24, .RO, 0, false⟩, ⟨23, 14, .RO, 0, false⟩, ⟨13, 13, .RO, 0, false⟩, ⟨12, 8, .RO, 0, false⟩, ⟨4, 0, .RO, 0, false⟩]⟩,
  -- MEM_FAULT
  ⟨32, .mdie, 0x600020, [],
    [⟨5, 5, .W1C, 0, false⟩, ⟨4, 4, .W1C, 0, false⟩, ⟨3, 3, .W1C, 0, false⟩, ⟨2, 2, .W1C, 0, false⟩, ⟨1, 1, .W1C, 0, false⟩, ⟨0, 0, .W1C, 0, false⟩]⟩,
  -- MEM_FAULT_IRQ_EN
  ⟨32, .mdie, 0x600024, [],
    [⟨5, 0, .RW, 62, false⟩]⟩,
  -- MEM_CE_COUNT
  ⟨32, .mdie, 0x600028, [],
    [⟨31, 0, .RC, 0, false⟩]⟩,
  -- MEM_UE_COUNT
  ⟨32, .mdie, 0x60002c, [],
    [⟨31, 0, .RC, 0, false⟩]⟩,
  -- MEM_LOAM_CE_COUNT
  ⟨32, .mdie, 0x600030, [],
    [⟨31, 0, .RC, 0, false⟩]⟩,
  -- MEM_FORCED_REFRESH_COUNT
  ⟨32, .mdie, 0x600034, [],
    [⟨31, 0, .RC, 0, false⟩]⟩,
  -- MEM_UE_ADDR
  ⟨64, .mdie, 0x600038, [],
    [⟨63, 63, .RO, 0, false⟩, ⟨47, 0, .RO, 0, false⟩]⟩,
  -- MEM_SCRUB_STATUS
  ⟨64, .mdie, 0x600040, [],
    [⟨63, 32, .RO, 0, false⟩, ⟨31, 0, .RO, 0, false⟩]⟩,
  -- MEM_LOAM_HITS
  ⟨64, .mdie, 0x600048, [],
    [⟨63, 0, .RO, 0, false⟩]⟩,
  -- MEM_LOAM_MISSES
  ⟨64, .mdie, 0x600050, [],
    [⟨63, 0, .RO, 0, false⟩]⟩,
  -- MEM_PKG_STATUS
  ⟨32, .mdie, 0x600100, [(4, 8)],
    [⟨31, 30, .RO, 0, false⟩, ⟨29, 29, .RO, 0, false⟩, ⟨23, 16, .RO, 0, false⟩, ⟨15, 8, .RC, 0, false⟩]⟩,
  -- MEM_CH_STATUS
  ⟨32, .mdie, 0x600200, [(4, 64)],
    [⟨31, 31, .RO, 0, false⟩, ⟨30, 30, .RO, 0, false⟩, ⟨29, 29, .RO, 0, false⟩, ⟨28, 28, .RO, 0, false⟩, ⟨27, 27, .RO, 0, false⟩, ⟨15, 0, .RO, 0, false⟩]⟩,
  -- MEM_PF_STATUS
  ⟨64, .mdie, 0x600400, [(8, 64)],
    [⟨63, 63, .RO, 0, false⟩, ⟨62, 62, .RO, 0, false⟩, ⟨61, 61, .RO, 0, false⟩, ⟨47, 24, .RO, 0, false⟩, ⟨23, 0, .RO, 0, false⟩]⟩,
  -- MEM_TG_CTRL
  ⟨32, .mdie, 0x601000, [(32, 64)],
    [⟨31, 31, .WO, 0, false⟩, ⟨30, 30, .WO, 0, false⟩, ⟨29, 29, .RW, 0, false⟩, ⟨28, 28, .RW, 0, false⟩, ⟨27, 24, .RW, 0, false⟩, ⟨23, 22, .RW, 0, false⟩]⟩,
  -- MEM_TG_SEED
  ⟨32, .mdie, 0x601004, [(32, 64)],
    [⟨31, 0, .RW, 0, false⟩]⟩,
  -- MEM_TG_LINES
  ⟨32, .mdie, 0x601008, [(32, 64)],
    [⟨31, 0, .RW, 0, false⟩]⟩,
  -- MEM_TG_STATUS
  ⟨32, .mdie, 0x60100c, [(32, 64)],
    [⟨31, 31, .RO, 0, false⟩, ⟨30, 30, .W1C, 0, false⟩, ⟨29, 29, .RO, 0, false⟩, ⟨28, 28, .W1C, 0, false⟩]⟩,
  -- MEM_TG_ERRORS
  ⟨32, .mdie, 0x601010, [(32, 64)],
    [⟨31, 0, .RC, 0, false⟩]⟩,
  -- MEM_TG_FIRST_FAIL
  ⟨64, .mdie, 0x601018, [(32, 64)],
    [⟨63, 63, .RO, 0, false⟩, ⟨33, 0, .RO, 0, false⟩]⟩]

/-- The registers of the NET_ block (09_tensor_network.md), in the order of `RegName`. -/
def regsNET : List RegInfo := [
  -- NET_NODE
  ⟨32, .ldie, 0x800000, [],
    [⟨31, 24, .RW, 0, false⟩, ⟨15, 0, .RW, 65535, false⟩]⟩,
  -- NET_CTRL
  ⟨32, .ldie, 0x800004, [],
    [⟨15, 8, .RW, 64, false⟩, ⟨1, 1, .RW, 0, false⟩, ⟨0, 0, .RW, 0, false⟩]⟩,
  -- NET_Q_TIMEOUT
  ⟨32, .ldie, 0x800008, [],
    [⟨31, 0, .RW, 1000, false⟩]⟩,
  -- NET_FRAME
  ⟨64, .ldie, 0x800010, [],
    [⟨63, 13, .RO, 0, false⟩, ⟨12, 0, .RO, 0, false⟩]⟩,
  -- NET_RT_CTRL
  ⟨32, .ldie, 0x800018, [],
    [⟨31, 31, .W1S, 0, false⟩, ⟨30, 30, .RO, 0, false⟩]⟩,
  -- NET_RT_SWAP_FRAME
  ⟨64, .ldie, 0x800020, [],
    [⟨50, 0, .RW, 0, false⟩]⟩,
  -- NET_FAULT
  ⟨32, .ldie, 0x800030, [],
    [⟨7, 7, .W1C, 0, false⟩, ⟨6, 6, .W1C, 0, false⟩, ⟨5, 5, .W1C, 0, false⟩, ⟨4, 4, .W1C, 0, false⟩, ⟨3, 3, .W1C, 0, false⟩, ⟨2, 2, .W1C, 0, false⟩, ⟨1, 1, .W1C, 0, false⟩, ⟨0, 0, .W1C, 0, false⟩]⟩,
  -- NET_FAULT_IRQ_EN
  ⟨32, .ldie, 0x800034, [],
    [⟨7, 0, .RW, 123, false⟩]⟩,
  -- NET_DROP_COUNT
  ⟨32, .ldie, 0x800100, [(4, 16)],
    [⟨31, 0, .RC, 0, false⟩]⟩,
  -- NET_PORT_CFG
  ⟨32, .ldie, 0x801000, [(256, 6)],
    [⟨31, 31, .RW, 0, false⟩, ⟨30, 30, .RW, 0, false⟩]⟩,
  -- NET_PORT_STATUS
  ⟨32, .ldie, 0x801004, [(256, 6)],
    [⟨31, 29, .RO, 0, false⟩, ⟨28, 26, .RO, 7, false⟩, ⟨25, 16, .RO, 0, false⟩, ⟨15, 0, .RO, 65535, false⟩]⟩,
  -- NET_PORT_LANES
  ⟨32, .ldie, 0x801008, [(256, 6)],
    [⟨31, 16, .RO, 0, false⟩, ⟨15, 0, .RO, 0, false⟩]⟩,
  -- NET_PORT_CAUSE
  ⟨32, .ldie, 0x80100c, [(256, 6)],
    [⟨3, 0, .RO, 0, false⟩]⟩,
  -- NET_PORT_CRC_COUNT
  ⟨32, .ldie, 0x801010, [(256, 6)],
    [⟨31, 0, .RC, 0, false⟩]⟩,
  -- NET_PORT_REPLAY_COUNT
  ⟨32, .ldie, 0x801014, [(256, 6)],
    [⟨31, 0, .RC, 0, false⟩]⟩,
  -- NET_PORT_FEC_CORR
  ⟨64, .ldie, 0x801018, [(256, 6)],
    [⟨63, 0, .RO, 0, false⟩]⟩,
  -- NET_PORT_TX_FLITS
  ⟨64, .ldie, 0x801020, [(256, 6)],
    [⟨63, 0, .RO, 0, false⟩]⟩,
  -- NET_PORT_RX_FLITS
  ⟨64, .ldie, 0x801028, [(256, 6)],
    [⟨63, 0, .RO, 0, false⟩]⟩,
  -- NET_PORT_SLOT_USE
  ⟨64, .ldie, 0x801040, [(256, 6), (8, 4)],
    [⟨63, 0, .RO, 0, false⟩]⟩,
  -- NET_SLOT_CTRL
  ⟨32, .ldie, 0x801060, [(256, 6)],
    [⟨31, 31, .W1S, 0, false⟩, ⟨30, 30, .RO, 0, false⟩, ⟨29, 29, .RO, 0, false⟩, ⟨28, 28, .W1C, 0, false⟩, ⟨13, 0, .RO, 0, false⟩]⟩,
  -- NET_SLOT_SWAP_FRAME
  ⟨64, .ldie, 0x801068, [(256, 6)],
    [⟨50, 0, .RW, 0, false⟩]⟩,
  -- NET_CONG_HIST
  ⟨32, .ldie, 0x801080, [(256, 6), (32, 3), (4, 8)],
    [⟨31, 0, .RC, 0, false⟩]⟩,
  -- NET_RT
  ⟨32, .ldie, 0x900000, [(262144, 2), (4, 65536)],
    [⟨31, 0, .RW, 0, false⟩]⟩,
  -- NET_SLOT
  ⟨32, .ldie, 0xa00000, [(65536, 6), (32768, 2), (4, 8192)],
    [⟨31, 0, .RW, 0, false⟩]⟩]

/-- The registers of the COL_ block (10_collectives_and_mapping.md), in the order of `RegName`. -/
def regsCOL : List RegInfo := [
  -- COL_STATUS
  ⟨32, .ldie, 0xb00000, [],
    [⟨31, 31, .RO, 0, false⟩, ⟨30, 30, .RO, 0, false⟩, ⟨29, 29, .RO, 0, false⟩, ⟨28, 28, .RO, 0, false⟩, ⟨15, 0, .RO, 0, false⟩]⟩,
  -- COL_FAULT
  ⟨32, .ldie, 0xb00004, [],
    [⟨6, 6, .W1C, 0, false⟩, ⟨5, 5, .W1C, 0, false⟩, ⟨4, 4, .W1C, 0, false⟩, ⟨3, 3, .W1C, 0, false⟩, ⟨2, 2, .W1C, 0, false⟩, ⟨1, 1, .W1C, 0, false⟩, ⟨0, 0, .W1C, 0, false⟩]⟩,
  -- COL_FAULT_IRQ_EN
  ⟨32, .ldie, 0xb00008, [],
    [⟨6, 0, .RW, 110, false⟩]⟩,
  -- COL_TIMEOUT
  ⟨32, .ldie, 0xb0000c, [],
    [⟨31, 0, .RW, 10000, false⟩]⟩,
  -- COL_VERDICT_CFG
  ⟨32, .ldie, 0xb00010, [],
    [⟨31, 31, .RW, 0, false⟩, ⟨23, 18, .RW, 0, false⟩, ⟨17, 12, .RW, 0, false⟩, ⟨11, 6, .RW, 0, false⟩, ⟨2, 0, .RW, 0, false⟩]⟩,
  -- COL_VERDICT_SESSION
  ⟨32, .ldie, 0xb00014, [],
    [⟨15, 0, .RW, 0, false⟩]⟩,
  -- COL_VERDICT_TIMEOUT
  ⟨32, .ldie, 0xb00018, [],
    [⟨31, 0, .RW, 2000000, false⟩]⟩,
  -- COL_GROUP_CTRL
  ⟨32, .ldie, 0xb00020, [],
    [⟨31, 31, .W1S, 0, false⟩, ⟨30, 30, .RO, 0, false⟩]⟩,
  -- COL_GROUP_SWAP_STEP
  ⟨64, .ldie, 0xb00028, [],
    [⟨63, 0, .RW, 0, false⟩]⟩,
  -- COL_PAIR_CORR_COUNT
  ⟨32, .ldie, 0xb00030, [],
    [⟨31, 0, .RC, 0, false⟩]⟩,
  -- COL_ABORT_COUNT
  ⟨32, .ldie, 0xb00034, [],
    [⟨31, 0, .RC, 0, false⟩]⟩,
  -- COL_MISMATCH_COUNT
  ⟨32, .ldie, 0xb00038, [],
    [⟨31, 0, .RC, 0, false⟩]⟩,
  -- COL_A2A_DROP_COUNT
  ⟨32, .ldie, 0xb0003c, [],
    [⟨31, 0, .RC, 0, false⟩]⟩,
  -- COL_TX_BYTES
  ⟨64, .ldie, 0xb00040, [],
    [⟨63, 0, .RO, 0, false⟩]⟩,
  -- COL_RX_BYTES
  ⟨64, .ldie, 0xb00048, [],
    [⟨63, 0, .RO, 0, false⟩]⟩,
  -- COL_INJECT
  ⟨32, .ldie, 0xb00060, [],
    [⟨31, 31, .W1S, 0, false⟩, ⟨1, 0, .RW, 0, false⟩]⟩,
  -- COL_SEQ_STATUS
  ⟨32, .ldie, 0xb00080, [],
    [⟨30, 30, .RO, 0, false⟩, ⟨29, 29, .RO, 0, false⟩, ⟨23, 0, .RO, 0, false⟩]⟩,
  -- COL_ACTIVE_CC
  ⟨64, .ldie, 0xb00088, [],
    [⟨47, 0, .RO, 0, false⟩]⟩,
  -- COL_IDLE
  ⟨64, .ldie, 0xb00100, [(8, 9)],
    [⟨47, 0, .RO, 0, false⟩]⟩,
  -- COL_GROUP
  ⟨64, .ldie, 0xb01000, [(512, 2), (8, 64)],
    [⟨63, 63, .RW, 0, false⟩, ⟨62, 61, .RW, 0, false⟩, ⟨60, 60, .RW, 0, false⟩, ⟨59, 53, .RW, 0, false⟩, ⟨52, 47, .RW, 0, false⟩, ⟨46, 34, .RW, 0, false⟩, ⟨33, 21, .RW, 0, false⟩, ⟨20, 10, .RW, 0, false⟩]⟩]

/-- The registers of the SYS_ block (11_determinism_and_integrity.md), in the order of `RegName`. -/
def regsSYS : List RegInfo := [
  -- SYS_MODE
  ⟨32, .l0, 0xc00000, [],
    [⟨31, 31, .RO, 0, false⟩, ⟨0, 0, .RW, 0, false⟩]⟩]

/-- The registers of the SYNC_ block (11_determinism_and_integrity.md), in the order of `RegName`. -/
def regsSYNC : List RegInfo := [
  -- SYNC_CTRL
  ⟨32, .l0, 0xc40000, [],
    [⟨31, 31, .RW, 0, false⟩, ⟨30, 30, .RW, 0, false⟩, ⟨29, 29, .RW, 0, false⟩, ⟨2, 0, .RW, 7, false⟩]⟩,
  -- SYNC_STATUS
  ⟨32, .l0, 0xc40004, [],
    [⟨31, 31, .RO, 0, false⟩, ⟨30, 30, .RO, 0, false⟩, ⟨29, 29, .RO, 0, false⟩, ⟨23, 16, .RO, 0, false⟩]⟩,
  -- SYNC_DT
  ⟨64, .l0, 0xc40008, [],
    [⟨63, 0, .RO, 0, false⟩]⟩,
  -- SYNC_LEAD
  ⟨32, .l0, 0xc40010, [],
    [⟨23, 0, .RW, 131072, false⟩]⟩,
  -- SYNC_SS_WINDOW
  ⟨32, .l0, 0xc40014, [],
    [⟨11, 0, .RW, 32, false⟩]⟩,
  -- SYNC_SS_MIN_PERIOD
  ⟨32, .l0, 0xc40018, [],
    [⟨23, 0, .RW, 10000, false⟩]⟩,
  -- SYNC_BARRIER_WARN
  ⟨32, .l0, 0xc4001c, [],
    [⟨31, 0, .RW, 1000000, false⟩]⟩,
  -- SYNC_RESIDUAL
  ⟨32, .l0, 0xc40020, [],
    [⟨31, 16, .RO, 0, false⟩, ⟨15, 0, .RO, 0, false⟩]⟩,
  -- SYNC_LAST_RELEASE
  ⟨64, .l0, 0xc40028, [],
    [⟨63, 0, .RO, 0, false⟩]⟩,
  -- SYNC_LAST_EDGE
  ⟨64, .l0, 0xc40030, [],
    [⟨63, 0, .RO, 0, false⟩]⟩,
  -- SYNC_FAULT
  ⟨32, .l0, 0xc40038, [],
    [⟨7, 7, .W1C, 0, false⟩, ⟨6, 6, .W1C, 0, false⟩, ⟨5, 5, .W1C, 0, false⟩, ⟨4, 4, .W1C, 0, false⟩, ⟨3, 3, .W1C, 0, false⟩, ⟨2, 2, .W1C, 0, false⟩, ⟨1, 1, .W1C, 0, false⟩, ⟨0, 0, .W1C, 0, false⟩]⟩,
  -- SYNC_FAULT_IRQ_EN
  ⟨32, .l0, 0xc4003c, [],
    [⟨7, 0, .RW, 143, false⟩]⟩,
  -- SYNC_SS_COUNT
  ⟨32, .l0, 0xc40040, [(4, 5)],
    [⟨31, 0, .RC, 0, false⟩]⟩]

/-- The registers of the DIG_ block (11_determinism_and_integrity.md), in the order of `RegName`. -/
def regsDIG : List RegInfo := [
  -- DIG_SEED
  ⟨64, .l0, 0xc80000, [],
    [⟨63, 0, .RW, 0, false⟩]⟩,
  -- DIG_SEED_ACTIVE
  ⟨64, .l0, 0xc80008, [],
    [⟨63, 0, .RO, 0, false⟩]⟩,
  -- DIG_RING_BASE
  ⟨64, .l0, 0xc80010, [],
    [⟨47, 15, .RW, 0, false⟩]⟩,
  -- DIG_RING_CTRL
  ⟨32, .l0, 0xc80018, [],
    [⟨31, 31, .RW, 1, false⟩, ⟨10, 0, .RW, 0, false⟩]⟩,
  -- DIG_RING_HEAD
  ⟨64, .l0, 0xc80020, [],
    [⟨63, 0, .RO, 18446744073709551615, false⟩]⟩,
  -- DIG_RING_ACK
  ⟨64, .l0, 0xc80028, [],
    [⟨63, 0, .RW, 18446744073709551615, false⟩]⟩,
  -- DIG_FAULT
  ⟨32, .l0, 0xc80030, [],
    [⟨5, 5, .W1C, 0, false⟩, ⟨4, 4, .W1C, 0, false⟩, ⟨3, 3, .W1C, 0, false⟩, ⟨2, 2, .W1C, 0, false⟩, ⟨1, 1, .W1C, 0, false⟩, ⟨0, 0, .W1C, 0, false⟩]⟩,
  -- DIG_FAULT_IRQ_EN
  ⟨32, .l0, 0xc80034, [],
    [⟨5, 0, .RW, 55, false⟩]⟩,
  -- DIG_MIRROR_COUNT
  ⟨32, .l0, 0xc80038, [],
    [⟨31, 0, .RC, 0, false⟩]⟩,
  -- DIG_OVERRUN_COUNT
  ⟨32, .l0, 0xc8003c, [],
    [⟨31, 0, .RC, 0, false⟩]⟩,
  -- DIG_LAST_DIGEST
  ⟨256, .l0, 0xc80040, [],
    [⟨255, 0, .RO, 0, false⟩]⟩,
  -- DIG_PRISM_CORR_COUNT
  ⟨32, .l0, 0xc80060, [],
    [⟨31, 0, .RC, 0, false⟩]⟩,
  -- DIG_PU_FENCED
  ⟨32, .l0, 0xc80064, [],
    [⟨31, 0, .RO, 0, false⟩]⟩]

/-- The registers of the RST_ block (12_strata_boot_reset.md), in the order of `RegName`. -/
def regsRST : List RegInfo := [
  -- RST_STATUS
  ⟨32, .mgmt, 0x0, [],
    [⟨31, 31, .RO, 0, false⟩, ⟨30, 30, .RO, 0, false⟩, ⟨29, 29, .RO, 0, false⟩, ⟨28, 28, .W1C, 0, false⟩, ⟨27, 24, .RO, 0, false⟩, ⟨23, 16, .RO, 0, false⟩]⟩,
  -- RST_CMD
  ⟨32, .mgmt, 0x4, [],
    [⟨31, 16, .WO, 0, false⟩, ⟨2, 0, .WO, 0, false⟩]⟩,
  -- RST_AON
  ⟨32, .mgmt, 0x8, [],
    [⟨31, 31, .W1S, 0, true⟩, ⟨23, 16, .RO, 0, true⟩, ⟨2, 0, .RO, 0, true⟩]⟩,
  -- RST_DOMAINS
  ⟨32, .mgmt, 0xc, [],
    [⟨29, 0, .RO, 0, false⟩]⟩,
  -- RST_START_MS
  ⟨32, .mgmt, 0x10, [],
    [⟨31, 0, .RO, 0, true⟩]⟩,
  -- RST_RESETN_FILTERED
  ⟨32, .mgmt, 0x14, [],
    [⟨31, 0, .RC, 0, true⟩]⟩,
  -- RST_CAUSE_COUNT
  ⟨32, .mgmt, 0x40, [(4, 16)],
    [⟨31, 0, .RC, 0, true⟩]⟩,
  -- RST_GAP
  ⟨32, .mgmt, 0x100, [(4, 30)],
    [⟨20, 0, .RO, 0, false⟩]⟩]

/-- The registers of the IMG_ block (12_strata_boot_reset.md), in the order of `RegName`. -/
def regsIMG : List RegInfo := [
  -- IMG_STATUS
  ⟨32, .mgmt, 0x100000, [],
    [⟨31, 31, .RO, 0, false⟩, ⟨30, 30, .RO, 0, false⟩, ⟨29, 29, .RO, 0, false⟩, ⟨28, 28, .RO, 0, false⟩, ⟨27, 26, .RO, 0, false⟩, ⟨23, 16, .RO, 0, false⟩, ⟨15, 8, .RO, 0, false⟩]⟩,
  -- IMG_SVN
  ⟨32, .mgmt, 0x100004, [],
    [⟨5, 0, .RO, 0, false⟩]⟩,
  -- IMG_CMD
  ⟨32, .mgmt, 0x100010, [],
    [⟨31, 16, .WO, 0, false⟩, ⟨3, 0, .WO, 0, false⟩]⟩,
  -- IMG_CMD_STATUS
  ⟨32, .mgmt, 0x100014, [],
    [⟨31, 31, .RO, 0, false⟩, ⟨30, 30, .W1C, 0, false⟩, ⟨23, 16, .RO, 0, false⟩]⟩,
  -- IMG_STAGE_LEN
  ⟨32, .mgmt, 0x100018, [],
    [⟨24, 0, .RW, 0, false⟩]⟩,
  -- IMG_DIGEST
  ⟨256, .mgmt, 0x100020, [],
    [⟨255, 0, .RO, 0, false⟩]⟩,
  -- IMG_STAGE_DIGEST
  ⟨256, .mgmt, 0x100040, [],
    [⟨255, 0, .RO, 0, false⟩]⟩,
  -- IMG_STAGE
  ⟨32, .mgmt, 0x1000000, [(4, 4194304)],
    [⟨31, 0, .RW, 0, false⟩]⟩]

/-- The registers of the SEC_ block (12_strata_boot_reset.md), in the order of `RegName`. -/
def regsSEC : List RegInfo := [
  -- SEC_STATUS
  ⟨32, .mgmt, 0x200000, [],
    [⟨31, 31, .RO, 0, false⟩, ⟨30, 30, .RO, 0, false⟩, ⟨21, 16, .RO, 0, false⟩, ⟨11, 8, .RO, 0, false⟩, ⟨3, 0, .RO, 0, false⟩]⟩,
  -- SEC_CMD
  ⟨32, .mgmt, 0x200004, [],
    [⟨31, 16, .WO, 0, false⟩, ⟨5, 4, .WO, 0, false⟩, ⟨3, 0, .WO, 0, false⟩]⟩,
  -- SEC_CMD_STATUS
  ⟨32, .mgmt, 0x200008, [],
    [⟨31, 31, .RO, 0, false⟩, ⟨30, 30, .W1C, 0, false⟩, ⟨23, 16, .RO, 0, false⟩]⟩,
  -- SEC_OWNER_HASH
  ⟨256, .mgmt, 0x200040, [(32, 4)],
    [⟨255, 0, .RO, 0, false⟩]⟩,
  -- SEC_SERIAL
  ⟨128, .mgmt, 0x2000c0, [],
    [⟨127, 0, .RO, 0, false⟩]⟩,
  -- SEC_IDENTITY_CERT
  ⟨24832, .mgmt, 0x201000, [],
    [⟨24831, 0, .RO, 0, false⟩]⟩]

/-- The registers of the HST_ block (13_host_network_recorder.md), in the order of `RegName`. -/
def regsHST : List RegInfo := [
  -- HST_ID
  ⟨32, .l0, 0xe00000, [],
    [⟨31, 16, .RO, 2824, false⟩, ⟨15, 0, .RO, 8058, false⟩]⟩,
  -- HST_LINK
  ⟨32, .l0, 0xe00004, [],
    [⟨31, 31, .RO, 0, false⟩, ⟨30, 30, .RO, 0, false⟩, ⟨29, 29, .RO, 0, false⟩, ⟨10, 8, .RO, 0, false⟩, ⟨4, 0, .RO, 0, false⟩]⟩,
  -- HST_CTL_WIN
  ⟨32, .l0, 0xe00008, [],
    [⟨4, 0, .RW, 0, false⟩]⟩,
  -- HST_WINB_BASE
  ⟨64, .l0, 0xe00010, [],
    [⟨47, 30, .RW, 0, false⟩]⟩,
  -- HST_FAULT
  ⟨32, .l0, 0xe00018, [],
    [⟨4, 4, .W1C, 0, false⟩, ⟨3, 3, .W1C, 0, false⟩, ⟨2, 2, .W1C, 0, false⟩, ⟨1, 1, .W1C, 0, false⟩, ⟨0, 0, .W1C, 0, false⟩]⟩,
  -- HST_FAULT_IRQ_EN
  ⟨32, .l0, 0xe0001c, [],
    [⟨4, 0, .RW, 11, false⟩]⟩,
  -- HST_IRQ_HOLDOFF
  ⟨32, .l0, 0xe00020, [],
    [⟨15, 0, .RW, 10, false⟩]⟩,
  -- HST_OUTSIDE_COUNT
  ⟨32, .l0, 0xe00024, [],
    [⟨31, 0, .RC, 0, false⟩]⟩,
  -- HST_POISON_COUNT
  ⟨32, .l0, 0xe00028, [],
    [⟨31, 0, .RC, 0, false⟩]⟩,
  -- HST_MCTP_DROP_COUNT
  ⟨32, .l0, 0xe0002c, [],
    [⟨31, 0, .RC, 0, false⟩]⟩,
  -- HST_WINB_RD_BYTES
  ⟨64, .l0, 0xe00030, [],
    [⟨63, 0, .RO, 0, false⟩]⟩,
  -- HST_WINB_WR_BYTES
  ⟨64, .l0, 0xe00038, [],
    [⟨63, 0, .RO, 0, false⟩]⟩]

/-- The registers of the REC_ block (13_host_network_recorder.md), in the order of `RegName`. -/
def regsREC : List RegInfo := [
  -- REC_HEAD
  ⟨64, .mgmt, 0x300000, [],
    [⟨63, 16, .RO, 0, true⟩, ⟨14, 0, .RO, 0, true⟩]⟩,
  -- REC_OLDEST
  ⟨64, .mgmt, 0x300008, [],
    [⟨63, 16, .RO, 0, true⟩, ⟨14, 0, .RO, 0, true⟩]⟩,
  -- REC_RD
  ⟨64, .mgmt, 0x300010, [],
    [⟨47, 0, .RW, 0, true⟩]⟩,
  -- REC_IRQ_THRESH
  ⟨32, .mgmt, 0x300018, [],
    [⟨15, 0, .RW, 1, false⟩]⟩,
  -- REC_IRQ_DELAY
  ⟨32, .mgmt, 0x30001c, [],
    [⟨31, 0, .RW, 1000, false⟩]⟩,
  -- REC_FAULT
  ⟨32, .mgmt, 0x300020, [],
    [⟨2, 2, .W1C, 0, false⟩, ⟨1, 1, .W1C, 0, false⟩, ⟨0, 0, .W1C, 0, false⟩]⟩,
  -- REC_FAULT_IRQ_EN
  ⟨32, .mgmt, 0x300024, [],
    [⟨2, 0, .RW, 4, false⟩]⟩,
  -- REC_LOST_COUNT
  ⟨32, .mgmt, 0x300028, [],
    [⟨31, 0, .RC, 0, true⟩]⟩,
  -- REC_DROP_COUNT
  ⟨32, .mgmt, 0x30002c, [],
    [⟨31, 0, .RC, 0, true⟩]⟩,
  -- REC_FILTERED_COUNT
  ⟨32, .mgmt, 0x300030, [],
    [⟨31, 0, .RC, 0, true⟩]⟩,
  -- REC_PROT_DROP_COUNT
  ⟨32, .mgmt, 0x300034, [],
    [⟨31, 0, .RC, 0, true⟩]⟩]

/-- The registers of the ETH_ block (13_host_network_recorder.md), in the order of `RegName`. -/
def regsETH : List RegInfo := [
  -- ETH_UDP_PORT
  ⟨32, .ldie, 0xf00000, [],
    [⟨15, 0, .RW, 49568, false⟩]⟩,
  -- ETH_RTO
  ⟨32, .ldie, 0xf00004, [],
    [⟨31, 0, .RW, 100, false⟩]⟩,
  -- ETH_OPEN_TIMEOUT
  ⟨32, .ldie, 0xf00008, [],
    [⟨31, 0, .RW, 1000, false⟩]⟩,
  -- ETH_FAULT
  ⟨32, .ldie, 0xf00010, [],
    [⟨3, 3, .W1C, 0, false⟩, ⟨2, 2, .W1C, 0, false⟩, ⟨1, 1, .W1C, 0, false⟩, ⟨0, 0, .W1C, 0, false⟩]⟩,
  -- ETH_FAULT_IRQ_EN
  ⟨32, .ldie, 0xf00014, [],
    [⟨3, 0, .RW, 11, false⟩]⟩,
  -- ETH_XFER_SRC
  ⟨64, .ldie, 0xf00020, [],
    [⟨47, 0, .RW, 0, false⟩]⟩,
  -- ETH_XFER_LEN
  ⟨64, .ldie, 0xf00028, [],
    [⟨47, 0, .RW, 0, false⟩]⟩,
  -- ETH_XFER_CMD
  ⟨32, .ldie, 0xf00030, [],
    [⟨31, 31, .WO, 0, false⟩, ⟨23, 8, .RW, 0, false⟩, ⟨7, 0, .RW, 0, false⟩]⟩,
  -- ETH_XFER_STATUS
  ⟨32, .ldie, 0xf00034, [],
    [⟨31, 31, .RO, 0, false⟩, ⟨30, 30, .W1C, 0, false⟩, ⟨3, 0, .RO, 0, false⟩]⟩,
  -- ETH_SESSION_CTRL
  ⟨32, .ldie, 0xf00040, [],
    [⟨31, 30, .WO, 0, false⟩, ⟨7, 0, .WO, 0, false⟩]⟩,
  -- ETH_PORT_STATUS
  ⟨32, .ldie, 0xf00100, [],
    [⟨31, 31, .RO, 0, false⟩, ⟨30, 30, .RO, 0, false⟩, ⟨29, 29, .RO, 0, false⟩, ⟨28, 28, .RO, 0, false⟩]⟩,
  -- ETH_MAC
  ⟨64, .ldie, 0xf00108, [],
    [⟨47, 0, .RO, 0, false⟩]⟩,
  -- ETH_IP6
  ⟨128, .ldie, 0xf00110, [],
    [⟨127, 0, .RW, 0, false⟩]⟩,
  -- ETH_TX_BYTES
  ⟨64, .ldie, 0xf00120, [],
    [⟨63, 0, .RO, 0, false⟩]⟩,
  -- ETH_RX_BYTES
  ⟨64, .ldie, 0xf00128, [],
    [⟨63, 0, .RO, 0, false⟩]⟩,
  -- ETH_FEC_CORR
  ⟨64, .ldie, 0xf00138, [],
    [⟨63, 0, .RO, 0, false⟩]⟩,
  -- ETH_RX_DROP_COUNT
  ⟨32, .ldie, 0xf00130, [],
    [⟨31, 0, .RC, 0, false⟩]⟩,
  -- ETH_SESSION
  ⟨512, .ldie, 0xf01000, [(64, 256)],
    [⟨511, 384, .RW, 0, false⟩, ⟨383, 336, .RW, 0, false⟩, ⟨335, 288, .RW, 0, false⟩, ⟨287, 240, .RW, 0, false⟩, ⟨239, 200, .RW, 0, false⟩, ⟨199, 184, .RW, 0, false⟩, ⟨183, 176, .RW, 0, false⟩, ⟨175, 168, .RW, 0, false⟩, ⟨167, 161, .RW, 0, false⟩, ⟨159, 144, .RW, 0, false⟩, ⟨143, 132, .RW, 0, false⟩, ⟨131, 131, .RW, 0, false⟩, ⟨130, 129, .RW, 0, false⟩, ⟨128, 126, .RW, 0, false⟩, ⟨125, 124, .RO, 0, false⟩, ⟨123, 120, .RO, 0, false⟩]⟩]

/-- The registers of the PWR_ block (14_power_clocks_package.md), in the order of `RegName`. -/
def regsPWR : List RegInfo := [
  -- PWR_STATUS
  ⟨32, .mgmt, 0x400000, [],
    [⟨31, 31, .RO, 0, false⟩, ⟨30, 30, .RO, 0, false⟩, ⟨29, 29, .RO, 0, false⟩, ⟨3, 0, .RO, 0, false⟩]⟩,
  -- PWR_INPUT
  ⟨32, .mgmt, 0x400004, [],
    [⟨31, 16, .RO, 0, false⟩, ⟨15, 0, .RO, 0, false⟩]⟩,
  -- PWR_POWER
  ⟨32, .mgmt, 0x400008, [],
    [⟨31, 16, .RO, 0, false⟩, ⟨15, 0, .RO, 0, false⟩]⟩,
  -- PWR_CAP
  ⟨32, .mgmt, 0x40000c, [],
    [⟨15, 0, .RW, 2600, false⟩]⟩,
  -- PWR_DOMAINS
  ⟨32, .mgmt, 0x400010, [],
    [⟨29, 0, .RO, 0, false⟩]⟩,
  -- PWR_RAIL_FAULT
  ⟨32, .mgmt, 0x400014, [],
    [⟨31, 31, .RO, 0, true⟩, ⟨9, 8, .RO, 0, true⟩, ⟨4, 0, .RO, 0, true⟩]⟩,
  -- PWR_FAULT
  ⟨32, .mgmt, 0x400018, [],
    [⟨5, 5, .W1C, 0, false⟩, ⟨4, 4, .W1C, 0, false⟩, ⟨3, 3, .W1C, 0, true⟩, ⟨2, 2, .W1C, 0, true⟩, ⟨1, 1, .W1C, 0, true⟩, ⟨0, 0, .W1C, 0, true⟩]⟩,
  -- PWR_FAULT_IRQ_EN
  ⟨32, .mgmt, 0x40001c, [],
    [⟨5, 0, .RW, 15, false⟩]⟩,
  -- PWR_ENERGY
  ⟨64, .mgmt, 0x400020, [],
    [⟨63, 0, .RO, 0, true⟩]⟩,
  -- PWR_VBAK
  ⟨32, .mgmt, 0x400028, [],
    [⟨15, 0, .RO, 0, false⟩]⟩]

/-- The registers of the CLK_ block (14_power_clocks_package.md), in the order of `RegName`. -/
def regsCLK : List RegInfo := [
  -- CLK_STATUS
  ⟨32, .mgmt, 0x440000, [],
    [⟨31, 31, .RO, 0, false⟩, ⟨30, 30, .RO, 0, false⟩, ⟨29, 29, .RO, 0, false⟩, ⟨28, 28, .RO, 0, false⟩, ⟨27, 27, .RO, 0, false⟩, ⟨26, 26, .RO, 0, false⟩, ⟨25, 25, .RO, 0, false⟩]⟩,
  -- CLK_FAULT
  ⟨32, .mgmt, 0x440004, [],
    [⟨4, 4, .W1C, 0, true⟩, ⟨3, 3, .W1C, 0, false⟩, ⟨2, 2, .W1C, 0, false⟩, ⟨1, 1, .W1C, 0, true⟩, ⟨0, 0, .W1C, 0, false⟩]⟩,
  -- CLK_FAULT_IRQ_EN
  ⟨32, .mgmt, 0x440008, [],
    [⟨4, 0, .RW, 27, false⟩]⟩,
  -- CLK_HOLDOVER_US
  ⟨32, .mgmt, 0x44000c, [],
    [⟨31, 0, .RO, 0, false⟩]⟩,
  -- CLK_SYNC_LOSS_COUNT
  ⟨32, .mgmt, 0x440010, [],
    [⟨31, 0, .RC, 0, false⟩]⟩]

/-- The registers of the THM_ block (14_power_clocks_package.md), in the order of `RegName`. -/
def regsTHM : List RegInfo := [
  -- THM_STATUS
  ⟨32, .mgmt, 0x480000, [],
    [⟨31, 24, .RO, 0, false⟩, ⟨23, 20, .RO, 0, false⟩, ⟨19, 16, .RO, 0, false⟩, ⟨15, 15, .RO, 0, false⟩, ⟨14, 14, .RO, 0, false⟩, ⟨4, 0, .RO, 0, false⟩]⟩,
  -- THM_TARGET
  ⟨32, .mgmt, 0x480004, [],
    [⟨7, 0, .RW, 100, false⟩]⟩,
  -- THM_WARN
  ⟨32, .mgmt, 0x480008, [],
    [⟨7, 0, .RW, 95, false⟩]⟩,
  -- THM_FAULT
  ⟨32, .mgmt, 0x48000c, [],
    [⟨4, 4, .W1C, 0, false⟩, ⟨3, 3, .W1C, 0, true⟩, ⟨2, 2, .W1C, 0, false⟩, ⟨1, 1, .W1C, 0, false⟩, ⟨0, 0, .W1C, 0, false⟩]⟩,
  -- THM_FAULT_IRQ_EN
  ⟨32, .mgmt, 0x480010, [],
    [⟨4, 0, .RW, 29, false⟩]⟩,
  -- THM_TRIP_INFO
  ⟨32, .mgmt, 0x480014, [],
    [⟨15, 8, .RO, 0, true⟩, ⟨4, 0, .RO, 0, true⟩]⟩,
  -- THM_GATED_CC
  ⟨64, .mgmt, 0x480018, [],
    [⟨47, 0, .RO, 0, false⟩]⟩,
  -- THM_SENSOR
  ⟨32, .mgmt, 0x480100, [(4, 28)],
    [⟨31, 31, .RO, 0, false⟩, ⟨11, 0, .RO, 0, false⟩]⟩]

/-- Every register, in the order of `RegName`. -/
def allRegs : List RegInfo :=
  regsMME ++ regsVEC ++ regsRED ++ regsROW ++ regsCMD ++ regsUPD ++ regsMEM ++ regsNET ++ regsCOL ++ regsSYS ++ regsSYNC ++ regsDIG ++ regsRST ++ regsIMG ++ regsSEC ++ regsHST ++ regsREC ++ regsETH ++ regsPWR ++ regsCLK ++ regsTHM

/-- The table entry of a register. -/
def RegName.info (r : RegName) : RegInfo := allRegs.getD r.ctorIdx ⟨32, .mgmt, 0, [], []⟩

/-- All names, in the order of the table. -/
def RegName.all : List RegName := (List.range 258).map RegName.ofNat

end Sys2Proof.Machine
end

