-- ==== Sys2Proof/Machine/State.lean ====
section
/-!
DEFINITION. The state of the module: everything the spec gives it, as plain data, and its value at reset.
Registers of the tables stand in `regs` (and flags, tensor tables and fuses in fields of their own); the
structures below hold what the spec gives the machine beyond its registers. Sparse maps (Machine/SMap.lean)
are lists of (key, value) in one canonical form.
-/
namespace Sys2Proof.Machine

/-- Reasons the machine stops with a fault. None is raised: every command of this block completes. -/
inductive Fault where
  /-- Raised by no command; the type must have a constructor (safe). -/
  | none
  deriving DecidableEq, Repr

/-- Reasons a command has no meaning. -/
inductive Refusal where
  /-- Raised by the dispatcher for a row that has no meaning yet (safe: nothing can be proved of it). -/
  | notModelled (mnemonic : String)
  deriving DecidableEq, Repr

/-! ## Die-to-die links (01) -/

/-- One direction of a wide port or narrow link (01 R23-R42): whether it has trained, and whether a recalibration makes it
train again; the lanes a narrow link has trained; the repair map (clock group, wire, spare); corrected errors by data wire
since its training; the last 64 beats or frames sent; replays of the one now sent, all replays, and the cc of the last
(1 + cc); the classes that its last 255 beats were granted to, newest first, the place in the round of MEM and TEN, and beats
granted ahead to signals that wait. -/
structure LinkDir where
  trained : Bool := false
  retrain : Bool := false
  width : Nat := 32
  repairs : List (Nat × Nat × Nat) := []
  corr : List (Nat × Nat) := []
  sent : List Nat := []
  tries : Nat := 0
  replays : Nat := 0
  replayAt : Nat := 0
  grants : List Nat := []
  turn : Nat := 0
  ahead : Nat := 0
  deriving DecidableEq, Repr, Inhabited

/-- The die-to-die links by 2 × number + direction, 0 from the die that R26's or R27's table names first. -/
structure Fabric where
  links : List (Nat × LinkDir) := []
  deriving DecidableEq, Repr, Inhabited

/-! ## Command processing (06) -/

/-- One of the 64 queues (06 R185, R188, R191). Times are held as 1 + cc, 0 for none. `endSkipped`: the STEP.END it stands at
broke a rule and was skipped (R194); `hintTo`: hints have been considered for the commands below this one, counted over
passes of the stream (R189). -/
structure Queue where
  base : Nat := 0
  len : Nat := 0
  grouped : Bool := false
  group : Nat := 0
  step : Nat := 0
  head : Nat := 0
  atEnd : Bool := false
  endAt : Nat := 0
  lastIssue : Nat := 0
  readyAt : Nat := 0
  overStep : Nat := 0
  endSkipped : Bool := false
  hintTo : Nat := 0
  deriving DecidableEq, Repr, Inhabited

/-- One of the four accumulator banks of a matrix engine (03 R89): loaded with the C input of a tile not yet started,
or holding a started tile. `acc` is its FP32 values by row of the tile's real rectangle: C before the compute stage has
ended, the accumulators after (`full`). With them: the injection the tile runs under (0 none), whether it is computed
again and the check and place of its first failure, an ECC error met, the first group whose residues and whose
copies disagreed, the reference and threshold of each column (R113), and whether the checksum does not apply (R114). -/
structure Bank where
  pre : Bool := false
  full : Bool := false
  acc : List F32 := []
  inj : Nat := 0
  retried : Bool := false
  failed : Nat × Nat := (0, 0)
  ecc : Bool := false
  res : Option Nat := none
  dup : Option Nat := none
  sums : List (F32 × F32) := []
  exempt : Bool := false
  deriving DecidableEq, Repr, Inhabited

/-- One unit's part of an issued command: unit key (die × 64 + local unit), lane items or blocks done and in
all, folds done, whether the present item has been started (14 R534) and the present unit of work retried, the injection it runs under (0 none), the
scalar registers of a row engine, the (region, block) pairs left to an update unit, a matrix engine's banks from its
oldest unwritten tile on, and of a row engine (05 R153, R178, R183): its broadcast buffer, its part of the column buffer as
the present row found it, and whether a chunk has started under an armed injection of a scalar or fold result. -/
structure UW where
  key : Nat
  n : Nat := 0
  total : Nat := 0
  fold : Nat := 0
  retried : Bool := false
  inj : Nat := 0
  sc : List Nat := []
  started : Bool := false
  work : List (Nat × Nat) := []
  banks : List Bank := []
  bc : List (List F32) := []
  cols0 : List (Nat × Nat × Nat × Nat) := []
  watch : Bool := false
  deriving DecidableEq, Repr, Inhabited

/-- An issued, incomplete command (06 R190, R210, R218, R234). `poisonIn` is the POISON and POISON_SEQ its
inputs gave at issue; `skip` the code of a skip after issue; `marks` the overrun causes seen (bit 1 THROTTLE,
2 REPLAY, 3 RETRY, 4 PREEMPT); `cols` the column strands of a row command (output, element, strand, value);
`xtag` the version tag of a row command's X at issue (05 R170); `stopAt`/`stopped` stop the bound clock (07 R287). -/
structure Flight where
  die : Nat
  q : Nat
  pos : Nat
  sq : Nat
  op : Nat
  desc : Desc
  stored : Desc
  issue : Nat
  boundFrom : Option Nat
  units : List UW := []
  poisonIn : Option Nat := none
  skip : Option Nat := none
  late : Bool := false
  marks : Nat := 0
  slotWait : Bool := false
  statHit : Bool := false
  ecc : List Nat := []
  cols : List (Nat × Nat × Nat × Nat) := []
  stopAt : Nat := 0
  stopped : Nat := 0
  begun : Nat := 0
  digest : Nat := 0
  xtag : Nat := 0
  deriving DecidableEq, Repr, Inhabited

/-- A signal on its way to a flag of another die (06 R210, R211). -/
structure Signal where
  die : Nat
  idx : Nat
  inc : Nat
  src : Nat := 0
  deriving DecidableEq, Repr, Inhabited

/-- One entry of a step's skip list (06 R222, 11 R451). -/
structure SkipEnt where
  seq : Nat
  die : Nat
  q : Nat
  pos : Nat
  op : Nat
  code : Nat
  count : Nat
  late : Bool
  deriving DecidableEq, Repr, Inhabited

/-- One mirror result (11 R447, R451). -/
structure Mirror where
  slot : Nat
  group : Nat
  stride : Nat
  code : Nat
  mask : Nat
  stream : Nat
  deriving DecidableEq, Repr, Inhabited

/-- What the module keeps of one step s: the C-dies whose STEP.VERDICT has issued or been skipped, the marks on
its contribution, the contribution, the job verdict, its skips and mirror results, and what the release fixed:
effective STEP, effective block, loss-scale exponent and clean count, DIG_SEED, DT of the release, REPRO and
the record's release flags (06 R222-R224, 07 R262-R265, 11 R430, R450). -/
structure StepInfo where
  votes : Nat := 0
  invalid : Bool := false
  overflow : Bool := false
  left : Bool := false
  leftAt : Nat := 0
  contrib : Nat := 0
  verdict : Option Nat := none
  skips : List SkipEnt := []
  skipTotal : Nat := 0
  mirrors : List Mirror := []
  mirrorFull : Bool := false
  lateOverflow : Bool := false
  clampRecs : Nat := 0
  a2aDrop : Bool := false
  released : Bool := false
  stepNo : Nat := 0
  spb : Nat := 0
  lsExp : Int := 0
  clean : Nat := 0
  seed : Nat := 0
  releaseDt : Nat := 0
  repro : Bool := false
  aligned : Bool := false
  lateRelease : Bool := false
  nonfinite : List (Nat × Nat) := []
  deriving DecidableEq, Repr, Inhabited

/-- One stat slot (05 R170, ROW_STAT_SLOT): state 0 FREE, 1 PENDING, 2 VALID, 3 ABSENT, base granule, granules
and key, and the command it is pending for (1 + queue × 2^32 + position). -/
structure StatSlot where
  state : Nat := 0
  base : Nat := 0
  gran : Nat := 0
  rows : Nat := 0
  cls : Nat := 0
  prog : Nat := 0
  xid : Nat := 0
  xtag : Nat := 0
  count : Nat := 0
  imm0 : Nat := 0
  mm : Nat := 0
  diag : Nat := 0
  imm1 : Nat := 0
  owner : Nat := 0
  deriving DecidableEq, Repr, Inhabited

/-- An open shade window (06 R238) and a mandatory item holding units (R241). -/
structure Shade where
  mask : Nat
  ends : Nat
  deriving DecidableEq, Repr, Inhabited
structure Hold where
  item : BgItem
  res : Nat
  since : Nat
  deriving DecidableEq, Repr, Inhabited

/-- Command processing: queues and fetched slots by die × 16 + q, issued commands in order of issue, signals in
transit, idle classes, the program, stall counts of the wait groups and the cc of the last write of their limit (1 + cc),
steps by s_q, stat slots by die × 1,024 + slot. -/
structure Cp where
  queues : List (Nat × Queue) := []
  slots : List (Nat × List Desc) := []
  flights : List Flight := []
  signals : List Signal := []
  flagClass : List (Nat × Nat) := []
  engMode : Nat := 0
  progDigest : Nat := 0
  loadAt : Nat := 0
  firstBlock : Bool := true
  released : Nat := 0
  umbra : List (Nat × Nat) := []
  umbraAt : Nat := 0
  steps : List (Nat × StepInfo) := []
  slotsStat : List (Nat × StatSlot) := []
  shades : List Shade := []
  holds : List Hold := []
  rowMiss : List (Nat × Nat) := []
  rowBad : List (Nat × Nat) := []
  deadline : Nat := 0
  lateFor : Nat := 0
  deriving DecidableEq, Repr, Inhabited

/-! ## Update and snapshot (07) -/

/-- Step parameter blocks (07 R255-R258): the staging copy (13 R494) and the pending buffer, 8,448 bytes each,
little-endian; the last effective STEP; an active snapshot (07 R286-R288). -/
structure Upd where
  staging : Nat := 0
  pending : Nat := 0
  lastStep : Option Nat := none
  snapFirst : Nat := 0
  snapCount : Nat := 0
  snapTbl : TDesc := 0#256
  snapMap : TDesc := 0#256
  snapBounce : TDesc := 0#256
  snapSession : Nat := 0
  snapStep : Nat := 0
  snapHeader : Bool := false
  snapHdrLen : Nat := 0
  bounce : List (Nat × Nat × Nat × Nat) := []
  bounceTop : Nat := 0
  snapBytes : Nat := 0
  snapEnd : Bool := false
  deriving DecidableEq, Repr, Inhabited

/-! ## Memory system (08) -/

/-- A stream prefetcher (08 R314, R315): its tensor, next row and line of the row, end row, limit in MiB, and when it was armed
(1 + cc). -/
structure Prefetch where
  active : Bool := false
  tensor : TDesc := 0#256
  row : Nat := 0
  line : Nat := 0
  last : Nat := 0
  limit : Nat := 0
  armedAt : Nat := 0
  deriving DecidableEq, Repr, Inhabited

/-- A patrol scrub pass of an M-die (08 R321, R322): lines done, ms of its start, late mark. -/
structure Scrub where
  done : Nat := 0
  start : Nat := 0
  late : Bool := false
  deriving DecidableEq, Repr, Inhabited

/-- The loam caches (08 R311-R314): the lines present (address / 256) and whether each is dirty, the last used first; the
primed lines in order of their fill (M-die × 64 + prefetcher, line, cc); demand accesses that hit and that missed, by M-die. -/
structure Loam where
  lines : List (Nat × Bool) := []
  primed : List (Nat × Nat × Nat) := []
  hits : List (Nat × Nat) := []
  misses : List (Nat × Nat) := []
  deriving DecidableEq, Repr, Inhabited

/-- Memory system: poison markers by line (address / 256); lines whose stored bytes differ from the codeword of their contents
since a raw traffic test, and how (R299, R327); the loam caches; raw bytes of the channels that hold no address, by
(M-die × 64 + c) × 2^34 + offset; prefetchers by die × 64 + number; refresh debt by channel and multiplier by package
(M-die × 64 + c, M-die × 8 + p); by channel, the second of its last corrected error (1 + second), its corrected errors of
the 1 s up to the last one (cc, line), and whether they passed the drift threshold; resources due for recalibration (numbered as
`resBit` says); when each channel was last recalibrated (1 + cc); scrub passes and positions; running traffic tests by
channel (1, or 2 once it is to stop); channels trained and those whose training failed; whether memory has been filled; and
the image's thresholds. -/
structure MemSys where
  poison : List Nat := []
  odd : List (Nat × List (Nat × Nat)) := []
  loam : Loam := {}
  cells : List (Nat × Byte) := []
  prefetch : List (Nat × Prefetch) := []
  debt : List (Nat × Nat) := []
  mult : List (Nat × Nat) := []
  ceSec : List (Nat × Nat) := []
  ces : List (Nat × List (Nat × Nat)) := []
  drifted : List Nat := []
  recal : List Nat := []
  recaled : List (Nat × Nat) := []
  scrub : List (Nat × Scrub) := []
  scrubPos : List (Nat × Nat) := []
  tests : List (Nat × Nat) := []
  trained : List Nat := []
  untrained : List Nat := []
  filled : Bool := false
  drift : Nat := 0
  ceLimit : Nat := 0
  deriving DecidableEq, Repr, Inhabited

/-! ## The torus (09) -/

/-- A packet in the module (09 R342, R343, R351): its flits so far as 256-byte little-endian values, the input it came in
by (port code, 6 for the module's own units), its virtual channel there, and the cc its head began to wait for credit (1 + cc);
whether more of its flits are to come in; its head flit as it came, before the router rewrote it; and the cc it came before
its port. -/
structure Packet where
  flits : List Nat
  inp : Nat
  vc : Nat := 0
  waiting : Nat := 0
  more : Bool := false
  head0 : Nat := 0
  since : Nat := 0
  deriving DecidableEq, Repr, Inhabited

/-- A torus port's link state (09 R338-R351): next sequence number to send; data flits sent and not acknowledged
(sequence number, KIND, data, header of their packet), the one a replay goes on from, replays of the oldest; next number
expected and whether a NAK stands; flits of the packet being received; the packet being sent, and its flits that
wait to follow; credits held by class × 4 + VC and credits owed; control flits waiting (type byte and more, in the slot
number given by the bits above 2,047 or later); the last slot sent (1 + slot number); data flits sent since the last replay,
2^20 and more alike (R348). -/
structure Port where
  txSeq : Nat := 0
  replay : List (Nat × Nat × Nat × Nat) := []
  resend : Option Nat := none
  tries : Nat := 0
  rxSeq : Nat := 0
  nak : Bool := false
  asm : List Nat := []
  tail : List Nat := []
  now : Option Packet := none
  credits : List (Nat × Nat) := []
  owed : List (Nat × Nat) := []
  ctrl : List Nat := []
  sentAt : Nat := 0
  sinceReplay : Nat := 1048576
  deriving DecidableEq, Repr, Inhabited

/-- An outstanding Q request (09 R346): the command that made it, its first line, lines, where its data goes,
and the cc it left. -/
structure QReq where
  die : Nat
  q : Nat
  pos : Nat
  line : Nat
  nlines : Nat
  dst : Nat
  dest : Nat
  at_ : Nat
  deriving DecidableEq, Repr, Inhabited

/-- The routers: ports by code; packets at each input by (input × 4 + class) × 4 + VC; routed packets waiting for a port by
(port × 4 + class) × 4 + VC, 3 standing for a detour whose room on VC 2 is taken; C packets that have just come in, and
those in the C buffers by input × 8 + port; packets ejected to the module's endpoints; Q requests by tag. -/
structure Net where
  ports : List (Nat × Port) := []
  inbuf : List (Nat × List Packet) := []
  outbuf : List (Nat × List Packet) := []
  cArrive : List Packet := []
  cbuf : List (Nat × List Packet) := []
  ejected : List Packet := []
  tags : List (Nat × QReq) := []
  deriving DecidableEq, Repr, Inhabited

/-! ## Collectives (10) -/

/-- A collective packet as received: direction of travel (0 plus, 1 minus), SEQ, VTAG, payload and its
length in bytes. -/
structure ColPkt where
  dir : Nat
  seq : Nat
  vtag : Nat
  data : Nat
  len : Nat
  deriving DecidableEq, Repr, Inhabited

/-- An open collective (10 R389-R395): its command, group, stream and opcode, the number a COL.XDR has in its
session; whether it has begun, the SETUPs received by position, whether data may move, the packets waiting for credit
(direction, SEQ, length, payload), packets received and held, packets processed (2 × SEQ + direction) in order, what
has been gathered by SEQ, credit held and credit to give back by direction, values by position of a mirror check or
a COL.XDR, and whether it is over. -/
structure ColOp where
  die : Nat
  q : Nat
  pos : Nat
  group : Nat
  stream : Nat
  op : Nat
  no : Nat := 0
  started : Bool := false
  setups : List (Nat × List Byte) := []
  ready : Bool := false
  outQ : List (Nat × Nat × Nat × Nat) := []
  arrivals : List ColPkt := []
  done : List Nat := []
  staged : List (Nat × Nat) := []
  credit : List (Nat × Nat) := []
  owed : List (Nat × Nat) := []
  values : List (Nat × Nat) := []
  finished : Bool := false
  deriving DecidableEq, Repr, Inhabited

/-- One merging pass over the stages X, Y, Z (10 R406): present stage (3 when done), value, mask, and packets
seen for later stages, by 4 × pass number + stage. -/
structure Merge where
  active : Bool := false
  no : Nat := 0
  stage : Nat := 0
  value : Nat := 0
  orv : Nat := 0
  andv : Nat := 0
  ss : Nat := 0
  mask : Nat := 0
  done : Bool := false
  early : List (Nat × Nat × Nat × Nat × Nat × Nat) := []
  deriving DecidableEq, Repr, Inhabited

/-- The sequencers: open collectives in order of issue, SETUPs that came before their collective began (by
STREAM and direction), the verdict pass of the step being reduced with the XD values received by 64 × step + domain and
whether its own has been sent, COL.XDR commands by session, objects of a COL.XDR that came early (session, object,
payload), steps whose contribution waits for its pass, and its start. -/
structure Col where
  ops : List ColOp := []
  early : List (Nat × ColPkt) := []
  verdict : Merge := {}
  verdictStep : Nat := 0
  xdValues : List (Nat × Nat) := []
  xdSent : Bool := false
  xdrCount : List (Nat × Nat) := []
  xdrEarly : List (Nat × Nat × List Byte) := []
  queue : List Nat := []
  sentAt : Nat := 0
  deriving DecidableEq, Repr, Inhabited

/-! ## Synchronisation and digests (11) -/

/-- The barrier and STEP_SYNC (11 R426-R436): the READY pass and its result T, the RELEASE pass and B; when the
module became ready (READY leaves then) and the DT at which it held T and B; the input's level, the cc since when, the
DT of its last accepted edge, and edges that came before their release's T was known; the slot the last PROBE left in.
Times are DT; `some` where known. -/
structure Sync where
  dt : Nat := 0
  readyAt : Option Nat := none
  ready : Merge := {}
  t : Option Nat := none
  tk : Nat := 0
  release : Merge := {}
  b : Option Nat := none
  bk : Nat := 0
  edge : Option Nat := none
  ssLevel : Bool := false
  ssSince : Nat := 0
  lastAccepted : Option Nat := none
  warned : Bool := false
  held : List Nat := []
  probeSlot : Option Nat := none
  nextProbe : Nat := 0
  deriving DecidableEq, Repr, Inhabited

/-- A digest slot (11 R440). -/
structure DigSlot where
  sum : Nat := 0
  count : Nat := 0
  poison : Bool := false
  deriving DecidableEq, Repr, Inhabited

/-- A composed step record: its step, SEQ, effective STEP and bytes. -/
structure StepRec where
  step : Nat
  seq : Nat
  stepNo : Nat
  bytes : List Byte
  deriving DecidableEq, Repr, Inhabited

/-- Attestation (11 R440, R449-R454): digest slots by bank × 256 + slot, chunk retries, the record waiting to be
written, next step to compose, records since load, previous digest, lost mark, idle counters at the last record. -/
structure Dig where
  slots : List (Nat × DigSlot) := []
  waiting : Option StepRec := none
  nextStep : Nat := 0
  seq : Nat := 0
  prev : Nat := 0
  lost : Bool := false
  idle : List Nat := []
  deriving DecidableEq, Repr, Inhabited

/-! ## Reset, boot and image (12) -/

/-- What the reset sequencer does: nothing, the entry sequence of a link or core reset (R479), or releasing row by
row (R478). -/
inductive RstPhase where
  | idle | entry | releasing
  deriving DecidableEq, Repr, Inhabited

/-- The reset sequencer (12 R473-R486): phase, scope; the rows of R478 still to release, whether the first of the reset
is among them, and when the present row began to count; the cc of the first release (1 + cc, 0 none); conditions of
STEP_READY: image accepted, key derived, die-to-die links trained; whether memory was lost; RESET_N and PERST# low;
earliest release of domain 3 after a host reset (1 + cc, 0 none); ms of a failed start (1 + ms); the straps sampled; the
domain of a rail fault that keeps domains 4-29 off (1 + domain). -/
structure Rst where
  phase : RstPhase := .idle
  scope : Nat := 0
  rows : List Nat := []
  first : Bool := false
  rowAt : Nat := 0
  firstCc : Nat := 0
  imageOk : Bool := false
  keyDone : Bool := false
  d2dDone : List Nat := []
  lost : Bool := false
  resetN : Bool := false
  perst : Bool := false
  hostAt : Nat := 0
  failedMs : Nat := 0
  straps : Nat := 0
  badRail : Nat := 0
  deriving DecidableEq, Repr, Inhabited

/-- The contents of an image's sections that the module acts on (12 R461). -/
structure ImageContent where
  statGranules : List Nat := []
  scratchWays : Nat := 0
  hintPf : Nat := 0
  scrubRate : Nat := 128
  boost : Bool := false
  dmaRate : Nat := 16
  updRate : Nat := 48
  colShare : Nat := 320
  hostShare : Nat := 80
  memWeight : Nat := 1
  tenWeight : Nat := 1
  d2dDrift : Nat := 0
  engMap : List (List (Option Nat)) := []
  mapOut : Nat := 0
  autoMapout : Bool := false
  maxMapout : Nat := 0
  drift : Nat := 0
  ceLimit : Nat := 0
  paths : List Nat := []
  lsInit : Int := 16
  lsMin : Int := 0
  lsMax : Int := 24
  lsDown : Nat := 1
  lsInterval : Nat := 2000
  gaps : List Nat := []
  rowPrograms : List (Nat × List ProgPass) := []
  filters : List (Nat × Nat) := []
  deriving DecidableEq, Repr, Inhabited

/-- Fuses and one-time memory (12 R464-R468, 00 R2): grade (false CZB-8F, true CZB-8S), engines present per
C-die, owner hashes, revoke fuses, security-version floor. -/
structure Fuses where
  gradeS : Bool := false
  present : List Nat := [0xFFFFFF, 0xFFFFFF, 0xFFFFFF, 0xFFFFFF]
  owners : List (Option Nat) := [none, none, none, none]
  revoked : Nat := 0
  svnFloor : Nat := 0
  deriving DecidableEq, Repr, Inhabited

/-- Images (12 R459-R463, R480, R487): flash bytes, boot control block (slot marked ACTIVE, slots marked
invalid), staging bytes, whether a VERIFY stands, the contents and owner slot of the image in force, a COMMIT
aborted by a reset. -/
structure Img where
  flash : List (Nat × Byte) := []
  active : Nat := 0
  invalid : List Nat := []
  stage : List (Nat × Byte) := []
  verified : Bool := false
  busy : Nat := 0
  content : ImageContent := {}
  nextKey : Nat := 0
  enrolled : Bool := false
  deriving DecidableEq, Repr, Inhabited

/-! ## Host, Ethernet, recorder (13) -/

/-- Host interface (13 R494-R502): the MSI-X table (address, data, mask) and pending bits, end of each holdoff
(1 + µs), vectors raised and not yet sent, two-word shadows and held low words by address (1 + word), the MCTP endpoint
identifier, and requests that wait for a traffic test of their channel or behind one that does (R493, 08 R326), oldest
first, each with whether it goes to window A. -/
structure HostIf where
  msix : List (Nat × Nat) := []
  pba : Nat := 0
  holdoff : List (Nat × Nat) := []
  raised : Nat := 0
  shadow : List (Nat × Nat) := []
  heldLow : List (Nat × Nat) := []
  eid : Nat := 0
  waiting : List (Bool × Access) := []
  deriving DecidableEq, Repr, Inhabited

/-- One DATA packet of the bulk transport held for acknowledgement: PSN, object, offset, LAST, payload, when it
was last sent, later acknowledgements seen and retransmissions. -/
structure TxData where
  psn : Nat
  obj : Nat
  off : Nat
  last : Bool
  data : List Byte
  at_ : Nat
  later : Nat := 0
  tries : Nat := 0
  deriving DecidableEq, Repr, Inhabited

/-- Live state of a session (13 R505-R507): next PSN, packets unacknowledged, cumulative PSN received + 1 and
later ones, DATA that waits for room (object, offset, LAST, bytes), packets since the last ACK, objects being received (object, landed bytes, end), last heard and last
sent, time of OPEN; bytes of objects that do not land in memory (object, offset, bytes). Times in µs. -/
structure Session where
  psn : Nat := 0
  unacked : List TxData := []
  backlog : List (Nat × Nat × Bool × List Byte) := []
  rxNext : Nat := 0
  rxLater : List Nat := []
  sinceAck : Nat := 0
  ackFrom : Nat := 0
  objects : List (Nat × List (Nat × Nat) × Option Nat) := []
  heard : Nat := 0
  sent : Nat := 0
  openAt : Nat := 0
  bytes : List (Nat × Nat × List Byte) := []
  deriving DecidableEq, Repr, Inhabited

/-- Ethernet: live sessions, accepted transport packets not yet handled (port, UDP payload), the running transfer
(bytes left to send, offset, session, object). -/
structure Eth where
  sessions : List (Nat × Session) := []
  rx : List (Nat × List Byte) := []
  xferLeft : Nat := 0
  xferOff : Nat := 0
  xferSession : Nat := 0
  xferObj : Nat := 0
  deriving DecidableEq, Repr, Inhabited

/-- A record before it reaches the ring (13 R511): type, source, DT, ms, STEP and payload. -/
structure Rec where
  typ : Nat
  src : Nat
  dt : Nat
  ms : Nat
  step : Nat
  payload : List Byte
  deriving DecidableEq, Repr, Inhabited

/-- The recorder (13 R511-R515): ring bytes; the records in it from the oldest (SEQ, unit offset, units, µs of
writing); each die's path; records dropped from each path since its last REC_DROPPED; first-in-a-second marks
by kind (1 + second); filter marks; the first SEQ whose wait has not yet fired vector 0. -/
structure Recorder where
  ring : List (Nat × Byte) := []
  live : List (Nat × Nat × Nat × Nat) := []
  paths : List (Nat × List Rec) := []
  drops : List (Nat × Nat) := []
  seconds : List (Nat × Nat) := []
  filterAt : List (Nat × Nat) := []
  delayNext : Nat := 0
  deriving DecidableEq, Repr, Inhabited

/-! ## Power, thermal, clocks (14) -/

/-- Supplies, power and thermal control (14 R518-R535): the input and the backup supply in mV, whether VBAK has fallen
below 2.7 V and whether the AON domain has lost power; the power controller's own level, its windows below
0.95 × PWR_CAP in a row, whether it is above the cap, the last window (ms), the end of the hard-limit hold (1 + µs); input
current in units of 10 mA; the sensors' readings (12 bits, units of 0.125 °C), the failed ones, the cool run of the thermal
controller, whether THM_WARN has been reached, memory-hot packages, a trip; the gate level of the present window and the DT
it began at (1 + DT); the straps' levels; SYNC_REF and its loss (µs), root PLL lock, SerDes PLLs locked, REFCLK, the
crystal; the cc of the AON power-on reset. -/
structure Pow where
  vin : Vin := .inRange
  vinMv : Nat := 44000
  vbakMv : Nat := 3000
  vbakLow : Bool := false
  aonLost : Bool := false
  pLevel : Nat := 0
  capRun : Nat := 0
  capOver : Bool := false
  windowAt : Nat := 0
  holdEnd : Nat := 0
  current : Nat := 0
  temps : List Nat := []
  failed : Nat := 0
  coolRun : Nat := 0
  warned : Bool := false
  hot : Nat := 0
  tripped : Bool := false
  gate : Nat := 0
  gateAt : Nat := 0
  straps : Nat := 0
  syncRef : Bool := true
  holdoverAt : Nat := 0
  rootLock : Bool := false
  serdes : Nat := 3
  refclk : Bool := true
  xtal : Bool := true
  aonAt : Nat := 0
  deriving DecidableEq, Repr, Inhabited

/-! ## The whole module -/

/-- What leaves the module: an MSI-X write (13 R496), an MCTP response (requester, bytes), an Ethernet packet
(port, session, bytes), a flit slot of a port, a completion of a host read (poisoned or not). -/
inductive Out where
  | msix (vector address data : Nat)
  | mctp (eid : Nat) (bytes : List Byte)
  | eth (port session : Nat) (bytes : List Byte)
  | flit (port : Nat) (data : Nat) (link : Nat)
  | read (bytes : List Byte) (poisoned : Bool)
  deriving DecidableEq, Repr, Inhabited

/-- The module. `regs` holds registers by `regKey` as their values, unlisted ones at reset; `flags` and
`tensors` by die × 4,096 + index and die × 8,192 + index; `flagOld` the values that flags changed in this cc
had at its start (06 R211); `freeCtr` counts the free values drawn (the model's own field, assumption 6). -/
structure State where
  pending : List Instr
  cc : Nat
  regs : List (Nat × Nat)
  flags : List (Nat × Nat)
  flagOld : List (Nat × Nat)
  tensors : List (Nat × TDesc)
  mem : List (Nat × Byte)
  freeCtr : Nat
  fuses : Fuses
  fab : Fabric
  cp : Cp
  upd : Upd
  ms : MemSys
  net : Net
  col : Col
  sync : Sync
  dig : Dig
  rst : Rst
  img : Img
  host : HostIf
  eth : Eth
  recd : Recorder
  pow : Pow
  sent : List Out
  deriving DecidableEq, Repr

/-- The module right after an AON power-on reset (12 R474 scope 0): every domain from 1 on in reset and waiting
for its row of R478, memory and stores reading 0, no image, no program, every register at its reset value, LAST_CAUSE
0x01, domain 0 running, and the record of the assertion in the path of domain 2 (R477). The queue of commands is empty. -/
def State.reset : State :=
  { pending := [], cc := 0, regs := [(RegName.RST_STATUS.ctorIdx * 2 ^ 26 + 8 * 2 ^ 22, 2 ^ 16),
             (RegName.RST_DOMAINS.ctorIdx * 2 ^ 26 + 8 * 2 ^ 22, 1)], flags := [],
    flagOld := [], tensors := [], mem := [], freeCtr := 0, fuses := {}, fab := {}, cp := {}, upd := {}, ms := {}, net := {},
    col := {}, sync := {}, dig := {},
    rst := { phase := .releasing, rows := List.range' 1 29, first := true, lost := true }, img := {}, host := {},
    eth := {}, recd := { paths := [(8, [⟨0x0100, 8, 0, 0, 2 ^ 64 - 1, [1#8, 0#8]⟩])] }, pow := {}, sent := [] }

end Sys2Proof.Machine
end

