-- ==== Sys2Proof/Machine/Ops.lean ====
section
/-!
DEFINITION. The named operations every meaning is built from. An effect (`Eff`) is a finite program of
primitive updates (`Act`) that may look at the state between them; a meaning answers the state its effect
leaves. No primitive update touches the queue of commands, memory only ever changes by `wr` and `fillMem`,
registers by `reg` and flags by `flagAdd`, so what every command keeps is proved once over the primitives.
-/
namespace Sys2Proof.Machine

/-! ## Registers -/

/-- Dies: 0-3 C0-C3, 4-5 M0-M1, 6-7 L0-L1, 8 management and AON. No table has more than 2^22 entries. -/
def regKey (r : RegName) (die idx : Nat) : Nat := r.ctorIdx * 2 ^ 26 + die % 16 * 2 ^ 22 + idx % 2 ^ 22

/-- The reset value of a register: its fields' (00 R15). -/
def RegName.resetVal (r : RegName) : Nat := (r.info.fields.map fun f => f.reset * 2 ^ f.lo).foldl (· + ·) 0

/-- The reset value on a module of a grade: PWR_CAP's is the grade's TDP (00 R1, 14 R526), 2,150 W on a CZB-8S. -/
def RegName.resetIn (r : RegName) (gradeS : Bool) : Nat := if r = .PWR_CAP && gradeS then 2150 else r.resetVal

/-- The bits of a register that a field covers; the others are reserved and read 0 (00 R12). -/
def RegName.mask (r : RegName) : Nat := (r.info.fields.map fun f => (2 ^ (f.hi + 1 - f.lo) - 1) * 2 ^ f.lo).foldl (· + ·) 0

def rget (s : State) (r : RegName) (die idx : Nat) : Nat := mget (r.resetIn s.fuses.gradeS) s.regs (regKey r die idx)
def rfld (s : State) (r : RegName) (die idx hi lo : Nat) : Nat := bits (rget s r die idx) hi lo
def rbit (s : State) (r : RegName) (die idx i : Nat) : Bool := (rget s r die idx).testBit i

/-- Whether domain d is out of reset (12 R473, RST_DOMAINS). -/
def alive (s : State) (d : Nat) : Bool := rbit s .RST_DOMAINS 8 0 d

/-! ## Primitive updates -/

/-- A primitive update of the state. -/
inductive Act where
  | reg (r : RegName) (die idx v : Nat)
  | wr (ws : List Wr)
  | rd (runs : List (Nat × Nat))
  | mark (line : Nat)
  | flagAdd (key inc : Nat)
  | vtag (die id : Nat)
  | poison (die id : Nat) (p : Bool) (seq : Nat)
  | otag (die id tag : Nat)
  | clock (n : Nat)
  | free
  | fab (x : Fabric)
  | cp (x : Cp)
  | upd (x : Upd)
  | ms (x : MemSys)
  | net (x : Net)
  | col (x : Col)
  | sync (x : Sync)
  | dig (x : Dig)
  | rst (x : Rst)
  | img (x : Img)
  | host (x : HostIf)
  | eth (x : Eth)
  | recd (x : Recorder)
  | pow (x : Pow)
  | out (x : Out)

/-! ## Home ranges (08 R302), from MEM_HOME and MEM_HOME_SIZE -/

def homeSize (s : State) (m : Nat) : Nat := rfld s .MEM_HOME_SIZE (4 + m) 0 47 0
/-- Top of memory. -/
def memTop (s : State) : Nat := homeSize s 0 + homeSize s 1
def homeBase (s : State) (m : Nat) : Nat := if m = 0 then 0 else homeSize s 0
/-- Home M-die of an address of memory. -/
def homeOf (s : State) (a : Nat) : Option Nat :=
  if a < homeSize s 0 then some 0 else if a < memTop s then some 1 else none

/-! ## The loam caches (08 R311-R314, assumption 30) -/

def scratchWays (s : State) (k : Nat) : Nat := rfld s .MEM_LOAM_CFG (4 + k) 0 4 0
/-- Ways of a set that cache memory. -/
def loamWays (s : State) (m : Nat) : Nat := 16 - scratchWays s m
/-- Set of a line homed on M-die m. -/
def setOf (s : State) (m l : Nat) : Nat := (l - homeBase s m / 256) % 131072
/-- Lines of a cache in a line's set. -/
def inSetOf (s : State) (m l k : Nat) : Bool := homeOf s (256 * k) = some m && setOf s m k = setOf s m l

/-- A line comes into its set as the last used one. A full set gives up its least recently used line that is not primed; where
it has none, the line is not installed. -/
def Loam.install (x : Loam) (same : Nat → Bool) (ways l : Nat) (dirty : Bool) : Loam :=
  let here := x.lines.filter fun e => same e.1
  if here.length < ways then { x with lines := (l, dirty) :: x.lines }
  else match (here.filter fun e => !x.primed.any fun p => p.2.1 = e.1).getLast? with
    | none => x
    | some v => { x with lines := (l, dirty) :: x.lines.filter (· != v) }

/-- A demand access of a line of memory: it hits, or misses and allocates; the line loses a primed mark, and a write leaves
it dirty. -/
def loamTouch (s : State) (write : Bool) (x : Loam) (l : Nat) : Loam :=
  match homeOf s (256 * l) with
  | none => x
  | some m =>
    let y := { x with primed := x.primed.filter fun p => p.2.1 != l }
    match x.lines.find? (·.1 = l) with
    | some (_, d) => { y with lines := (l, d || write) :: x.lines.filter (·.1 != l), hits := mset 0 x.hits m (mget 0 x.hits m + 1) }
    | none => { y with misses := mset 0 x.misses m (mget 0 x.misses m + 1) }.install (inSetOf s m l) (loamWays s m) l write
/-- A line leaves its cache. -/
def Loam.drop (x : Loam) (l : Nat) : Loam :=
  { x with lines := x.lines.filter (·.1 != l), primed := x.primed.filter fun p => p.2.1 != l }

/-- Lines that runs of bytes touch, each once. -/
def runLines (runs : List (Nat × Nat)) : List Nat :=
  (runs.flatMap fun (a, n) => if n = 0 then [] else rangeFrom (a / 256) ((a + n - 1) / 256 + 1)).eraseDups
/-- Lines that writes touch, each once. -/
def wrLines (ws : List Wr) : List Nat :=
  (ws.foldl (fun ls w =>
    (rangeFrom ((8 * w.a + w.off) / 2048) ((8 * w.a + w.off + w.w - 1) / 2048 + 1)).foldl
      (fun ls l => if ls.contains l then ls else l :: ls) ls) []).reverse

/-! ## What a primitive update does -/

/-- Apply writes in order. -/
def applyWr (m : Mem) (ws : List Wr) : Mem := ws.foldl (fun m w => wrBits m w.a w.off w.w w.v) m

/-- Whether writes cover all 256 bytes of a line (08 R300). -/
def coversLine (ws : List Wr) (line : Nat) : Bool :=
  (List.range 256).all fun i =>
    let b := 8 * (256 * line + i)
    (List.range 8).all fun j => ws.any fun w => decide (8 * w.a + w.off ≤ b + j ∧ b + j < 8 * w.a + w.off + w.w)

/-- The saturating sum of a flag (06 R212). -/
def flagSum (v inc : Nat) : Nat := satAdd v inc 0xFFFFFFFF

/-- An entry of a die's tensor table. An identifier at or above the table's entry count reads as an entry of zeros, FP32 of
shape 0 × 0, on which the checks run as on any other (DESIGN CHOICE, assumption 42). -/
def tget (s : State) (die id : Nat) : TDesc := mget 0#256 s.tensors (die * 8192 + id)

/-- What a primitive update does. -/
def Act.run : Act → State → State
  | .reg r die idx v, s =>
    { s with regs := mset (r.resetIn s.fuses.gradeS) s.regs (regKey r die idx) (v % 2 ^ r.info.width) }
  | .wr ws, s =>
    { s with mem := applyWr s.mem ws,
             ms := { s.ms with
               poison := s.ms.poison.filter fun l => !coversLine ws l
               odd := s.ms.odd.filter fun e => !coversLine ws e.1
               loam := (wrLines ws).foldl (loamTouch s true) s.ms.loam } }
  | .rd runs, s => { s with ms := { s.ms with loam := (runLines runs).foldl (loamTouch s false) s.ms.loam } }
  | .mark l, s => { s with ms := { s.ms with poison := if s.ms.poison.contains l then s.ms.poison else l :: s.ms.poison } }
  | .flagAdd k inc, s =>
    { s with
      flags := mset 0 s.flags k (flagSum (mget 0 s.flags k) inc)
      flagOld := if mget 0 s.flagOld k = 0 then mset 0 s.flagOld k (mget 0 s.flags k + 1) else s.flagOld }
  | .vtag die id, s =>
    let t := tget s die id
    { s with tensors := mset 0#256 s.tensors (die * 8192 + id) (t.setVtag ((t.vtag + 1) % 2 ^ 16)) }
  | .poison die id p q, s => { s with tensors := mset 0#256 s.tensors (die * 8192 + id) ((tget s die id).setPoison p q) }
  | .otag die id t, s => { s with tensors := mset 0#256 s.tensors (die * 8192 + id) ((tget s die id).setOtag t) }
  | .clock n, s =>
    { s with cc := s.cc + n, sync := { s.sync with dt := (s.sync.dt + n) % 2 ^ 64 },
             flagOld := if n = 0 then s.flagOld else [] }
  | .free, s => { s with freeCtr := s.freeCtr + 1 }
  | .fab x, s => { s with fab := x }
  | .cp x, s => { s with cp := x }
  | .upd x, s => { s with upd := x }
  | .ms x, s => { s with ms := x }
  | .net x, s => { s with net := x }
  | .col x, s => { s with col := x }
  | .sync x, s => { s with sync := x }
  | .dig x, s => { s with dig := x }
  | .rst x, s => { s with rst := x }
  | .img x, s => { s with img := x }
  | .host x, s => { s with host := x }
  | .eth x, s => { s with eth := x }
  | .recd x, s => { s with recd := x }
  | .pow x, s => { s with pow := x }
  | .out x, s => { s with sent := s.sent ++ [x] }

/-! ## Effects -/

/-- An effect: nothing, one primitive update, one effect after another, or an effect that depends on the state. -/
inductive Eff where
  | skip
  | act (a : Act)
  | seq (p q : Eff)
  | get (f : State → Eff)

/-- The state an effect leaves. -/
def Eff.run : Eff → State → State
  | .skip, s => s
  | .act a, s => a.run s
  | .seq p q, s => q.run (p.run s)
  | .get f, s => (f s).run s

/-- The outcome of a meaning: the next state its effect leaves. -/
def done (e : Eff) (s : State) : Host.Outcome State Fault Refusal := .next (e.run s)

/-- Effects one after another. -/
def Eff.all : List Eff → Eff
  | [] => .skip
  | e :: t => .seq e (Eff.all t)

/-- An effect for each element, in order. -/
def Eff.each {α : Type} (l : List α) (f : α → Eff) : Eff := Eff.all (l.map f)

/-- An effect under a condition. -/
def Eff.when (b : Bool) (e : Eff) : Eff := if b then e else .skip

/-- An effect on the value of an option. -/
def Eff.opt {α : Type} (o : Option α) (f : α → Eff) : Eff :=
  match o with
  | none => .skip
  | some a => f a

def modFab (f : Fabric → Fabric) : Eff := .get fun s => .act (.fab (f s.fab))
def modCp (f : Cp → Cp) : Eff := .get fun s => .act (.cp (f s.cp))
def modUpd (f : Upd → Upd) : Eff := .get fun s => .act (.upd (f s.upd))
def modMs (f : MemSys → MemSys) : Eff := .get fun s => .act (.ms (f s.ms))
def modNet (f : Net → Net) : Eff := .get fun s => .act (.net (f s.net))
def modCol (f : Col → Col) : Eff := .get fun s => .act (.col (f s.col))
def modSync (f : Sync → Sync) : Eff := .get fun s => .act (.sync (f s.sync))
def modDig (f : Dig → Dig) : Eff := .get fun s => .act (.dig (f s.dig))
def modRst (f : Rst → Rst) : Eff := .get fun s => .act (.rst (f s.rst))
def modImg (f : Img → Img) : Eff := .get fun s => .act (.img (f s.img))
def modHost (f : HostIf → HostIf) : Eff := .get fun s => .act (.host (f s.host))
def modEth (f : Eth → Eth) : Eff := .get fun s => .act (.eth (f s.eth))
def modRecd (f : Recorder → Recorder) : Eff := .get fun s => .act (.recd (f s.recd))
def modPow (f : Pow → Pow) : Eff := .get fun s => .act (.pow (f s.pow))

/-! ## Register operations -/

def setR (r : RegName) (die idx v : Nat) : Eff := .act (.reg r die idx v)
def modR (r : RegName) (die idx : Nat) (f : Nat → Nat) : Eff := .get fun s => setR r die idx (f (rget s r die idx))
/-- Set field high:low. -/
def putR (r : RegName) (die idx hi lo v : Nat) : Eff := modR r die idx fun w => putBits w hi lo v
/-- Add to a counter field, which saturates at all ones (00 R14). -/
def incFld (r : RegName) (die idx hi lo n : Nat) : Eff :=
  modR r die idx fun w => putBits w hi lo (satAdd (bits w hi lo) n (2 ^ (hi + 1 - lo) - 1))
/-- Add to a 32-bit event counter. -/
def incR (r : RegName) (die idx n : Nat) : Eff := incFld r die idx 31 0 n
/-- Add to a 64-bit counter. -/
def incR64 (r : RegName) (die idx n : Nat) : Eff := incFld r die idx 63 0 n

/-! ## Interrupts and fault bits -/

/-- Raise an interrupt message for a vector (01 R29, 13 R496); MSIX_SEND turns it into a write. -/
def raiseVec (v : Nat) : Eff := modHost fun h => { h with raised := h.raised ||| 2 ^ v }

/-- The enable register and the MSI-X vector of a fault register (13 R496). -/
def faultInfo (r : RegName) : RegName × Nat :=
  match r with
  | .CMD_FAULT => (.CMD_FAULT_IRQ_EN, 2)
  | .MME_FAULT => (.MME_FAULT_IRQ_EN, 3)
  | .VEC_FAULT => (.VEC_FAULT_IRQ_EN, 3)
  | .RED_FAULT => (.RED_FAULT_IRQ_EN, 3)
  | .ROW_FAULT => (.ROW_FAULT_IRQ_EN, 3)
  | .UPD_FAULT => (.UPD_FAULT_IRQ_EN, 4)
  | .MEM_FAULT => (.MEM_FAULT_IRQ_EN, 5)
  | .NET_FAULT => (.NET_FAULT_IRQ_EN, 6)
  | .COL_FAULT => (.COL_FAULT_IRQ_EN, 7)
  | .SYNC_FAULT => (.SYNC_FAULT_IRQ_EN, 8)
  | .DIG_FAULT => (.DIG_FAULT_IRQ_EN, 9)
  | .HST_FAULT => (.HST_FAULT_IRQ_EN, 12)
  | .ETH_FAULT => (.ETH_FAULT_IRQ_EN, 12)
  | .PWR_FAULT => (.PWR_FAULT_IRQ_EN, 13)
  | .CLK_FAULT => (.CLK_FAULT_IRQ_EN, 13)
  | .THM_FAULT => (.THM_FAULT_IRQ_EN, 13)
  | _ => (.REC_FAULT_IRQ_EN, 0)

/-- Set a bit of a fault register; an interrupt message leaves when the bit goes from 0 to 1 while enabled. -/
def setFault (r : RegName) (die b : Nat) : Eff :=
  .get fun s =>
    let (en, v) := faultInfo r
    .seq (Eff.when (!rbit s r die 0 b && rbit s en die 0 b) (raiseVec v))
      (modR r die 0 fun w => w ||| 2 ^ b)

/-- Set a fault bit that two dies share (07 R294, 10 R414): one event, one message, if either die enables it. -/
def setFaultBoth (r : RegName) (d1 d2 b : Nat) : Eff :=
  .get fun s =>
    let (en, v) := faultInfo r
    Eff.all [
      Eff.when (!rbit s r d1 0 b && (rbit s en d1 0 b || rbit s en d2 0 b)) (raiseVec v),
      modR r d1 0 fun w => w ||| 2 ^ b, modR r d2 0 fun w => w ||| 2 ^ b]

/-! ## Records (13 R511, R514, R553) -/

/-- An item of a payload: a number of a width in bytes, or a list of entries already laid out. -/
inductive Item where
  | num (w v : Nat)
  | list (es : List (List Byte))

/-- An item that does not apply reads all ones. -/
def naItem (w : Nat) : Item := .num w (2 ^ (8 * w) - 1)
def optItem (w : Nat) (o : Option Nat) : Item :=
  match o with
  | none => naItem w
  | some v => .num w v

def padTo (n : Nat) (bs : List Byte) : List Byte := bs ++ List.replicate (roundUp bs.length n - bs.length) 0#8

/-- Lay items out: each at the next multiple of its width. -/
def layItems (items : List Item) : List Byte :=
  items.foldl (fun bs it =>
    match it with
    | .num w v => padTo w bs ++ leBytes w v
    | .list es => es.foldl (fun b e => padTo 8 b ++ e) (padTo 4 bs ++ leBytes 4 es.length)) []

/-- Milliseconds since the AON power-on reset; 1,750 cc are 1 µs. -/
def nowMs (s : State) : Nat := (s.cc - s.pow.aonAt) / 1750000
def nowUs (s : State) : Nat := (s.cc - s.pow.aonAt) / 1750

/-- Protected record types (12 R471). -/
def protectedType (t : Nat) : Bool :=
  (0x0100 ≤ t && t ≤ 0x01FF) || t = 0x0300 || t = 0x0301 || t = 0x0304 || t = 0x0443 || (0x0800 ≤ t && t ≤ 0x08FF)

/-- A record enters its die's path of 64, 8 kept for protected types, or is dropped and counted (R514). -/
def pathRecord (x : Rec) : Eff :=
  .get fun s =>
    let p := mget [] s.recd.paths x.src
    let pr := protectedType x.typ
    if p.length < (if pr then 64 else 56) then
      modRecd fun r => { r with paths := mset [] r.paths x.src (p ++ [x]) }
    else Eff.all [
      incR (if pr then .REC_PROT_DROP_COUNT else .REC_DROP_COUNT) 8 0 1,
      setFault .REC_FAULT 8 (if pr then 2 else 1),
      modRecd fun r => { r with drops := mset 0 r.drops x.src (mget 0 r.drops x.src + 1) }]

/-- The effective STEP shown in a record: all ones before the first release after a load (R511). -/
def recStep (s : State) : Nat := if s.cp.released = 0 then 2 ^ 64 - 1 else s.upd.lastStep.getD 0

def recDt (s : State) : Nat := if alive s 4 then s.sync.dt else 0

/-- Pass a record of a type through the image's filter (R514, 12 R471): one inside the interval of its type is
suppressed and counted. -/
def throughFilter (typ : Nat) (e : Eff) : Eff :=
  .get fun s =>
    match s.img.content.filters.find? (·.1 = typ) with
    | some (_, ival) =>
      if !protectedType typ && mget 0 s.recd.filterAt typ != 0 && nowMs s + 1 < mget 0 s.recd.filterAt typ + ival then
        incR .REC_FILTERED_COUNT 8 0 1
      else .seq (modRecd fun r => { r with filterAt := mset 0 r.filterAt typ (nowMs s + 1) }) e
    | none => e

/-- Write one record with a payload already laid out, unless the image's filter thins it. -/
def emitBytes (typ src : Nat) (payload : List Byte) : Eff :=
  throughFilter typ (.get fun s => pathRecord ⟨typ, src, recDt s, nowMs s, recStep s, payload⟩)

/-- Write one record of a type from a source. -/
def emit (typ src : Nat) (items : List Item) : Eff := emitBytes typ src (layItems items)

/-- Entries that fit after a prefix of `used` bytes, and the rest (R553). -/
def fitEntries (room : Nat) : List (List Byte) → List (List Byte) × List (List Byte)
  | [] => ([], [])
  | e :: t =>
    let n := roundUp e.length 8
    if n ≤ room then
      let (a, b) := fitEntries (room - n) t
      (e :: a, b)
    else ([], e :: t)

def emitListGo (typ src : Nat) (pre : List Item) : Nat → Nat → List (List Byte) → List Eff
  | 0, _, _ => []
  | fuel + 1, first, es =>
    let head := if first = 0 then pre else pre ++ [.num 4 first]
    let (a, b) := fitEntries (4064 - roundUp ((layItems head).length + 8) 8) es
    emit typ src (head ++ [.list a]) ::
      (if b.isEmpty then [] else emitListGo typ src pre fuel (first + a.length) b)

/-- Write a record with a list, continued in further records when it does not fit. -/
def emitList (typ src : Nat) (pre : List Item) (es : List (List Byte)) : Eff :=
  Eff.all (emitListGo typ src pre (es.length + 1) 0 es)

/-- Do something for the first event of a kind in each second. -/
def oncePerSecond (kind : Nat) (e : Eff) : Eff :=
  .get fun s =>
    let sec := nowMs s / 1000 + 1
    Eff.when (mget 0 s.recd.seconds kind != sec)
      (.seq (modRecd fun r => { r with seconds := mset 0 r.seconds kind sec }) e)

/-! ## Free values (assumption 6) -/

/-- Draw a fresh free value of `w` bits. -/
def drawFree (w : Nat) (f : Nat → Eff) : Eff :=
  .get fun s => .seq (.act .free) (f (Config.freeValue s.freeCtr % 2 ^ w))

/-! ## Memory -/

def writeMem (ws : List Wr) : Eff := .act (.wr ws)
/-- Demand reads of runs of bytes (08 R312). -/
def demand (runs : List (Nat × Nat)) : Eff := .act (.rd runs)
/-- Bytes as writes, one for each byte. -/
def byteWrs (a : Nat) (bs : List Byte) : List Wr := bs.zipIdx.map fun (b, i) => ⟨a + i, 0, 8, b.toNat⟩
def writeBytes (a : Nat) (bs : List Byte) : Eff := writeMem (byteWrs a bs)

/-- Whether [a, a + n) is homed on M-die m. -/
def homedOn (s : State) (m a n : Nat) : Bool :=
  if m = 0 then decide (a + n ≤ homeSize s 0) else decide (homeSize s 0 ≤ a) && decide (a + n ≤ memTop s)
def inMemory (s : State) (a b : Nat) : Bool := decide (a ≤ b) && decide (b ≤ memTop s)
def inAnyScratch (s : State) (a b : Nat) : Bool := (List.range 2).any fun k => inScratch k (scratchWays s k) a b
/-- Whether [a, b) lies in memory, a tile store, a stat store or a scratch window (01 R21). -/
def inStores (s : State) (a b : Nat) : Bool :=
  inMemory s a b || (List.range 4).any (fun n => inTile n a b || inStat n a b) || inAnyScratch s a b

/-- Whether a read of a line finds an uncorrectable error: its poison marker is set (08 R300), or the bytes that a raw traffic
test stored there do not decode. -/
def badLine (s : State) (l : Nat) : Bool := s.ms.poison.contains l || (decodeLine (mget [] s.ms.odd l)).isNone
/-- The lines of [a, a + n) that a read finds uncorrectable. -/
def badLines (s : State) (a n : Nat) : List Nat :=
  (s.ms.poison ++ s.ms.odd.map (·.1)).eraseDups.filter fun l => badLine s l && decide (256 * l < a + n) && decide (a < 256 * l + 256)
/-- Whether there are any. -/
def marked (s : State) (a n : Nat) : Bool := !(badLines s a n).isEmpty

end Sys2Proof.Machine
end

