-- ==== Sys2Proof/Machine/Packet.lean ====
section
/-!
DEFINITION. Packets of the torus (09 R342-R344), their injection, the group table in force (10 R386, R388), and
the merging passes of the verdict, READY and RELEASE (10 R406, R407; 11 R428, R436).
-/
namespace Sys2Proof.Machine

/-! ## Headers (R343, R344) -/

def Packet.head (p : Packet) : Nat := p.flits.headD 0
def Packet.h (p : Packet) (hi lo : Nat) : Nat := bits p.head hi lo
def Packet.setH (p : Packet) (hi lo v : Nat) : Packet := { p with flits := putBits p.head hi lo v :: p.flits.drop 1 }
def Packet.dst (p : Packet) : Nat := p.h 15 0
def Packet.src (p : Packet) : Nat := p.h 31 16
def Packet.len (p : Packet) : Nat := p.h 35 32
def Packet.vcF (p : Packet) : Nat := p.h 37 36
/-- 0 Q, 1 P, 2 C, 3 M. -/
def Packet.cls (p : Packet) : Nat := p.h 39 38
def Packet.mcast (p : Packet) : Bool := p.head.testBit 40
def Packet.ordered (p : Packet) : Bool := p.head.testBit 41
def Packet.dl (p : Packet) : Bool := p.head.testBit 42
def Packet.retPort (p : Packet) : Nat := p.h 45 43
def Packet.ret (p : Packet) : Bool := p.head.testBit 46
def Packet.det (p : Packet) : Bool := p.head.testBit 47
def Packet.part (p : Packet) : Nat := p.h 55 48
def Packet.hops (p : Packet) : Nat := p.h 60 56
def Packet.epoch (p : Packet) : Nat := p.h 62 62
def Packet.poison (p : Packet) : Bool := p.head.testBit 63
def Packet.body (p : Packet) : Nat := p.h 127 64
/-- Number of flits, those still to come included. -/
def Packet.n (p : Packet) : Nat := p.len + 1
/-- The packet as it came in. -/
def Packet.restored (p : Packet) : Packet := { p with flits := p.head0 :: p.flits.drop 1, waiting := 0 }

/-- All bytes of a packet, and its payload: everything after byte 15. -/
def Packet.bytes (p : Packet) : List Byte := p.flits.flatMap fun f => leBytes 256 f
def Packet.payload (p : Packet) : List Byte := p.bytes.drop 16

/-- C body (R344). -/
def Packet.stream (p : Packet) : Nat := bits p.body 63 48
def Packet.cseq (p : Packet) : Nat := bits p.body 47 16
def Packet.cvtag (p : Packet) : Nat := bits p.body 15 0
/-- Q and P bodies. -/
def Packet.op (p : Packet) : Nat := bits p.body 63 60
def Packet.nlines (p : Packet) : Nat := bits p.body 59 56
def Packet.tag (p : Packet) : Nat := bits p.body 55 44
def Packet.status (p : Packet) : Nat := bits p.body 43 40
def Packet.line (p : Packet) : Nat := bits p.body 39 0
/-- M body. -/
def Packet.mtype (p : Packet) : Nat := bits p.body 63 56
def Packet.words (p : Packet) : Nat := bits p.body 55 48

def bodyC (stream seq vtag : Nat) : Nat := stream * 2 ^ 48 + seq * 2 ^ 16 + vtag
def bodyP (op nlines tag status : Nat) : Nat := op * 2 ^ 60 + nlines * 2 ^ 56 + tag * 2 ^ 44 + status * 2 ^ 40
def bodyM (mtype words rest : Nat) : Nat := mtype * 2 ^ 56 + words * 2 ^ 48 + rest

/-- Cut bytes into flits of 256 bytes. -/
def flitsOf : Nat → List Byte → List Nat
  | 0, _ => []
  | _, [] => []
  | f + 1, bs => leNat (bs.take 256) :: flitsOf f (bs.drop 256)

/-- A packet of this module to a node: class, partition, poison, epoch and ORDERED as given, payload after the
header. It enters by input 6 on VC 0. -/
def mkPacket (src dst cls part epoch : Nat) (ordered poison : Bool) (body : Nat) (payload : List Byte) : Packet :=
  let n := ceilDiv (16 + payload.length) 256
  let hd := dst + src * 2 ^ 16 + (n - 1) * 2 ^ 32 + cls * 2 ^ 38 + b2n ordered * 2 ^ 41 + part * 2 ^ 48 +
    epoch * 2 ^ 62 + b2n poison * 2 ^ 63 + body * 2 ^ 64
  { flits := flitsOf n (leBytes 16 hd ++ payload ++ List.replicate (256 * n - 16 - payload.length) 0#8), inp := 6 }

def nodeId (s : State) : Nat := rfld s .NET_NODE 6 0 15 0
def nodePart (s : State) : Nat := rfld s .NET_NODE 6 0 31 24
/-- Epoch used for injection (R370). -/
def rtEpoch (s : State) : Nat := rfld s .NET_RT_CTRL 6 0 30 30
def portState (s : State) (p : Nat) : Nat := rfld s .NET_PORT_STATUS 6 p 31 29
def portUp (s : State) (p : Nat) : Bool := portState s p = 3
def peerNode (s : State) (p : Nat) : Nat := rfld s .NET_PORT_STATUS 6 p 15 0

/-- Key of a router input buffer. -/
def bufKey (inp cls vc : Nat) : Nat := (inp * 4 + cls) * 4 + vc

/-- Put a packet of this module before its router (input 6). -/
def inject (p : Packet) : Eff :=
  modNet fun n => { n with inbuf := mset [] n.inbuf (bufKey 6 p.cls 0) (mget [] n.inbuf (bufKey 6 p.cls 0) ++ [p]) }

/-- Send a packet of a class to a node. ORDERED is set for C packets, which never detour, and with ORDER_ALL. -/
def sendPacket (dst cls part : Nat) (poison : Bool) (body : Nat) (payload : List Byte) : Eff :=
  .get fun s =>
    inject (mkPacket (nodeId s) dst cls part (rtEpoch s) (rbit s .NET_CTRL 6 0 1 || cls = 2) poison body payload)

/-! ## Groups (10 R386, R388) -/

/-- Bank of the group table in force. -/
def groupBank (s : State) : Nat := rfld s .COL_GROUP_CTRL 6 0 30 30
def groupOf (s : State) (g : Nat) : Group := ⟨rget s .COL_GROUP 6 (64 * groupBank s + g)⟩
def reproOn (s : State) : Bool := rbit s .SYS_MODE 6 0 31
def jobHalt (s : State) : Bool := rbit s .COL_STATUS 6 0 31

/-- Send a C packet of a group over its link in direction `dir` (0 plus, 1 minus), if the member uses it. The
node at the other end stands in NET_PORT_STATUS. -/
def sendC (g : Group) (dir : Nat) (poison : Bool) (stream seq vtag : Nat) (payload : List Byte) : Eff :=
  Eff.when (if dir = 0 then g.usesP else g.usesM)
    (.get fun s => .seq
      (incR64 .COL_TX_BYTES (6 + dir) 0 payload.length)
      (sendPacket (peerNode s (g.port dir)) 2 (nodePart s) poison (bodyC stream seq vtag) payload))

/-! ## Merging passes (R406, R407, R428, R436) -/

/-- The passes that travel through the stages of COL_VERDICT_CFG. -/
inductive PassKind where
  | verdict | ready | release
  deriving DecidableEq, Repr

def passGet (s : State) : PassKind → Merge
  | .verdict => s.col.verdict
  | .ready => s.sync.ready
  | .release => s.sync.release
def passPut (k : PassKind) (m : Merge) : Eff :=
  match k with
  | .verdict => modCol fun c => { c with verdict := m }
  | .ready => modSync fun c => { c with ready := m }
  | .release => modSync fun c => { c with release := m }

/-- Group of stage i (0 X, 1 Y, 2 Z). -/
def stageGroup (s : State) (i : Nat) : Group := groupOf s (rfld s .COL_VERDICT_CFG 6 0 (6 * i + 11) (6 * i + 6))
def stageOn (s : State) (i : Nat) : Bool := rbit s .COL_VERDICT_CFG 6 0 i
/-- The first enabled stage from i on; 3 when none is left. -/
def nextStage (s : State) (i : Nat) : Nat := ((rangeFrom i 3).find? fun j => stageOn s j).getD 3

/-- Bytes of a packet of a pass (assumption 13): stage, kind (0 verdict, 1 READY, 2 RELEASE), value, OR and AND
of REPRO_REQ, SS, hops travelled, zeros, mask. The SEQ of its C header is the number of the pass. -/
def passBytes (k : PassKind) (stage hops : Nat) (m : Merge) (mask : Nat) : List Byte :=
  let kind := match k with
    | .verdict => 0
    | .ready => 1
    | .release => 2
  leBytes 1 stage ++ leBytes 1 kind ++ leBytes 8 m.value ++ leBytes 1 m.orv ++ leBytes 1 m.andv ++ leBytes 1 m.ss ++
    leBytes 1 hops ++ leBytes 2 0 ++ leBytes 8 mask
def passStream : PassKind → Nat
  | .verdict => 0xFFFF
  | _ => 0xFFFE

/-- Merge what a packet carries: the maximum of the values, OR and AND, OR of SS and mask. -/
def Merge.take (m : Merge) (v o a ss mask : Nat) : Merge :=
  { m with value := max m.value v, orv := m.orv ||| o, andv := m.andv &&& a, ss := m.ss ||| ss, mask := m.mask ||| mask }

/-- Whether the present stage is complete: its mask holds all N positions of a VALID group. -/
def stageFull (g : Group) (m : Merge) : Bool := g.valid && 0 < g.n && m.mask % 2 ^ g.n = 2 ^ g.n - 1

/-- Enter stage i: the mask starts with the module's own position, its packets leave in both directions, and
packets that came early are merged. After the last stage the pass is done. `fuel` bounds the stages left. -/
def enterStage (k : PassKind) : Nat → Nat → Eff
  | 0, _ => .get fun s => passPut k { passGet s k with stage := 3, done := true }
  | fuel + 1, i => .get fun s =>
    let j := nextStage s i
    let m := passGet s k
    if j ≥ 3 then passPut k { m with stage := 3, done := true }
    else
      let g := stageGroup s j
      let key := 4 * m.no + j
      let mine := m.early.filter fun (st, _) => st = key
      let m1 := { m with stage := j, mask := 2 ^ g.pos, early := m.early.filter fun (st, _) => st != key }
      let m2 := mine.foldl (fun (a : Merge) (_, v, o, an, ss, mask) => a.take v o an ss mask) m1
      Eff.all [passPut k m2,
        Eff.when g.valid (Eff.all ([0, 1].map fun dir =>
          sendC g dir false (passStream k) (m.no % 2 ^ 32) 0 (passBytes k j 1 m1 (2 ^ g.pos)))),
        if stageFull g m2 then enterStage k fuel (j + 1) else .skip]

/-- Start pass number `no` with the module's own values. -/
def startPass (k : PassKind) (no v o a ss : Nat) : Eff :=
  .get fun s => .seq (passPut k { active := true, no := no, value := v, orv := o, andv := a, ss := ss,
                                  early := (passGet s k).early }) (enterStage k 4 0)

/-- A packet of a pass arrives from the group of its stage: it is forwarded until it has travelled N - 1 hops,
and merged; a stage with a full mask completes. A second copy of what a finished stage has merged is only
forwarded. -/
def passArrive (k : PassKind) (p : Packet) : Eff :=
  .get fun s =>
    let pl := p.payload
    let num (o w : Nat) : Nat := leNat ((pl.drop o).take w)
    let st := num 0 1
    let g := stageGroup s st
    let hops := num 13 1
    -- a packet that came in by a minus port travels in the plus direction
    let dir := if p.inp % 2 = 1 then 0 else 1
    let m := passGet s k
    let fwd := Eff.when (hops + 1 < g.n)
      (sendC g dir false (passStream k) p.cseq 0 (pl.take 13 ++ leBytes 1 (hops + 1) ++ (pl.drop 14).take 10))
    let (v, o, a, ss, mask) := (num 2 8, num 10 1, num 11 1, num 12 1, num 16 8)
    if m.active && p.cseq = m.no && m.stage = st then
      let m' := m.take v o a ss mask
      Eff.all [fwd, passPut k m', if stageFull g m' then enterStage k 4 (st + 1) else .skip]
    else if m.active && (p.cseq < m.no || (p.cseq = m.no && st < m.stage)) then fwd
    else .seq fwd (passPut k { m with early := m.early ++ [(4 * p.cseq + st, v, o, a, ss, mask)] })

end Sys2Proof.Machine
end

