-- ==== Sys2Proof/Machine/Bulk.lean ====
section
/-!
DEFINITION. The bulk transport over Ethernet, sending side (13 R504-R507): sessions, headers, DATA packets, XDR
groups.
-/
namespace Sys2Proof.Machine

/-! ## Sessions (R504, ETH_SESSION) -/

def sesF (s : State) (sid hi lo : Nat) : Nat := rfld s .ETH_SESSION 6 sid hi lo
def sesState (s : State) (sid : Nat) : Nat := sesF s sid 125 124
def sesOpen (s : State) (sid : Nat) : Bool := sesState s sid = 2
def sesKind (s : State) (sid : Nat) : Nat := sesF s sid 128 126
def sesLive (s : State) (sid : Nat) : Session := mget {} s.eth.sessions sid
def modSes (sid : Nat) (f : Session → Session) : Eff :=
  modEth fun e => { e with sessions := mset {} e.sessions sid (f (mget {} e.sessions sid)) }
def ethUp (s : State) (p : Nat) : Bool := rbit s .ETH_PORT_STATUS (6 + p) 0 31

/-- The port a packet leaves by: PORTS, packet p on E(p mod 2) when both are named, the other when one is down
(R507); none when every port of the session is down. -/
def sesPort (s : State) (sid psn : Nat) : Option Nat :=
  let named := setBits (sesF s sid 130 129) 2
  let want := named.getD (psn % max 1 named.length) 0
  if ethUp s want && named.contains want then some want else named.find? fun p => ethUp s p

/-- A transport packet (R506). -/
def transportBytes (typ flags kind dst src psn off obj : Nat) (payload : List Byte) : List Byte :=
  let hd := leBytes 1 1 ++ leBytes 1 typ ++ leBytes 1 flags ++ leBytes 1 kind ++ leBytes 2 dst ++ leBytes 2 src ++
    leBytes 8 psn ++ leBytes 8 off ++ leBytes 2 obj ++ leBytes 2 payload.length
  let crc := crc32 (hd ++ leBytes 4 0 ++ payload)
  hd ++ leBytes 4 crc ++ payload

/-- Send a packet of a session; nothing leaves while every port of it is down. -/
def sendTransport (sid typ flags psn off obj : Nat) (payload : List Byte) : Eff :=
  .get fun s =>
    match sesPort s sid psn with
    | none => .skip
    | some p =>
      let bs := transportBytes typ flags (if typ ≤ 2 then sesKind s sid else 0) (sesF s sid 159 144) sid psn off obj payload
      Eff.all [.act (.out (.eth p sid bs)), incR64 .ETH_TX_BYTES (6 + p) 0 bs.length,
        modSes sid fun x => { x with sent := nowUs s }]

/-- Whether a session may send another DATA packet (R507). -/
def sesRoom (s : State) (sid : Nat) : Bool := decide ((sesLive s sid).unacked.length < 4096) && (sesLive s sid).backlog.isEmpty

/-- One DATA packet leaves under the next PSN, held until it is acknowledged. -/
def sendNow (sid obj off : Nat) (last : Bool) (data : List Byte) : Eff :=
  .get fun s =>
    let psn := (sesLive s sid).psn
    .seq (modSes sid fun x =>
        { x with psn := psn + 1, unacked := x.unacked ++ [⟨psn, obj, off, last, data, nowUs s, 0, 0⟩] })
      (sendTransport sid 3 (b2n last) psn off obj data)

/-- Send one DATA packet, which waits while 4,096 are unacknowledged (R507). -/
def sendData (sid obj off : Nat) (last : Bool) (data : List Byte) : Eff :=
  .get fun s => if sesRoom s sid then sendNow sid obj off last data
    else modSes sid fun x => { x with backlog := x.backlog ++ [(obj, off, last, data)] }
/-- The DATA packets that waited leave, as far as there is room. -/
def sendWaiting (sid : Nat) : List (Nat × Nat × Bool × List Byte) → Eff
  | [] => .skip
  | (obj, off, last, data) :: rest => .get fun s =>
    if (sesLive s sid).unacked.length < 4096 then
      Eff.all [modSes sid fun x => { x with backlog := rest }, sendNow sid obj off last data, sendWaiting sid rest]
    else .skip

/-- Send bytes of an object from an offset in packets of up to 8,192 bytes, the last marked LAST. -/
def sendObjGo (sid obj : Nat) (last : Bool) : Nat → Nat → List Byte → Eff
  | 0, _, _ => .skip
  | f + 1, off, bs =>
    .seq (sendData sid obj off (last && decide (bs.length ≤ 8192)) (bs.take 8192))
      (if bs.length ≤ 8192 then .skip else sendObjGo sid obj last f (off + 8192) (bs.drop 8192))
def sendObj (sid obj off : Nat) (last : Bool) (bs : List Byte) : Eff :=
  sendObjGo sid obj last (bs.length / 8192 + 1) off bs

/-! ## XDR groups (R504) -/

/-- Domains of the XDR group at session s, and this module's index in it; none when it lacks exactly one
XDR_SELF entry. -/
def xdrGroup (s : State) (sid : Nat) : Option (Nat × Nat) :=
  let n := sesF s sid 167 161
  match (List.range n).filter fun i => sid + i < 256 && sesKind s (sid + i) = 5 with
  | [i] => some (n, i)
  | _ => none
/-- Whether a COL.XDR may name the group with its DOMAINS. -/
def xdrLegal (s : State) (sid domains : Nat) : Bool :=
  match xdrGroup s sid with
  | some (n, _) => n = domains && decide (sid + n ≤ 256)
  | none => false
/-- The counterparts' indices. -/
def xdrPeers (s : State) (sid : Nat) : List Nat :=
  match xdrGroup s sid with
  | some (n, i) => (List.range n).filter fun j => j != i
  | none => []

/-! ## The cross-domain verdict (10 R406, R407) -/

def xdOn (s : State) : Bool := rbit s .COL_VERDICT_CFG 6 0 31
def xdSession (s : State) : Nat := rfld s .COL_VERDICT_SESSION 6 0 15 0
/-- Object number of the cross-domain verdict: 8 bytes of the step and one of the value (assumption 14). -/
def xdObj : Nat := 0xFFFF

/-- When the verdict pass has just ended and XD is set, the value goes to every counterpart. -/
def xdSend : Eff :=
  .get fun s =>
    Eff.when (s.col.verdict.active && s.col.verdict.done && xdOn s && !s.col.xdSent)
      (.seq (modCol fun c => { c with xdSent := true })
        (Eff.each (xdrPeers s (xdSession s)) fun j =>
          sendObj (xdSession s + j) xdObj 0 true (leBytes 8 s.col.verdictStep ++ leBytes 1 s.col.verdict.value)))

/-- The job verdict, once the pass and the cross-domain exchange are done. -/
def jobVerdict (s : State) : Option Nat :=
  let v := s.col.verdict
  if !(v.active && v.done) then none
  else if jobHalt s then some 2
  else if !xdOn s then some v.value
  else if (xdrPeers s (xdSession s)).all fun j => s.col.xdValues.any fun e => e.1 = 64 * s.col.verdictStep + j then
    some ((s.col.xdValues.filter fun e => e.1 / 64 = s.col.verdictStep).foldl (fun a e => max a e.2) v.value)
  else none

end Sys2Proof.Machine
end

