-- ==== Sys2Proof/Machine/Fabric.lean ====
section
/-!
DEFINITION. The die-to-die network (01 R23-R42): message classes, routes between dies, grants at a hop, the beats of wide ports
and the frames of narrow links.
-/
namespace Sys2Proof.Config

/-- Whether the CRC-32 of a 256-byte frame of a narrow link is right: the spec gives neither its place in the frame nor what
it covers (01 R27; assumption 44). -/
opaque frameOk : Nat → Bool

/-- What a narrow link at 16 lanes adds to the bound of a command whose traffic crosses it: the spec says that bounds are
computed for the trained width and gives no term for it (01 R28; assumption 44). By opcode and by the bound at 32 lanes. -/
opaque narrowExtra : Nat → Nat → Nat

end Sys2Proof.Config

namespace Sys2Proof.Machine

/-! ## Message classes (R29, R30, R35) -/

/-- Classes of messages; idle stands for a beat that none takes. -/
def clIrq : Nat := 0
def clCoh : Nat := 1
def clMem : Nat := 2
def clTen : Nat := 3
def clDbg : Nat := 4
def clIdle : Nat := 5

/-- The class of an access by its target (R30): memory and the stores lie below the control space. -/
def classOf (a : Nat) : Nat := if a < 0x700000000000 then clMem else clCoh
/-- The class of a torus packet inside the module (R35). Its header keeps its torus class, to which it returns when it
leaves. -/
def Packet.inner (x : Packet) : Nat :=
  if x.cls ≤ 1 then clMem else if x.cls = 2 then clTen
  else if x.mtype = 1 && classOf (bits x.body 47 0) = clCoh then clCoh else clDbg

/-! ## Links and routes (R26, R27, R36, R37) -/

/-- The dies each link joins: the 16 wide ports in the order of R26's table, then the narrow links in that of R27. -/
def linkEnds : List (Nat × Nat) :=
  [(4, 0), (4, 0), (4, 2), (4, 2), (5, 1), (5, 1), (5, 3), (5, 3), (0, 1), (2, 3), (0, 2), (1, 3), (6, 0), (6, 1), (7, 2), (7, 3),
    (0, 3), (1, 2), (6, 7)]
/-- Number of a link, and the key of its direction. -/
def linkNo (l : D2D) : Nat := if l.narrow then 16 + l.link else l.link
def D2D.key (l : D2D) : Nat := 2 * linkNo l + l.dir % 2
def linkDies (n : Nat) : List Nat :=
  match linkEnds[n]? with
  | some (a, b) => [a, b]
  | none => []
/-- Whether a link joins two dies. -/
def joins (a b n : Nat) : Bool := linkDies n = [a, b] || linkDies n = [b, a]

/-- The dies that R36's table names between two dies, the lower one first: for MEM and TEN, and for every class where no
narrow link joins the two. -/
def viaTable : List (Nat × Nat × List Nat) :=
  [(0, 3, [1]), (1, 2, [0]), (0, 5, [1]), (2, 5, [3]), (1, 4, [0]), (3, 4, [2]), (0, 7, [2]), (1, 7, [3]), (2, 6, [0]), (3, 6, [1]),
    (4, 6, [0]), (4, 7, [2]), (5, 6, [1]), (5, 7, [3]), (4, 5, [0, 1])]
/-- The dies of a route between two dies, both ends with it. Between L0 and L1, TEN and torus transit take the path named
(R37), other MEM the narrow link. -/
def route (cls : Nat) (transit : Bool) (path a b : Nat) : List Nat :=
  let lo := min a b; let hi := max a b
  let between :=
    if lo = 6 && hi = 7 then (if !(transit || cls = clTen) then [] else if path = 1 then [0, 2] else if path = 2 then [1, 3] else [])
    else if (cls = clMem || cls = clTen) || !((rangeFrom 16 19).any (joins lo hi)) then
      ((viaTable.find? fun e => e.1 = lo && e.2.1 = hi).map (·.2.2)).getD []
    else []
  if a = b then [a]
  else if a < b then a :: between ++ [b] else a :: between.reverse ++ [b]
/-- Pairs of dies that a message passes from one to the next. -/
def hopPairs (r : List Nat) : List (Nat × Nat) := r.zip (r.drop 1)
/-- The direction of a link that a hop takes: of two ports between the same dies the first (DESIGN CHOICE, assumption 44). -/
def hopKey (h : Nat × Nat) : Nat :=
  let n := linkEnds.findIdx fun e => (e.1 = h.1 && e.2 = h.2) || (e.1 = h.2 && e.2 = h.1)
  2 * n + (if (linkDies n).head? = some h.1 then 0 else 1)
def hopsOf (r : List Nat) : List Nat := (hopPairs r).map hopKey
/-- Whether messages on a route may use a link. -/
def routeUses (r : List Nat) (n : Nat) : Bool := (hopPairs r).any fun h => joins h.1 h.2 n
/-- Whether a link lies between two dies for some class and path. -/
def linkBetween (a b n : Nat) : Bool :=
  [clCoh, clMem, clTen].any fun c => (List.range 3).any fun p => routeUses (route c false p a b) n

/-- Path of TEN and transit traffic to a node (R37); through a C-die in reset it is path 0 (09 R377). -/
def pathFor (s : State) (node : Nat) : Nat :=
  let p := s.img.content.paths.getD (node % 16) 0
  let up (d : Nat) : Bool := alive s (18 + d)
  if (p = 1 && up 0 && up 2) || (p = 2 && up 1 && up 3) then p else 0

/-! ## Grants at a hop (R33) -/

def linkDir (s : State) (k : Nat) : LinkDir := mget {} s.fab.links k
def modLink (k : Nat) (f : LinkDir → LinkDir) : Eff :=
  modFab fun x => { x with links := mset {} x.links k (f (mget {} x.links k)) }

/-- The class that the next beat goes to among those that wait, by weights of MEM and TEN: IRQ, then COH, each in at most 16 of
256 beats; MEM and TEN in turn; DBG last, but for one beat in 64. -/
def LinkDir.grantTo (h : LinkDir) (wm : Nat) (waits : List Nat) : Nat :=
  let in_ (n c : Nat) : Nat := ((h.grants.take n).filter (· = c)).length
  let has (c : Nat) : Bool := waits.contains c
  if has clDbg && 63 ≤ h.grants.length && in_ 63 clDbg = 0 then clDbg
  else if has clIrq && in_ 255 clIrq < 16 then clIrq
  else if has clCoh && in_ 255 clCoh < 16 then clCoh
  else if has clMem && (!has clTen || h.turn < wm) then clMem
  else if has clTen then clTen
  else if has clMem then clMem
  else if has clDbg then clDbg
  else clIdle
/-- A hop after a beat for a class; MEM and TEN take turns while both wait. -/
def LinkDir.granted (h : LinkDir) (wm wt : Nat) (waits : List Nat) (c : Nat) : LinkDir :=
  { h with grants := (c :: h.grants).take 255,
           turn := if waits.contains clMem && waits.contains clTen && (c = clMem || c = clTen) then (h.turn + 1) % max 1 (wm + wt)
                   else h.turn }

/-- Beats pass until a message of a class has `need` of them; `coh` beats of signals wait at the hop, and those granted
meanwhile are kept for them. -/
def hopGo (wm wt cls : Nat) : Nat → Nat → Nat → LinkDir → LinkDir
  | 0, _, _, h => h
  | f + 1, need, coh, h =>
    if need = 0 then h
    else
      let waits := cls :: if 0 < coh then [clCoh] else []
      let c := h.grantTo wm waits
      let h' := h.granted wm wt waits c
      if c = cls then hopGo wm wt cls f (need - 1) coh h'
      else if c = clCoh then hopGo wm wt cls f need (coh - 1) { h' with ahead := h'.ahead + 1 }
      else hopGo wm wt cls f need coh h'

/-- Signals in transit between dies wait for the hops of their route, as COH messages of one beat (06 R211). -/
def waitingCoh (s : State) (k : Nat) : Nat :=
  (s.cp.signals.filter fun g => (hopsOf (route clCoh false 0 g.src g.die)).contains k).length

/-- A message of a class passes a hop, in beats of 120 bytes (R24), or in frames of 240 (R27). A signal takes a beat granted
ahead to it. -/
def passHop (cls bytes k : Nat) : Eff :=
  .get fun s =>
    let h := linkDir s k
    let need := max 1 (ceilDiv bytes (if k < 32 then 120 else 240))
    let coh := if cls ≤ clCoh then 0 else waitingCoh s k - h.ahead
    if cls = clCoh && 0 < h.ahead then modLink k fun x => { x with ahead := x.ahead - 1 }
    else modLink k fun x =>
      hopGo s.img.content.memWeight s.img.content.tenWeight cls (256 * (need + coh + 1)) need coh x

/-- The management core's die and the host interface stand on L0. -/
def onDie (die : Nat) : Nat := if die ≤ 7 then die else 6
/-- Whether no hop of a route is being trained again: traffic waits meanwhile (R42). -/
def openRoute (s : State) (r : List Nat) : Bool := (hopsOf r).all fun k => !(linkDir s k).retrain
/-- A message crosses a route. -/
def crossRoute (cls bytes : Nat) (r : List Nat) : Eff := Eff.each (hopsOf r) (passHop cls bytes)

/-- Route of a COH or MEM message between two dies. -/
def dieRoute (cls a b : Nat) : List Nat := route cls false 0 (onDie a) (onDie b)
/-- Route of a torus packet between two ports of the module: plus ports stand on L0, minus ports on L1. -/
def transitRoute (s : State) (x : Packet) (out : Nat) : List Nat :=
  if x.inp < 6 && out < 6 then route x.inner true (pathFor s x.dst) (6 + x.inp % 2) (6 + out % 2) else [6]
/-- Route of an ejected Q, P or CWRITE packet from its L-die to the die that holds an address. -/
def ejectRoute (x : Packet) (die : Nat) : List Nat := route x.inner false 0 (6 + (if x.inp < 6 then x.inp % 2 else 0)) (onDie die)

/-! ## Beats and frames (R24, R25, R27) -/

/-- Syndrome and overall parity of a 128-bit codeword: the extended Hamming (128,120) code with bit i at position i, the
check bits at 0 and at the powers of two (DESIGN CHOICE, assumption 44). -/
def hamming (w : Nat) : Nat × Bool :=
  (List.range 128).foldl (fun a i => if w.testBit i then (a.1 ^^^ i, !a.2) else a) (0, false)
/-- A codeword as received: the wire it corrects, if any, or `none` when it cannot be corrected. -/
def codeword (w : Nat) : Option (Option Nat) :=
  match hamming w with
  | (0, false) => some none
  | (i, true) => some (some i)
  | (_, false) => none
/-- The eight codewords of a beat: wires corrected, or `none` when one cannot be. -/
def beatWires (raw : Nat) : Option (List Nat) :=
  (List.range 8).foldr (fun k acc =>
    match codeword (raw / 2 ^ (128 * k) % 2 ^ 128), acc with
    | some none, some ws => some ws
    | some (some i), some ws => some ((128 * k + i) :: ws)
    | _, _ => none) (some [])
/-- A beat with some wires corrected. -/
def flipWires (raw : Nat) (ws : List Nat) : Nat := ws.foldl (fun r i => r ^^^ 2 ^ i) raw
/-- What the receiver makes of a beat of a wide port or a frame of a narrow link: the wires corrected, or `none` for a
replay. -/
def received (narrow : Bool) (raw : Nat) : Option (List Nat) :=
  if narrow then (if Config.frameOk raw then some [] else none) else beatWires raw

/-- A good beat or frame: corrected errors counted by wire, the beat among the last 64. -/
def LinkDir.take (h : LinkDir) (raw : Nat) (ws : List Nat) : LinkDir :=
  { h with corr := ws.foldl (fun m i => mset 0 m i (mget 0 m i + 1)) h.corr, tries := 0,
           sent := ((h.sent ++ [flipWires raw ws]).drop (h.sent.length - 63)) }
/-- cc in which 2^20 beats of a wide port, or frames of a narrow link, pass: 4 beats a cc, a frame in 2 cc (DEDUCED from R23
and R27; assumption 44). -/
def replayWindow (narrow : Bool) : Nat := if narrow then 2 ^ 21 else 2 ^ 18
/-- Whether a replay at a cc goes beyond the allowance of one in 2^20 beats. -/
def LinkDir.excess (h : LinkDir) (narrow : Bool) (cc : Nat) : Bool := h.replayAt != 0 && cc + 1 < h.replayAt + replayWindow narrow

end Sys2Proof.Machine
end

