-- ==== Sys2Proof/Machine/Queue.lean ====
section
/-!
DEFINITION. Queues and their heads (06 R188-R191), waits (R209, R211), the units a command names and which of
them are free or fenced (R190, R228), stalled wait groups (R230), idle counting (R242-R245) and the passing of
time.
-/
namespace Sys2Proof.Machine

/-! ## Queues -/

def qKey (die q : Nat) : Nat := die * 16 + q
def queueOf (s : State) (die q : Nat) : Queue := mget {} s.cp.queues (qKey die q)
def slotsOf (s : State) (die q : Nat) : List Desc := mget [] s.cp.slots (qKey die q)
def modQueue (die q : Nat) (f : Queue → Queue) : Eff :=
  modCp fun c => { c with queues := mset {} c.queues (qKey die q) (f (mget {} c.queues (qKey die q))) }
def progLoaded (s : State) : Bool := rbit s .CMD_STATUS 0 0 31
def stepOf (s : State) (n : Nat) : StepInfo := mget {} s.cp.steps n
def modStep (n : Nat) (f : StepInfo → StepInfo) : Eff :=
  modCp fun c => { c with steps := mset {} c.steps n (f (mget {} c.steps n)) }
/-- Every (die, queue). -/
def allQueues : List (Nat × Nat) := (List.range 4).flatMap fun d => (List.range 16).map fun q => (d, q)

/-- The command at the head of a queue that may run: its step has been released (11 R426) and its descriptor
has been fetched (R189). -/
def atHead (s : State) (die q : Nat) : Option Desc :=
  let qu := queueOf s die q
  if progLoaded s && 0 < qu.len && qu.step < s.cp.released then (slotsOf s die q).head? else none

/-- Whether a queue waits for the barrier: before its first command, or at STEP.END (R191, 11 R426). -/
def atBarrier (s : State) (die q : Nat) : Bool :=
  let qu := queueOf s die q
  0 < qu.len && (qu.atEnd || decide (s.cp.released ≤ qu.step))

/-- Commands of a queue in flight. -/
def flightsOf (s : State) (die q : Nat) : List Flight := s.cp.flights.filter fun f => f.die = die && f.q = q
def findFlight (s : State) (die q pos : Nat) : Option Flight :=
  s.cp.flights.find? fun f => f.die = die && f.q = q && f.pos = pos
/-- Replace a flight; its place in the order of issue stays. -/
def putFlight (f : Flight) : Eff :=
  modCp fun c => { c with flights := putFirst (fun x => x.die = f.die && x.q = f.q && x.pos = f.pos) f c.flights }

/-! ## Waits -/

/-- A flag as a wait of this cc sees it: as it stood at the end of the cc before (R211). -/
def flagSeen (s : State) (k : Nat) : Nat :=
  let o := mget 0 s.flagOld k
  if o = 0 then mget 0 s.flags k else o - 1

/-- The waits of a command not satisfied under a reading of the flags: key and target, header first. -/
def openWaits (rd : Nat → Nat) (d : Desc) (sq : Nat) : List (Nat × Nat) :=
  (cmdWaits d).filterMap fun (r, base, mul, _) =>
    if r.en && rd r.key < waitTarget base mul sq then some (r.key, waitTarget base mul sq) else none

/-! ## Engines of a program (R225-R227) -/

/-- The physical engine of logical engine j on C-die n. -/
def engMap (s : State) (n j : Nat) : Option Nat :=
  let here (i : Nat) : Bool := decide (i < 24) && (s.fuses.present.getD n 0).testBit i
  if s.cp.engMode = 1 then
    match (s.img.content.engMap.getD n []).getD j none with
    | some i => if here i then some i else none
    | none => none
  else if here j then some j else none

def rowProgram (s : State) (d : Desc) : Option (List ProgPass) :=
  (s.img.content.rowPrograms.find? fun p => p.1 = rFn d).map (·.2)
/-- The passes a row command's checks and moves use: none for the built-in ones. -/
def progOf (s : State) (d : Desc) : List ProgPass := if rKind d = .prog then (rowProgram s d).getD [] else []

/-! ## Units -/

/-- The home M-die of UPD.GATHERADD. -/
def gaHome (s : State) (die : Nat) (d : Desc) : Nat :=
  if (tget s die (gaDst d)).within fun a b => homedOn s 0 a (b - a) then 0 else 1

/-- Keys of the units a command names: die × 64 + local unit (engines 0-23, vector units 24-27, row engines
28-31, movers 32-39, prism units 40-47; update engines 0-7 and the factor unit 8; sequencer 0). -/
def unitsOf (s : State) (die : Nat) (d : Desc) : List Nat :=
  let op := dOpcode d
  let tt := tget s die
  if op = 0x10 || op = 0x11 then (mmLogical d).filterMap fun j => (engMap s die j).map (die * 64 + ·)
  else if op = 0x20 || op = 0x40 || op = 0x41 then (setBits (vMask d) 4).map (die * 64 + 24 + ·)
  else if (0x50 ≤ op && op ≤ 0x58) || op = 0x5F then (setBits (rMask d) 4).map (die * 64 + 28 + ·)
  else if 0x60 ≤ op && op ≤ 0x62 then (setBits (dmaMask d) 8).map (die * 64 + 32 + ·)
  else if op = 0xA0 then (setBits (digMask d) 8).map (die * 64 + 40 + ·)
  else if op = 0x80 then
    (uOwners s.mem tt d).flatMap fun m => (uEngines d m).map ((4 + m) * 64 + ·)
  else if op = 0x82 then (uOwners s.mem tt d).map fun m => (4 + m) * 64 + 8
  else if op = 0x81 then (uEngines d (gaHome s die d)).map ((4 + gaHome s die d) * 64 + ·)
  else if isCol op || op = 0xA1 then [6 * 64, 7 * 64]
  else []

/-- Whether a unit is fenced. -/
def unitFenced (s : State) (k : Nat) : Bool :=
  let die := k / 64; let u := k % 64
  if die < 4 then
    if u < 24 then rbit s .MME_FENCED die 0 u
    else if u < 28 then rbit s .VEC_FENCED die 0 (u - 24)
    else if u < 32 then rbit s .ROW_FENCED die 0 (u - 28)
    else if u < 40 then false
    else rbit s .DIG_PU_FENCED 6 0 (8 * die + (u - 40))
  else if die < 6 then rbit s .UPD_FENCED die 0 u
  else rbit s .COL_SEQ_STATUS die 0 30

/-- Items of work left to a unit of a flight. -/
def UW.left (u : UW) : Nat := u.total - u.n
/-- Whether an update unit waits for bounce space with a block in hand (07 R287). -/
def UW.waits (u : UW) : Bool := (u.key / 64 = 4 || u.key / 64 = 5) && u.sc = [1]
/-- What unit k works on: the first command in order of issue that has work left for it. -/
def unitWork (s : State) (k : Nat) : Option (Flight × UW) :=
  s.cp.flights.findSome? fun f => (f.units.find? fun u => u.key = k && 0 < u.left).map fun u => (f, u)
/-- Lane items in one unit of work of a reduction. -/
def redPer (d : Desc) : Nat := if vIsRow d then max 1 (vChunks d) else max 1 (vRows d)
/-- Folds of a reduction that wait for their compare: the units of work whose chunks are done. -/
def foldsDue (d : Desc) (u : UW) : Nat := u.n / redPer d - u.fold
/-- Whether a unit has a chunk in its reduction unit (04 R151). -/
def reduces (s : State) (k : Nat) : Bool :=
  s.cp.flights.any fun f => (f.op = 0x40 || f.op = 0x41) && f.units.any fun u => u.key = k && 0 < foldsDue f.desc u

/-- Every part of a command in flight that unit k has left to do, in order of issue. -/
def unitParts (s : State) (k : Nat) : List (Flight × UW) :=
  s.cp.flights.filterMap fun f => (f.units.find? fun u => u.key = k && 0 < u.left).map fun u => (f, u)

/-! ### Matrix engines (03 R89, R90) -/

/-- Whether a unit is a matrix engine. -/
def isEngine (k : Nat) : Bool := k / 64 < 4 && k % 64 < 24
/-- Tiles of a part that have started, and whether one is in the compute stage. -/
def UW.begun (u : UW) : Nat := (u.banks.filter fun b => !b.pre).length
def UW.computing (u : UW) : Bool := u.banks.any fun b => !b.pre && !b.full
/-- The part whose next tile an engine starts next: an earlier one has no tile left to start and none in compute. -/
def nextTile : List (Flight × UW) → Option (Flight × UW)
  | [] => none
  | (f, u) :: t => if u.computing then none else if u.begun < u.left then some (f, u) else nextTile t
/-- Tiles in an engine's three stages. -/
def tilesIn (s : State) (k : Nat) : Nat := ((unitParts s k).map fun p => p.2.begun).foldl (· + ·) 0
/-- Whether an engine has a tile in its compute stage. -/
def engineComputes (s : State) (k : Nat) : Bool := (unitParts s k).any fun p => p.2.computing
/-- What a unit has still to start: for a matrix engine the part with its next tile, for any other its part in hand. -/
def pendingWork (s : State) (k : Nat) : Option (Flight × UW) := if isEngine k then nextTile (unitParts s k) else unitWork s k

/-- Replace a unit's part of a flight. -/
def Flight.putUnit (f : Flight) (u : UW) : Flight := { f with units := f.units.map fun x => if x.key = u.key then u else x }

/-- The start rule of a C-die unit: an engine whose tiles are all past their compute stage (03 R90), a vector unit whose lanes have passed its share (04 R135), any other unit when it has no work. -/
def unitFree (s : State) (k : Nat) : Bool :=
  let left := (s.cp.flights.flatMap fun f => (f.units.filter fun u => u.key = k).map UW.left).foldl (· + ·) 0
  let u := k % 64
  if k / 64 ≥ 4 then true
  else if u < 24 then (unitParts s k).all fun p => !p.2.computing && decide (p.2.left ≤ p.2.begun)
  else if 32 ≤ u && u < 40 then !(s.cp.flights.any fun f => f.units.any fun x => x.key = k)
  else decide (left = 0)

/-- M-dies and L-dies that execute a command. -/
def farDies (s : State) (die : Nat) (d : Desc) : List Nat :=
  let op := dOpcode d
  if op = 0x68 || op = 0x69 || op = 0x83 then [4, 5]
  else ((unitsOf s die d).map (· / 64)).filter (4 ≤ ·) |>.eraseDups

/-- Whether a command in flight is one that die m executes. -/
def Flight.runsOn (f : Flight) (m : Nat) : Bool :=
  ((f.op = 0x68 || f.op = 0x69 || f.op = 0x83) && (m = 4 || m = 5)) || f.units.any fun u => u.key / 64 = m
/-- Whether each such die accepts a further command of C-die `die`: 64 outstanding (R190). -/
def farAccepts (s : State) (die : Nat) (d : Desc) : Bool :=
  (farDies s die d).all fun m => decide ((s.cp.flights.filter fun f => f.die = die && f.runsOn m).length < 64)

/-! ## Traffic over the die-to-die links (01 R36, R37) -/

/-- Dies whose stores hold a tensor. -/
def storeDies (s : State) (t : TDesc) : List Nat :=
  ((List.range 4).filter fun n => t.within (inTile n) || t.within (inStat n)) ++
  (([0, 1] : List Nat).filter fun m => t.within (inScratch m (scratchWays s m)) ||
    (t.within (inMemory s) && !(t.within fun a b => homedOn s (1 - m) a (b - a)))).map (4 + ·)
/-- Paths that streams of a group take between L0 and L1: those of its two neighbours. -/
def groupPaths (s : State) (g : Group) : List Nat := [0, 1].map fun dir => pathFor s (peerNode s (g.port dir))
/-- Whether the traffic of a command may use a link: its way to the dies that execute it, a mover's to the stores it names,
the sequencers' to theirs and between each other. -/
def linkUsed (s : State) (die : Nat) (d : Desc) (n : Nat) : Bool :=
  let op := dOpcode d
  let stores (ids : List Nat) : List Nat := ids.flatMap fun i => storeDies s (tget s die i)
  ((farDies s die d).any fun e => routeUses (dieRoute clCoh die e) n) ||
  ((0x60 ≤ op && op ≤ 0x62) && (stores (dmaDst d :: dmaInputs d)).any fun e => routeUses (dieRoute clMem die e) n) ||
  ((isCol op || op = 0xA1) &&
    let g := groupOf s (colGroup d)
    ((stores (colInputs d ++ colOutputs g d)).any fun e => [6, 7].any fun l => routeUses (dieRoute clTen l e) n) ||
      (groupPaths s g).any fun p => routeUses (route clTen false p 6 7) n)

/-! ## Mandatory background items (R239, R241) -/

/-- The resource bit of R238 that a resource belongs to: packages m × 8 + p, die-to-die ports 16-63, torus ports
64-69, Ethernet 70-71, control paths 72. -/
def resBit (res : Nat) : Nat :=
  if res < 8 then 0 else if res < 16 then 1 else if res < 64 then 2 else if res < 70 then 3 else if res < 72 then 4 else 5

/-- Whether an item on a resource affects the units of a command. -/
def resAffects (s : State) (die : Nat) (d : Desc) (res : Nat) : Bool :=
  let op := dOpcode d
  let dma := 0x60 ≤ op && op ≤ 0x62
  match resBit res with
  | 0 => dma || op = 0x68 || op = 0x69 || ((0x80 ≤ op && op ≤ 0x82) && (unitsOf s die d).any fun k => k / 64 = 4)
  | 1 => dma || op = 0x68 || op = 0x69 || ((0x80 ≤ op && op ≤ 0x82) && (unitsOf s die d).any fun k => k / 64 = 5)
  | 2 => linkUsed s die d (res - 16)
  | 3 => (isCol op || op = 0xA1) && (groupOf s (colGroup d)).axis = (res - 64) / 2
  | 4 => op = 0x7E
  | _ => false
def heldBack (s : State) (die : Nat) (d : Desc) : Bool := s.cp.holds.any fun h => resAffects s die d h.res
/-- Whether a window is open on a resource (R238). -/
def shadeOpen (s : State) (res : Nat) : Bool := s.cp.shades.any fun w => w.mask.testBit (resBit res)

/-! ## The gate (14 R533, R534) -/

/-- Whether the held part of the present gate window runs. -/
def gateHeld (s : State) : Bool := 0 < s.pow.gate && decide (65536 - 4096 * s.pow.gate ≤ s.sync.dt % 65536)
/-- Units the gate holds back: not prism units, not sequencers. -/
def gated (k : Nat) : Bool := (k / 64 < 4 && k % 64 < 40) || k / 64 = 4 || k / 64 = 5

/-! ## Commands held after issue -/

def verdictOf (s : State) (n : Nat) : Option Nat := (stepOf s n).verdict

/-- Whether an issued command is held for a verdict: UPD.APPLY and UPD.FACTOR for that of their step (07 R268,
R280), ROW.XENT.B with SCALE_SRC for that of the step before (07 R266). -/
def heldForVerdict (s : State) (f : Flight) : Bool :=
  if f.op = 0x80 || f.op = 0x82 then (verdictOf s f.sq).isNone
  else f.op = 0x57 && rScaleSrc f.desc && decide (0 < f.sq) && (verdictOf s (f.sq - 1)).isNone

/-- Whether another incomplete command reads stat slot `n` of die `die` (05 R170). -/
def slotReaders (s : State) (die n : Nat) : List Flight :=
  s.cp.flights.filter fun f => f.die = die && f.statHit && rSlot f.desc = n

/-! ## Stalled groups (R230) -/

/-- Flags that an issued, incomplete command or a signal in transit will still reach. -/
def flagsComing (s : State) : List Nat :=
  (s.cp.flights.flatMap fun f => (cmdSignals f.desc).map fun (r, _) => r.key) ++
    s.cp.signals.map fun g => g.die * 4096 + g.idx

def groupQueues (s : State) (g : Nat) : List (Nat × Nat) :=
  allQueues.filter fun (d, q) => let qu := queueOf s d q; 0 < qu.len && qu.grouped && qu.group = g

/-- Whether group g is stalled in this cc. -/
def groupStalled (s : State) (g : Nat) : Bool :=
  let qs := groupQueues s g
  let waits (d q : Nat) : List Nat :=
    match atHead s d q with
    | some c => if dOpcode c = 0xF0 then [] else (openWaits (flagSeen s) c (queueOf s d q).step).map (·.1)
    | none => []
  let atEnd (d q : Nat) : Bool := atBarrier s d q || (match atHead s d q with
    | some c => dOpcode c = 0xF0
    | none => false)
  let ws := qs.flatMap fun (d, q) => waits d q
  qs.all (fun (d, q) => atEnd d q || !(waits d q).isEmpty) && !ws.isEmpty && !(ws.any fun k => (flagsComing s).contains k)

/-- Stall limit in cc (R231). -/
def umbraLimit (s : State) : Nat := 2 ^ rfld s .CMD_UMBRA_CFG 0 0 4 0

/-! ## Idle counting (R242-R245) -/

/-- Cause index of a flag's class (R244). -/
def classCause (c : Nat) : Nat := if c = 1 then 1 else if c = 2 then 2 else if c = 3 then 6 else if c = 4 then 7 else 3

/-- What the head of a queue makes a unit count; none when it does not name the unit. -/
def headCause (s : State) (k d q : Nat) : Option Nat :=
  match atHead s d q with
  | none => none
  | some c =>
    if (unitsOf s d c).contains k then
      match openWaits (flagSeen s) c (queueOf s d q).step with
      | (f, _) :: _ => some (classCause (mget 0 s.cp.flagClass f))
      | [] => some 0
    else if dOpcode c = 0x83 && s.upd.snapCount != 0 && k / 64 ≥ 4 && k / 64 < 6 then some 7
    else none

/-- Whether a unit is a DMA mover, and whether one has a command. -/
def isMover (k : Nat) : Bool := k / 64 < 4 && 32 ≤ k % 64 && k % 64 < 40
def moverBusy (s : State) (k : Nat) : Bool := isMover k && s.cp.flights.any fun f => f.units.any fun x => x.key = k

/-- Cause under which an idle unit counts (R243, 07 R286, R294, 10 R389). A queue at the barrier names no unit
of its own; it decides where no other head does (assumption 18). -/
def idleCause (s : State) (k : Nat) : Nat :=
  let qs := if k / 64 < 4 then (List.range 16).map fun q => (k / 64, q) else allQueues
  if gated k && gateHeld s && ((pendingWork s k).isSome || moverBusy s k) then 8
  else
    match pendingWork s k with
    | some (f, u) => if heldForVerdict s f then 6 else if f.slotWait then 3 else if u.waits then 7 else 0
    | none =>
      if k / 64 ≥ 6 && s.col.ops.any (fun o => !o.finished) then 2
      else
        match qs.findSome? fun (d, q) => headCause s k d q with
        | some c => c
        | none =>
          if qs.any fun (d, q) => atBarrier s d q then (if rbit s .UPD_STATUS 4 0 28 then 5 else 4) else 0

/-- Whether a COL.XDR still waits for a counterpart's shard: its bound has not begun (10 R411). -/
def xdrWaits (s : State) (o : ColOp) : Bool :=
  o.op = 0x7E && !s.cp.flights.any fun f => f.die = o.die && f.q = o.q && f.pos = o.pos && f.boundFrom.isSome

/-- Whether a unit is active: it has started work in hand that nothing holds. A mover holds its rows while the gate holds it
(DESIGN CHOICE, assumption 19). -/
def unitActive (s : State) (k : Nat) : Bool :=
  if k / 64 ≥ 6 then s.col.ops.any fun o => o.started && !o.finished && !xdrWaits s o
  else if isEngine k then engineComputes s k
  else reduces s k ||
    match unitWork s k with
    | some (f, u) => u.started && !heldForVerdict s f && !f.slotWait && !u.waits
    | none => moverBusy s k && !gateHeld s

/-- The ACTIVE register of a unit, if it has one: name, die, index. -/
def activeReg (k : Nat) : Option (RegName × Nat × Nat) :=
  let die := k / 64; let u := k % 64
  if die < 4 then
    if u < 24 then some (.MME_ENG_ACTIVE_CC, die, u)
    else if u < 28 then some (.VEC_UNIT_ACTIVE_CC, die, u - 24)
    else if u < 32 then some (.ROW_ENG_ACTIVE_CC, die, u - 28)
    else none
  else if die < 6 then some (.UPD_ENG_ACTIVE_CC, die, u)
  else some (.COL_ACTIVE_CC, die, 0)
/-- The idle counter of a unit and cause. -/
def idleReg (k c : Nat) : RegName × Nat × Nat :=
  let die := k / 64; let u := k % 64
  if die < 4 then (.CMD_IDLE, die, u * 9 + c) else if die < 6 then (.UPD_IDLE, die, u * 9 + c) else (.COL_IDLE, die, c)

/-- The units that count: 40 of each C-die, 9 of each M-die, a sequencer of each L-die. -/
def countedUnits : List Nat :=
  ((List.range 4).flatMap fun d => (List.range 40).map fun u => d * 64 + u) ++
  ([4, 5].flatMap fun d => (List.range 9).map fun u => d * 64 + u) ++ [6 * 64, 7 * 64]

def countUnit (n k : Nat) : Eff :=
  .get fun s =>
    if unitFenced s k then .skip
    else if unitActive s k then Eff.opt (activeReg k) fun (r, d, i) => incFld r d i 47 0 n
    else
      let (r, d, i) := idleReg k (idleCause s k)
      incFld r d i 47 0 n

/-- Stall counts of the 16 wait groups (R231). -/
def countGroups (n : Nat) : Eff :=
  .get fun s => modCp fun c =>
    { c with umbra := (List.range 16).foldl (fun m g => mset 0 m g (if groupStalled s g then mget 0 m g + n else 0)) c.umbra }

/-- The counts of n cc in which nothing else happens. -/
def countCc (n : Nat) : Eff :=
  .get fun s => Eff.all [
    Eff.when (progLoaded s) (.seq (Eff.each countedUnits (countUnit n)) (countGroups n)),
    Eff.when (0 < rfld s .THM_STATUS 8 0 23 20) (incFld .THM_GATED_CC 8 0 47 0 n)]

/-- n cc pass with no event. -/
def advance (n : Nat) : Eff :=
  match n with
  | 0 => .skip
  | 1 => .seq (countCc 1) (.act (.clock 1))
  | m + 2 => Eff.all [countCc 1, .act (.clock 1), countCc (m + 1), .act (.clock (m + 1))]

/-- Time passes until a count of cc; nothing if it has passed already. -/
def advanceTo (cc : Nat) : Eff := .get fun s => advance (cc - s.cc)

end Sys2Proof.Machine
end

