-- ==== Sys2Proof/Machine/Lines.lean ====
section
/-!
DEFINITION. Places of memory (08 R302, R303) and uncorrectable lines (R323, R325).
-/
namespace Sys2Proof.Machine

/-! ## Channels and lines -/

/-- Active channels of M-die m, ascending. -/
def activeChans (s : State) (m : Nat) : List Nat := setBits (rget s .MEM_MAP (4 + m) 0) 64
/-- Local channel and data line of an address homed on M-die m. -/
def placeOf (s : State) (m a : Nat) : Nat × Nat :=
  let l := (a - homeBase s m) / 256
  let cs := activeChans s m
  (cs.getD (l % max 1 cs.length) 0, l / max 1 cs.length)
/-- Address of data line L of channel c, if the channel holds addresses. -/
def lineAddr (s : State) (m c line : Nat) : Option Nat :=
  let cs := activeChans s m
  if cs.contains c then some (homeBase s m + 256 * (line * cs.length + cs.findIdx (· = c))) else none
/-- Data lines of a channel (R298). -/
def chanLines : Nat := 62914560
/-- Key of a channel. -/
def chKey (m c : Nat) : Nat := m * 64 + c
def chActive (s : State) (m c : Nat) : Bool := (activeChans s m).contains c

/-! ## Traffic tests that run (R326) -/

/-- The test of a channel: 0 none, 1 running, 2 to stop. -/
def testOf (s : State) (m c : Nat) : Nat := mget 0 s.ms.tests (chKey m c)
def setTest (m c n : Nat) : Eff := modMs fun x => { x with tests := mset 0 x.tests (chKey m c) n }
/-- Whether some line of [a, a + n) is on a channel under test, which serves no other client. -/
def underTest (s : State) (a n : Nat) : Bool :=
  !s.ms.tests.isEmpty && (runLines [(a, n)]).any fun l =>
    match homeOf s (256 * l) with
    | some m => testOf s m (placeOf s m (256 * l)).1 != 0
    | none => false
/-- A program loads: the tests of active channels are out of test state and stop. -/
def stopTests : Eff :=
  .get fun s => modMs fun x => { x with tests := x.tests.map fun e => if chActive s (e.1 / 64) (e.1 % 64) then (e.1, 2) else e }

/-! ## Reads of a line (R299, R323) -/

/-- What the decoder finds as a line is read, with an error that strikes this read; none where its marker is set or the error is
uncorrectable. -/
def readFound (s : State) (l : Nat) (e : LineError) : Option LineError :=
  if s.ms.poison.contains l then none else decodeLine (mget [] s.ms.odd l ++ e)
/-- A read and, where it fails, the read again: the error of the one that decodes, and what was found. -/
def readTwice (s : State) (l : Nat) (e1 e2 : LineError) : Option (LineError × LineError) :=
  match readFound s l e1 with
  | some f => some (e1, f)
  | none => (readFound s l e2).map fun f => (e2, f)
/-- Whether a read that decodes met an error: what was found, or a first read that failed. -/
def metError (s : State) (l : Nat) (e1 : LineError) (f : LineError) : Bool := !f.isEmpty || (readFound s l e1).isNone

/-- Write a whole line past the loam cache: it keeps the rest of the memory system. -/
def putLine (l : Nat) (bs : List Byte) : Eff :=
  .get fun s => .seq (writeBytes (256 * l) bs) (modMs fun x => { x with poison := s.ms.poison, odd := s.ms.odd, loam := s.ms.loam })
/-- A line is rewritten as the decoder took it: corrected, or, where it took it for another codeword, wrong. -/
def rewriteLine (l : Nat) (e f : LineError) : Eff :=
  .get fun s =>
    let all := mget [] s.ms.odd l ++ e
    .seq (Eff.when (misread all f) (putLine l (flipped 0 (rdBytes s.mem (256 * l) 256) (all ++ f))))
      (modMs fun x => { x with odd := mset [] x.odd l [] })

/-! ## Uncorrectable lines (R323, R325) -/

def clientCode : Client → Nat
  | .command .. => 0
  | .prefetch => 1
  | .host => 2
  | .scrub => 3

/-- A channel becomes suspect. -/
def makeSuspect (m c : Nat) : Eff :=
  .get fun s => Eff.when (!rbit s .MEM_CH_STATUS (4 + m) c 28) (Eff.all [
    putR .MEM_CH_STATUS (4 + m) c 28 28 1,
    setFault .MEM_FAULT (4 + m) 5,
    emit 0x0507 (4 + m) []])

/-- One more uncorrectable line of a channel. -/
def countUeLine (m c : Nat) : Eff :=
  .seq (incFld .MEM_CH_STATUS (4 + m) c 15 0 1)
    (.get fun s => Eff.when (rfld s .MEM_CH_STATUS (4 + m) c 15 0 > 16) (makeSuspect m c))

/-- The line of an address is uncorrectable: its marker is set and the error counted, latched and recorded. -/
def ueLine (a : Nat) (client : Client) : Eff :=
  .get fun s =>
    match homeOf s a with
    | none => .skip
    | some m =>
      let (c, line) := placeOf s m a
      let fresh := !s.ms.poison.contains (a / 256)
      Eff.all [
        .act (.mark (a / 256)),
        setFault .MEM_FAULT (4 + m) 1,
        incR .MEM_UE_COUNT (4 + m) 0 1,
        Eff.when (!rbit s .MEM_UE_ADDR (4 + m) 0 63) (setR .MEM_UE_ADDR (4 + m) 0 (2 ^ 63 + a)),
        emit 0x0501 (4 + m) [.num 8 a, .num 1 c, .num 8 line, .num 1 (clientCode client)],
        Eff.when fresh (countUeLine m c)]

/-- The first marked line of some rows of bytes, as an address. -/
def firstMarked (s : State) (rs : List (Nat × Nat)) : Option Nat :=
  rs.findSome? fun (a, n) =>
    ((List.range (n / 256 + 2)).map fun i => a / 256 + i).findSome? fun l =>
      if badLine s l && 256 * l < a + n && a < 256 * l + 256 then some (256 * l) else none

/-- Byte runs of a tensor's rows. -/
def TDesc.runs (t : TDesc) : List (Nat × Nat) :=
  t.rows.flatMap fun r => (List.range r.n).map fun i => (r.base + i * r.stride, r.len)

end Sys2Proof.Machine
end

