-- ==== Sys2Proof/Machine/Issue.lean ====
section
/-!
DEFINITION. What happens at the head of a queue and at completion: inputs and outputs of a command (06 R203), all
its checks in the order of R550, skipping (R218-R224), signals (R210-R212), the verdict contribution (07 R262,
R264), issue (R190, R214, R215) and completion (R201, R203, R210).
-/
namespace Sys2Proof.Machine

/-! ## Inputs and outputs -/

/-- Input buffers a dispatch's local table names (10 R402). -/
def a2aBuffers (s : State) (die : Nat) (d : Desc) : List Nat :=
  let t := tget s die (a2aLocal d)
  (List.range (t.outer * t.inner)).filterMap fun i =>
    let e := rdCode s.mem t (i / t.inner) (i % t.inner)
    if bit e 31 then some (bits e 12 0) else none

/-- Tensors a command names as outputs, without the null tensor. -/
def opOutputs (s : State) (die : Nat) (d : Desc) : List Nat :=
  let op := dOpcode d
  let l :=
    if op = 0x10 || op = 0x11 then mmOutputs d
    else if op = 0x20 || op = 0x40 || op = 0x41 then vecOutputs d
    else if (0x50 ≤ op && op ≤ 0x58) || op = 0x5F then rowOutputs d (progOf s d)
    else if 0x60 ≤ op && op ≤ 0x62 then dmaOutputs d
    else if isCol op then colOutputs (groupOf s (colGroup d)) d ++ (if op = 0x7A then a2aBuffers s die d else [])
    else if 0x80 ≤ op && op ≤ 0x83 then updOutputs d
    else []
  l.filter (· != 0)

/-- Tensors a command reads, in the order of its field table. -/
def opInputs (s : State) (d : Desc) : List Nat :=
  let op := dOpcode d
  if op = 0x10 || op = 0x11 then mmInputs d
  else if op = 0x20 || op = 0x40 || op = 0x41 then vecInputs d
  else if (0x50 ≤ op && op ≤ 0x58) || op = 0x5F then rowInputs d (progOf s d)
  else if 0x60 ≤ op && op ≤ 0x62 then dmaInputs d
  else if isCol op then colInputs d
  else if 0x80 ≤ op && op ≤ 0x83 then updInputs d
  else if op = 0xA0 then [digTensor d]
  else []

/-- POISON_SEQ of the first poisoned tensor of a list (R203). -/
def poisonOf (s : State) (die : Nat) (ids : List Nat) : Option Nat :=
  (ids.find? fun i => (tget s die i).poison).map fun i => (tget s die i).poisonSeq

/-! ## Checks (R550) -/

/-- Opcodes of R195. -/
def legalOp (op : Nat) : Bool :=
  op = 0x10 || op = 0x11 || op = 0x20 || op = 0x40 || op = 0x41 || (0x50 ≤ op && op ≤ 0x58) || op = 0x5F ||
  (0x60 ≤ op && op ≤ 0x62) || op = 0x68 || op = 0x69 || isCol op || (0x80 ≤ op && op ≤ 0x83) ||
  op = 0x90 || op = 0x91 || op = 0x94 || op = 0x95 || op = 0xA0 || op = 0xA1 || (0xF0 ≤ op && op ≤ 0xF3)

/-- Key a row command gives its stat slot (05 R170). -/
def rowKey (s : State) (die : Nat) (d : Desc) : StatSlot :=
  let k := rKind d
  { rows := rRows d, cls := k.cls, prog := if k = .prog then rFn d else 0, xid := rS0 d, xtag := (tget s die (rS0 d)).vtag,
    count := rCount d, imm0 := fld d 12 31 0, mm := if k.smax then rMaskMode d else 0,
    diag := if k.smax then fld d 11 31 0 else 0, imm1 := if k.smax then fld d 13 31 0 else 0 }
def statKey (die n : Nat) : Nat := die * 1024 + n
def statSlot (s : State) (die n : Nat) : StatSlot := mget {} s.cp.slotsStat (statKey die n)
/-- Whether a slot holds a key. -/
def StatSlot.holds (x k : StatSlot) : Bool :=
  x.state != 0 && { x with state := 0, base := 0, gran := 0, owner := 0 } = { k with state := 0, base := 0, gran := 0, owner := 0 }
/-- Whether a row command reads its slot: the backward commands, and a row program with STAT_FREE (assumption 16). -/
def rowReads (d : Desc) : Bool := rStatEn d && ((rKind d).bwd || (rKind d = .prog && rStatFree d))
def rowClaims (d : Desc) : Bool := rStatEn d && ((rKind d).fwd || (rKind d = .prog && !rStatFree d))

def isRowOp (op : Nat) : Bool := (0x50 ≤ op && op ≤ 0x58) || op = 0x5F

/-- The first uncorrectable line among the region entries that an update command reads at the head, in ascending
order up to the first entry that breaks a rule (07 R252). -/
def tableUe (s : State) (die : Nat) (d : Desc) : Option Nat :=
  let t := tget s die (uTbl d)
  if 0x80 ≤ dOpcode d && dOpcode d ≤ 0x83 && dOpcode d != 0x81 && t.within (inMemory s) then
    let n := match badEntry s.mem (tget s die) (homedOn s) d (dOpcode d = 0x82) with
      | some (i, _) => i + 1 - uFirst d
      | none => uCount d
    firstMarked s ((List.range n).map fun i => (t.base + (uFirst d + i) * t.stride, 64))
  else none

/-- Checks of the body, on the stored descriptor; the key of a stat slot is that of the command as patched (R215, 05 R171). -/
def bodyChecks (s : State) (die q : Nat) (d : Desc) : List Viol :=
  let op := dOpcode d
  let tt := tget s die
  let n := (queueOf s die q).step
  let homed := homedOn s
  if !legalOp op then [⟨30, skReserved, 0, 24⟩]
  else if op = 0x10 || op = 0x11 then mmChecks die tt (engMap s die) d
  else if op = 0x20 || op = 0x40 || op = 0x41 then vecChecks die tt d
  else if isRowOp op then
    rowChecks die tt (rowProgram s d) d ++
      bodyV (rowReads d && !(statSlot s die (rSlot d)).holds (rowKey s die (patchDesc d (rget s .CMD_PATCH die (dPatchReg d)))))
        skStatKey 7 16
  else if 0x60 ≤ op && op ≤ 0x62 then dmaChecks tt (inStores s) d
  else if op = 0x68 || op = 0x69 then pfChecks tt (inMemory s) s.img.content.hintPf d
  else if isCol op || op = 0xA1 then
    colChecks s.mem tt (groupOf s (colGroup d)) (inStores s) homed (inMemory s) (xdrLegal s (xdrSession d) (xdrDomains d)) d
  else if 0x80 ≤ op && op ≤ 0x83 then
    let vs := updChecks s.mem tt homed (inMemory s) (inAnyScratch s) d
    if (tableUe s die d).isSome then vs.filter (·.stage != 39) ++ [⟨39, skHardFault, 255, 255⟩] else vs
  else if op = 0x90 || op = 0x91 then flagChecks d
  else if op = 0x94 || op = 0x95 then patchChecks die tt d
  else if op = 0xA0 then digChecks die tt d
  else stepChecks ((stepOf s n).votes.testBit die) d

def patchRegOf (s : State) (die : Nat) (d : Desc) : Nat := rget s .CMD_PATCH die (dPatchReg d)

/-- Every rule a command at the head breaks. -/
def allViols (s : State) (die q : Nat) (d : Desc) : List Viol :=
  headerChecks d ++ waitViols d (queueOf s die q).step ++ patchViols d (patchRegOf s die d) ++ bodyChecks s die q d ++
  (if (unitsOf s die d).any (unitFenced s) then [⟨50, skFenced, 255, 255⟩] else []) ++
  (if dOpcode d = 0x83 && (stepOf s (queueOf s die q).step).spb.testBit 64 && !sesOpen s (snSession d) then
    [⟨60, skHardFault, 255, 255⟩] else []) ++
  (if dOpcode d = 0x7E && !(xdrPeers s (xdrSession d)).all fun j => sesOpen s (xdrSession d + j) then
    [⟨60, skHardFault, 255, 255⟩] else [])

/-! ## Signals (R210-R212) -/

/-- Add to a flag; a saturated sum is counted and recorded. The M-dies and L-dies have no CMD_FAULT and no count: for a flag
of theirs the record alone is written (DESIGN CHOICE, assumption 42). -/
def addFlag (die idx inc : Nat) : Eff :=
  .get fun s => .seq (.act (.flagAdd (die * 4096 + idx) inc))
    (Eff.when (mget 0 s.flags (die * 4096 + idx) + inc > 0xFFFFFFFF) (Eff.all [
      Eff.when (die < 4) (.seq (setFault .CMD_FAULT die 5) (incR .CMD_FLAG_SAT_COUNT die 0 1)),
      emit 0x0307 die []]))

/-- The signals of a command leave: at once to flags of its own die, over COH to others. -/
def sendSignals (die : Nat) (d : Desc) : Eff :=
  Eff.each (cmdSignals d) fun (r, inc) =>
    if r.die = die then addFlag die r.idx inc
    else modCp fun c => { c with signals := c.signals ++ [⟨r.die, r.idx, inc, die⟩] }

/-! ## The verdict contribution (07 R262, R264, 06 R223, R224) -/

/-- The first step from n + 1 on whose contribution has not left. -/
def nextUnleft (s : State) (n : Nat) : Nat :=
  (((List.range (s.cp.steps.length + 1)).map (n + 1 + ·)).find? fun m => !(stepOf s m).left).getD (n + 1)

/-- A skip makes its step's contribution invalid, or, when that has left, the next one to leave. -/
def markInvalid (die n : Nat) : Eff :=
  .get fun s =>
    if (stepOf s n).left then
      .seq (setFault .CMD_FAULT die 1) (modStep (nextUnleft s n) fun t => { t with invalid := true })
    else modStep n fun t => { t with invalid := true }

/-- What every record of the update engines carries (07 R293): the effective STEP, then region, block, engine and
queue position where they apply. -/
def updItems (s : State) (n : Nat) (region block engine pos : Option Nat) : List Item :=
  [.num 8 (stepOf s n).stepNo, optItem 2 region, optItem 4 block, optItem 1 engine, optItem 4 pos]

/-- The overflow flag of a step (R72, R264). -/
def raiseOverflow (n : Nat) : Eff :=
  .get fun s =>
    if (stepOf s n).left then Eff.all [
      setFaultBoth .UPD_FAULT 4 5 6,
      Eff.when (!(stepOf s n).lateOverflow) (.seq (emit 0x0445 4 (updItems s n none none none none)) (modStep n fun t => { t with lateOverflow := true })),
      modStep (nextUnleft s n) fun t => { t with overflow := true }]
    else modStep n fun t => { t with overflow := true }

/-- The verdict pass of step n starts with the module's contribution (10 R406, R408). -/
def beginVerdict (n : Nat) : Eff :=
  .get fun s =>
    let v := (stepOf s n).contrib
    Eff.all [
      modCol fun c => { c with verdictStep := n, xdSent := false, sentAt := s.cc },
      if jobHalt s then passPut .verdict { active := true, no := n, stage := 3, value := 2, done := true }
      else .seq (startPass .verdict n v 0 0 0) xdSend]

/-- The contribution of step n leaves once every C-die has issued or skipped its STEP.VERDICT. -/
def tryLeave (n : Nat) : Eff :=
  .get fun s =>
    let t := stepOf s n
    Eff.when (t.votes = 0xF && !t.left) (Eff.all [
      modStep n fun t => { t with left := true, leftAt := s.cc,
                                  contrib := if t.invalid then 2 else if t.overflow then 1 else 0 },
      if s.col.verdict.active then modCol fun c => { c with queue := c.queue ++ [n] } else beginVerdict n])

/-- A C-die's STEP.VERDICT of step n has issued or been skipped. -/
def vote (die n : Nat) : Eff := modStep n fun t => { t with votes := t.votes ||| 2 ^ die }

/-! ## Skipping (R218-R224) -/

/-- Put an entry into the step record's skip list; `count` commands join the total (R222). -/
def listSkip (n : Nat) (e : SkipEnt) : Eff :=
  .get fun s =>
    let t := stepOf s n
    let listed := (t.skips.map (·.count)).foldl (· + ·) 0
    .seq (Eff.when (t.skips.length ≥ 64 && listed = t.skipTotal) (emit 0x0304 e.die []))
      (modStep n fun t =>
        { t with skips := if t.skips.length < 64 then t.skips ++ [e] else t.skips, skipTotal := t.skipTotal + e.count })

/-- The effects of one skip but its signals: outputs poisoned, verdict marked, counted, recorded and listed (under
an umbra abort neither recorded nor listed here). The number recorded is the count after this skip. -/
def skipEffects (die q pos n : Nat) (d : Desc) (v : Viol) (umbra : Bool) : Eff :=
  .get fun s =>
    let late := (stepOf s n).left
    let outs := opOutputs s die d
    .seq (incR .CMD_SKIP_SEQ 0 0 1) (.get fun s =>
      let seq := rget s .CMD_SKIP_SEQ 0 0
      Eff.all [
        incR .CMD_SKIP_CODE_COUNT die v.code 1,
        setFault .CMD_FAULT die 0,
        Eff.each outs fun t => .act (.poison die t true (seq % 4096)),
        markInvalid die n,
        Eff.when (!umbra) (.seq
          (emit 0x0300 die [.num 4 seq, .num 1 die, .num 1 q, .num 4 pos, .num 8 n, .num 1 (dOpcode d), .num 1 v.code,
            .num 1 v.word, .num 1 v.bit, .num 1 (b2n late)])
          (listSkip n ⟨seq, die, q, pos, dOpcode d, v.code, 1, late⟩)),
        Eff.when (v.code = skStatKey) (emit 0x0435 die [naItem 1, naItem 4, naItem 4, .num 2 (rSlot d), .num 4 pos]),
        Eff.when (dOpcode d = 0xF1) (vote die n)])

/-- The head leaves its queue: its slot is freed, or kept while it runs. -/
def popHead (die q : Nat) : Eff :=
  .get fun s => .seq
    (modQueue die q fun u => { u with head := u.head + 1, lastIssue := s.cc + 1, readyAt := 0 })
    (modCp fun c => { c with slots := mset [] c.slots (qKey die q) ((mget [] c.slots (qKey die q)).drop 1) })

/-- The head is skipped: its signals leave at once. -/
def skipHead (die q : Nat) (v : Viol) : Eff :=
  .get fun s =>
    match atHead s die q with
    | none => .skip
    | some d =>
      let qu := queueOf s die q
      let ue := if v.stage = 39 && v.code = skHardFault then tableUe s die d else none
      Eff.all [popHead die q,
        match ue with
        | some a => ueLine a (.command die q qu.head)
        | none => .skip,
        skipEffects die q qu.head qu.step d v false, sendSignals die d,
        Eff.when (dOpcode d = 0xF1) (tryLeave qu.step)]

/-- A command is skipped after issue (R218, R551): it counts as incomplete until its units stop. Its record names no field
(DESIGN CHOICE, assumption 42). -/
def skipFlight (f : Flight) (code : Nat) : Eff :=
  if f.skip.isSome then putFlight f
  else .seq (putFlight { f with skip := some code })
    (skipEffects f.die f.q f.pos f.sq f.stored ⟨60, code, 255, 255⟩ false)

/-! ## Issue (R190, R214, R215) -/

/-- What becomes of the head of a queue when a row of its opcode is taken. -/
inductive Attempt where
  | stay | hold | skip (v : Viol) | empty | issue
  deriving DecidableEq, Repr

/-- Whether the units of a command can start it and the other dies accept it (R190); UPD.SNAP also awaits the end of
an active snapshot (07 R286). -/
def canStart (s : State) (die : Nat) (d : Desc) : Bool :=
  (unitsOf s die d).all (unitFree s) && farAccepts s die d && !(dOpcode d = 0x83 && s.upd.snapCount != 0)
/-- Whether a command that does nothing is accepted: an empty one as any other (R215), UPD.SNAP of a step without a
snapshot by the M-dies alone (07 R286). -/
def canPass (s : State) (die : Nat) (d : Desc) (off : Bool) : Bool := if off then farAccepts s die d else canStart s die d

/-- Whether every wait of a legal head is satisfied and no rule is broken, its units are free and the other dies
accept it. -/
def headReady (s : State) (die q : Nat) : Bool :=
  match atHead s die q with
  | none => false
  | some d =>
    let n := (queueOf s die q).step
    dOpcode d != 0xF0 && (openWaits (flagSeen s) d n).isEmpty && (queueOf s die q).lastIssue != s.cc + 1 &&
      (allViols s die q d).isEmpty && canStart s die d

/-- Whether a head that comes first by R190 competes with this one: a lower queue of the die for a unit, or any queue of a
lower C-die for an M-die or L-die. Commands of one die that name no unit but the M-dies compete for those. -/
def beaten (s : State) (die q : Nat) (d : Desc) : Bool :=
  let us := unitsOf s die d
  let far := farDies s die d
  !(us.isEmpty && far.isEmpty) && allQueues.any fun (n, p) =>
    (decide (n < die) || (n = die && decide (p < q))) && headReady s n p &&
      (match atHead s n p with
      | some c =>
        let vs := unitsOf s n c
        if n = die && !(us.isEmpty && vs.isEmpty) then vs.any us.contains else (farDies s n c).any far.contains
      | none => false)

/-- UPD.SNAP while CONTROL.SNAP of its step is 0 does nothing and completes (07 R286). -/
def snapOff (s : State) (die q : Nat) (d : Desc) : Bool :=
  dOpcode d = 0x83 && !(stepOf s (queueOf s die q).step).spb.testBit 64

def attemptOf (s : State) (op die q : Nat) : Attempt :=
  match atHead s die q with
  | none => .stay
  | some d =>
    let o := dOpcode d
    let n := (queueOf s die q).step
    if !(o = op || !legalOp o) || o = 0xF0 then .stay
    else if (waitViols d n).isEmpty && !(openWaits (flagSeen s) d n).isEmpty then .stay
    else
      match firstViol (allViols s die q d) with
      | some v => .skip v
      | none =>
        if !canPass s die d (snapOff s die q d) || beaten s die q d then .stay
        else if heldBack s die d then .hold
        else if patchEmpty d (patchRegOf s die d) || snapOff s die q d then .empty
        else .issue

/-- Before the head of a queue is looked at: the queue issues at most one command per cc, and a wait of this cc
does not yet see this cc's signals (R190, R211); the cc passes when that alone stands in the way. -/
def settle (op die q : Nat) : Eff :=
  .get fun s =>
    match atHead s die q with
    | none => .skip
    | some d =>
      let n := (queueOf s die q).step
      Eff.when ((dOpcode d = op || !legalOp (dOpcode d)) && dOpcode d != 0xF0 &&
        ((queueOf s die q).lastIssue = s.cc + 1 ||
          (!(openWaits (flagSeen s) d n).isEmpty && (openWaits (fun k => mget 0 s.flags k) d n).isEmpty)))
        (advance 1)

/-- Lane items, tiles or blocks of each unit of a command as patched. Update commands take theirs when they start;
one placeholder item stands for them while they are held. -/
def buildUnits (s : State) (die : Nat) (d : Desc) : List UW :=
  let ks := unitsOf s die d
  let op := dOpcode d
  ks.zipIdx.map fun (k, p) =>
    let total :=
      if op = 0x10 || op = 0x11 then mmShare d ks.length p
      else if op = 0x20 || op = 0x40 || op = 0x41 then vShare d ks.length p
      else if isRowOp op then
        (rowShare (rRows d) ks.length p).length * rowNumPasses (progOf s d) d * rowChunks d
      else if op = 0xA0 then (digChunks (tget s die (digTensor d)) + ks.length - 1 - p) / ks.length
      else if op = 0x80 || op = 0x82 then 1
      else if op = 0x81 then (gaBlocks (tget s die) d + ks.length - 1 - p) / ks.length
      else 0
    { key := k, total := total }

/-- The flight of the head as it issues; one that issues in the held part of a gate window carries THROTTLE (R237). -/
def newFlight (s : State) (die q : Nat) (d : Desc) : Flight :=
  let qu := queueOf s die q
  let dp := patchDesc d (patchRegOf s die d)
  { die := die, q := q, pos := qu.head, sq := qu.step, op := dOpcode d, desc := dp, stored := d, issue := s.cc,
    boundFrom := some (if qu.readyAt = 0 then s.cc else qu.readyAt - 1), units := buildUnits s die dp,
    poisonIn := poisonOf s die (opInputs s dp),
    marks := (if qu.readyAt = 0 then 0 else 16) + (if gateHeld s && (unitsOf s die dp).any gated then 2 else 0) }

/-- Commands that complete at issue: flags, PATCH.SET and step control (R190). -/
def atIssue (op : Nat) : Bool := op = 0x90 || op = 0x91 || op = 0x95 || (0xF1 ≤ op && op ≤ 0xF3)

/-- Issue of the head: it leaves its queue, joins the commands in flight unless it completes at once, and `start`
does what its opcode does at issue. -/
def issueHead (die q : Nat) (start : Flight → Eff) : Eff :=
  .get fun s =>
    match atHead s die q with
    | none => .skip
    | some d =>
      let f := newFlight s die q d
      if atIssue (dOpcode d) then Eff.all [popHead die q, start f, sendSignals die d]
      else Eff.all [popHead die q, modCp fun c => { c with flights := c.flights ++ [f] }, start f]

/-- The row of an opcode at a queue. -/
def opcodeRow (op die q : Nat) (start : Flight → Eff) : Eff :=
  .seq (settle op die q) (.get fun s =>
    match attemptOf s op die q with
    | .stay => .skip
    | .hold => modQueue die q fun u => { u with readyAt := if u.readyAt = 0 then s.cc + 1 else u.readyAt }
    | .skip v => skipHead die q v
    | .empty => .seq (popHead die q)
        (match atHead s die q with
        | some d => sendSignals die d
        | none => .skip)
    | .issue => issueHead die q start)

/-! ## Completion (R201, R203, R210, R218) -/

/-- Whether a unit has nothing left to do for a command; reductions also await their folds. -/
def UW.finished (d : Desc) (u : UW) : Bool :=
  u.left = 0 &&
    (if dOpcode d = 0x40 then u.fold = u.total / max 1 (vChunks d)
     else if dOpcode d = 0x41 then u.fold = u.total / max 1 (vRows d) else true)
def Flight.workDone (f : Flight) : Bool := f.units.all (UW.finished f.desc)

/-- A command completes: tags advance and poison propagates unless it was skipped, its signals leave, and its slot
is freed. `poison` is that of its inputs. -/
def finish (f : Flight) (outs : List Nat) (poison : Option Nat) : Eff :=
  Eff.all [
    Eff.when f.skip.isNone (Eff.each outs fun t =>
      .seq (.act (.vtag f.die t)) (
        .act (.poison f.die t poison.isSome (poison.getD 0)))),
    modCp fun c => { c with flights := c.flights.filter fun x => !(x.die = f.die && x.q = f.q && x.pos = f.pos) },
    sendSignals f.die f.stored]

/-! ## The barrier at STEP.END (R191) -/

/-- A queue at STEP.END goes on once its earlier commands are done and the next step is released: it delivers the
signals of STEP.END's header, unless a skip has, counts a step and starts its stream again. -/
def stepProceed (die q : Nat) : Eff :=
  .get fun s =>
    let qu := queueOf s die q
    match slotsOf s die q with
    | [] => .skip
    | d :: rest =>
      Eff.when (qu.atEnd && (flightsOf s die q).isEmpty && decide (qu.step + 1 < s.cp.released)) (Eff.all [
        modQueue die q fun u => { u with step := u.step + 1, head := 0, atEnd := false, endSkipped := false, lastIssue := s.cc + 1 },
        modCp fun c => { c with slots := mset [] c.slots (qKey die q) rest },
        Eff.when (!qu.endSkipped) (sendSignals die d)])

/-! ## Time bounds (R234-R237) -/

/-- A tensor's store and its guaranteed rate for the sequencers (10 R385). -/
def storeRate (s : State) (t : TDesc) : Nat × Nat :=
  let die := t.base / 0x100000000 % 4
  if t.within (inAnyScratch s) then (4 + die, 1024)
  else if t.within (inMemory s) then (if t.base < homeSize s 0 then 8 else 9, s.img.content.colShare)
  else (if t.within (inStat die) then 12 + die else die, 512)

/-- Bound of an issued command with every link at its full width. -/
def fullBound (s : State) (f : Flight) : Nat :=
  let d := f.stored
  let tt := tget s f.die
  let op := f.op
  if op = 0x10 || op = 0x11 then mmBound tt d
  else if op = 0x20 || op = 0x40 || op = 0x41 then vecBound tt d
  else if isRowOp op then rowBound tt (progOf s d) d
  else if 0x60 ≤ op && op ≤ 0x62 then dmaBound f.die tt s.img.content.dmaRate d
  else if isCol op || op = 0xA1 then
    colBound s.mem tt (groupOf s (colGroup d)) (stepOf s f.sq).repro (storeRate s) s.img.content.hostShare d
  else if 0x80 ≤ op && op ≤ 0x83 then
    updBound s.mem tt d (fun _ => s.img.content.updRate) (gaHome s f.die d) (verdictOf s f.sq = some 0)
  else if op = 0xA0 then digBound tt d
  else if op = 0x94 then 32 + patchCount d
  else 64
/-- Bound of an issued command, from its stored descriptor. A collective whose streams cross the narrow link between L0 and L1
at 16 lanes has that width's (01 R28). -/
def boundOf (s : State) (f : Flight) : Nat :=
  let b := fullBound s f
  if (isCol f.op || f.op = 0xA1) && linkUsed s f.die f.stored 18 && [36, 37].any (fun k => (linkDir s k).width < 32) then
    b + Config.narrowExtra f.op b
  else b

end Sys2Proof.Machine
end

