-- ==== Sys2Proof/Machine/MatrixCheck.lean ====
section
/-!
DEFINITION. The checks of a matrix tile (03 R110-R114): residues modulo 127, compared copies, the row-and-column
checksum with its threshold and exemption, and what faults leave in a tile's accumulator bank (R89).
-/
namespace Sys2Proof.Machine

/-! ## Residues (R111) -/

/-- Minus the exponent of the lowest bit of an element. -/
def Elem.low (f : Elem) : Nat := ((f.frac : Int) - f.emin).toNat
/-- L of a pair: its exact group sum counts units of 2^(-L) (R59). -/
def pairLow (a b : Elem) : Nat := a.low + b.low
/-- Bits of the group adder of a pair (R59). -/
def adderWidth (a b : Elem) : Nat :=
  match a, b with
  | .e2m1, _ => 14 | .e2m3, _ => 18 | .e3m2, _ => 24 | .fp16, _ => 86 | .bf16, _ => 528
  | .e4m3, .e4m3 => 42 | .e5m2, .e5m2 => 70 | _, _ => 56

/-- An operand element of A or B without its block scale, and the scale's code (127 for a plain format). -/
def rawEl (mem : Mem) (t : TDesc) (r c : Nat) : Fv × Nat :=
  (t.elem.dec (rdCode mem t r c), if t.isMx then (rdByte mem (t.scaleAddr r c)).toNat else 127)
def mmRawA (mem : Mem) (tt : Nat → TDesc) (d : Desc) (m k : Nat) : Fv × Nat :=
  if mmAT d then rawEl mem (tt (mmA d)) k m else rawEl mem (tt (mmA d)) m k
def mmRawB (mem : Mem) (tt : Nat → TDesc) (d : Desc) (k n : Nat) : Fv × Nat :=
  if mmBT d then rawEl mem (tt (mmB d)) n k else rawEl mem (tt (mmB d)) k n

/-- The residue of one product: significands modulo 127 and the exponent modulo 7; subtracted when negative. -/
def residue (l : Nat) : Fv → Fv → Nat
  | .fin na ma ea, .fin nb mb eb =>
    let r := ma % 127 * (mb % 127) * 2 ^ ((ea + eb + l) % 7).toNat % 127
    if na != nb then (127 - r) % 127 else r
  | _, _ => 0
/-- One product in units of 2^(-L). -/
def units (l : Nat) : Fv → Fv → Int
  | .fin na ma ea, .fin nb mb eb => numAt (na != nb) (ma * mb) (ea + eb) (-l)
  | _, _ => 0

/-- The residue unit's sum over a group, and the group adder's output. -/
def residueSum (l : Nat) (ps : List (Fv × Fv)) : Nat := (ps.map fun p => residue l p.1 p.2).foldl (· + ·) 0 % 127
def adderSum (l : Nat) (ps : List (Fv × Fv)) : Int := (ps.map fun p => units l p.1 p.2).foldl (· + ·) 0
/-- A two's complement number of w bits with some bits flipped. -/
def flipBits (w : Nat) (x : Int) (mask : Nat) : Int :=
  let y := (x % 2 ^ w).toNat ^^^ (mask % 2 ^ w)
  if y < 2 ^ (w - 1) then y else (y : Int) - 2 ^ w
/-- The engine's comparison: the residue unit's sum with the adder's output modulo 127. -/
def residueAgrees (l : Nat) (ps : List (Fv × Fv)) (out : Int) : Bool := (residueSum l ps : Int) = out % 127

/-- The pairs of group g of cell (m, n). -/
def groupPairs (mem : Mem) (tt : Nat → TDesc) (d : Desc) (m n g : Nat) : List ((Fv × Nat) × (Fv × Nat)) :=
  (rangeFrom (32 * g) (min (mmK d) (32 * g + 32))).map fun k => (mmRawA mem tt d m k, mmRawB mem tt d k n)
/-- A group that takes its value from R61: any element NaN or infinite, or a scale of 0xFF. -/
def specialGroup (ps : List ((Fv × Nat) × (Fv × Nat))) : Bool :=
  ps.any fun p => !p.1.1.isFin || !p.2.1.isFin || p.1.2 = 0xFF || p.2.2 = 0xFF

/-- Bits that faults flip at a place of the tile. -/
def maskAt (fs : List CellFault) (m n g : Nat) : Nat :=
  (fs.filter fun c => c.m = m && c.n = n && c.g = g).foldl (fun x c => x ^^^ c.mask) 0

/-- A group of cell (m, n) whose adder output has bits flipped: its value, and whether the residues agree. A special
group's value does not come from the adder. -/
def faultyGroup (mem : Mem) (tt : Nat → TDesc) (d : Desc) (m n g mask : Nat) : F32 × Bool :=
  let ps := groupPairs mem tt d m n g
  let ea := (tt (mmA d)).elem; let eb := (tt (mmB d)).elem
  let l := pairLow ea eb
  let vs := ps.map fun p => (p.1.1, p.2.1)
  if specialGroup ps then
    (groupValue (mmElA mem tt d m) (fun k => mmElB mem tt d k n) (32 * g) (min (mmK d) (32 * g + 32)), true)
  else
    let out := flipBits (adderWidth ea eb) (adderSum l vs) mask
    let sc : Int := match ps with
      | p :: _ => (p.1.2 : Int) + p.2.2 - 254
      | [] => 0
    (f32r ((Fv.ofInt out).scale (sc - l)), residueAgrees l vs out)

/-! ## The compute stage (R60, R110-R112) -/

def mmGroups (d : Desc) : Nat := ceilDiv (mmK d) 32

/-- The accumulator of element (m, n) from its C value c, with what faults at its place (mr, nr) of the tile do. -/
def cellAcc (mem : Mem) (tt : Nat → TDesc) (d : Desc) (x : TileFault) (m n mr nr : Nat) (c : F32) : F32 :=
  let a := mmElA mem tt d m; let b := fun k => mmElB mem tt d k n
  if (x.adder ++ x.value).any fun f => f.m = mr && f.n = nr then
    (List.range (mmGroups d)).foldl (fun acc g =>
      let mask := maskAt x.adder mr nr g
      let gv := if mask = 0 then groupValue a b (32 * g) (min (mmK d) (32 * g + 32)) else (faultyGroup mem tt d m n g mask).1
      fadd acc gv ^^^ BitVec.ofNat 32 (maskAt x.value mr nr g)) c
  else canonDot c (mmK d) a b

/-- The C input of a tile, by row of its rectangle. -/
def tileC (mem : Mem) (tt : Nat → TDesc) (d : Desc) (i : Nat) : List F32 :=
  let (r0, r1, c0, c1) := mmRect d i
  (rangeFrom r0 r1).flatMap fun m => (rangeFrom c0 c1).map fun n => mmElC mem tt d m n

/-- The places of a tile, by row. -/
def tileCells (d : Desc) (i : Nat) : List (Nat × Nat) :=
  let (r0, r1, c0, c1) := mmRect d i
  (List.range (r1 - r0)).flatMap fun mr => (List.range (c1 - c0)).map fun nr => (mr, nr)

/-- The accumulators of a tile from its C values. -/
def tileAcc (mem : Mem) (tt : Nat → TDesc) (d : Desc) (i : Nat) (x : TileFault) (cs : List F32) : List F32 :=
  let (r0, _, c0, _) := mmRect d i
  ((tileCells d i).zip cs).map fun ((mr, nr), c) => cellAcc mem tt d x (r0 + mr) (c0 + nr) mr nr c

/-- The lowest of some group numbers. -/
def leastGroup (gs : List Nat) : Option Nat := gs.foldl (fun o g => some (min g (o.getD g))) none

/-- Faults at a cell and group that the tile has. -/
def inTileFaults (d : Desc) (i : Nat) (fs : List CellFault) : List CellFault :=
  let (r0, r1, c0, c1) := mmRect d i
  fs.filter fun f => f.m < r1 - r0 && f.n < c1 - c0 && f.g < mmGroups d

/-- The first group whose residue comparison fails. -/
def residueFault (mem : Mem) (tt : Nat → TDesc) (d : Desc) (i : Nat) (x : TileFault) : Option Nat :=
  let (r0, _, c0, _) := mmRect d i
  leastGroup (((inTileFaults d i x.adder).filter fun f =>
    !(faultyGroup mem tt d (r0 + f.m) (c0 + f.n) f.g (maskAt x.adder f.m f.n f.g)).2).map (·.g))
/-- The first group at which the two copies of a cell differ (R112). -/
def copyFault (d : Desc) (i : Nat) (x : TileFault) : Option Nat :=
  leastGroup (((inTileFaults d i x.copy).filter fun f => maskAt x.copy f.m f.n f.g % 2 ^ 32 != 0).map (·.g))

/-! ## The checksum (R113, R114) -/

/-- FP32 rounded toward +Inf of a non-negative value. -/
def f32up (v : Fv) : F32 :=
  match v with
  | .fin false m e =>
    if m = 0 then f32Zero
    else
      let c := magCode (.stoch 0xFFFFFFFF) 23 (-126) m e
      let lo := BitVec.ofNat 32 c
      if c ≥ 0x7F800000 then f32Inf
      else if (f32v lo).cmp v = 0 then lo else BitVec.ofNat 32 (c + 1)
  | _ => f32r v

/-- W_n + C_n of a column: W_n adds its products in ascending k and C_n the magnitudes of C in ascending m, each
product-and-add rounded toward +Inf once, and their sum once more (DESIGN CHOICE, assumption 39: the spec gives these
two sums no order and no places of rounding). -/
def colMass (mem : Mem) (tt : Nat → TDesc) (d : Desc) (rows : List Nat) (n : Nat) (cs : List F32) : F32 :=
  let w : F32 := (List.range (mmK d)).foldl (fun (acc : F32) k =>
    let rho : Fv := rows.foldl (fun (s : Fv) m => s.add (mmElA mem tt d m k).abs) (.fin false 0 0)
    f32up ((f32v acc).add (rho.mul (mmElB mem tt d k n).abs))) f32Zero
  let c : F32 := cs.foldl (fun (acc : F32) x => f32up ((f32v acc).add (f32v x).abs)) f32Zero
  f32up ((f32v w).add (f32v c))

/-- The reference w_n: the FP32 sum of C in ascending m, plus the products of the exact column sums r_k by the rule of
R60 over the same groups (their order: assumption 39). -/
def colReference (mem : Mem) (tt : Nat → TDesc) (d : Desc) (rows : List Nat) (n : Nat) (cs : List F32) : F32 :=
  let r (k : Nat) : Fv := rows.foldl (fun (s : Fv) m => s.add (mmElA mem tt d m k)) (.fin false 0 0)
  fadd (cs.foldl fadd f32Zero) (canonDot f32Zero (mmK d) r fun k => mmElB mem tt d k n)

/-- The threshold τ_n of a column whose W_n + C_n is `mass`, exact and rounded toward +Inf once. -/
def colThreshold (d : Desc) (mass : F32) : F32 :=
  let g := mmGroups d + 72
  f32up (((Fv.fin false (17 * g) (-26)).mul (f32v mass)).add (.fin false g (-140)))

/-- The values of column n of a tile among those of its rectangle of `w` columns. -/
def tileCol (w nr : Nat) (xs : List F32) : List F32 := (xs.zipIdx.filter fun e => e.2 % w = nr).map (·.1)

/-- Reference and threshold of each real column of a tile, and whether its test is not applied. -/
def tileSums (mem : Mem) (tt : Nat → TDesc) (d : Desc) (i : Nat) (cs : List F32) : List (F32 × F32) × Bool :=
  let (r0, r1, c0, c1) := mmRect d i
  let rows := rangeFrom r0 r1; let ks := List.range (mmK d)
  let col (nr : Nat) : List F32 := tileCol (c1 - c0) nr cs
  let mass (nr : Nat) : F32 := colMass mem tt d rows (c0 + nr) (col nr)
  let odd := rows.any (fun m => ks.any fun k => !(mmElA mem tt d m k).isFin) ||
    (rangeFrom c0 c1).any (fun n => ks.any fun k => !(mmElB mem tt d k n).isFin) || cs.any fun c => !fisFin c
  if odd || (List.range (c1 - c0)).any (fun nr => mass nr = f32Inf) then ([], true)
  else ((List.range (c1 - c0)).map fun nr =>
    (colReference mem tt d rows (c0 + nr) (col nr), colThreshold d (mass nr)), false)

/-- Whether a column passes: its sum of accumulators, taken in ascending m, lies within the threshold. -/
def colPasses (vs : List F32) (w tau : F32) : Bool :=
  let sv := vs.foldl fadd f32Zero
  sv = w || (fisFin sv && fisFin w && ((f32v sv).add (f32v w).neg).abs.cmp (f32v tau) ≤ 0)
/-- The first real column whose test fails. -/
def checksumFault (d : Desc) (i : Nat) (acc : List F32) (sums : List (F32 × F32)) : Option Nat :=
  let (_, _, c0, c1) := mmRect d i
  (sums.zipIdx.find? fun e => !colPasses (tileCol (c1 - c0) e.2 acc) e.1.1 e.1.2).map fun e => c0 + e.2

/-! ## Banks (R89) -/

/-- A bank after the compute stage of its tile, with what faults left in it. -/
def Bank.computed (b : Bank) (mem : Mem) (tt : Nat → TDesc) (d : Desc) (i : Nat) (x : TileFault) : Bank :=
  let cs := if b.retried then tileC mem tt d i else b.acc
  let (sums, exempt) := tileSums mem tt d i cs
  { b with
    full := true, acc := tileAcc mem tt d i x cs, ecc := x.ecc, res := residueFault mem tt d i x, dup := copyFault d i x,
    sums := sums, exempt := exempt }

/-- A full bank as its tile drains: bits of its values that faults flip. -/
def Bank.drained (b : Bank) (d : Desc) (i : Nat) (x : TileFault) : List F32 :=
  ((tileCells d i).zip b.acc).map fun ((mr, nr), v) =>
    (x.value.filter fun f => f.m = mr && f.n = nr).foldl (fun v f => v ^^^ BitVec.ofNat 32 f.mask) v

/-- Whether the two results of an epilogue pair differ. -/
def laneFault (d : Desc) (i : Nat) (x : TileFault) : Bool :=
  let (r0, r1, c0, c1) := mmRect d i
  x.lane.any fun f => f.m < r1 - r0 && f.n < c1 - c0 && f.mask % 2 ^ 32 != 0

end Sys2Proof.Machine
end

