-- ==== Sys2Proof/Machine/Units.lean ====
section
/-!
DEFINITION. Units at work: starting an item of work, the injections armed through MME_INJECT, VEC_INJECT,
ROW_INJECT and UPD_INJECT (03 R121, 04 R152, 05 R183, 07 R295), fencing (03 R116, 04 R148, 05 R179, 07 R292).
-/
namespace Sys2Proof.Machine

/-- Position of a unit among those of a command. -/
def Flight.posOf (f : Flight) (k : Nat) : Nat := f.units.findIdx fun u => u.key = k

/-- The injection register of a unit: register, die, the unit's number in it, and the top bit of that field. -/
def injectReg (k : Nat) : Option (RegName × Nat × Nat × Nat) :=
  let die := k / 64; let u := k % 64
  if die < 4 then
    if u < 24 then some (.MME_INJECT, die, u, 4)
    else if u < 28 then some (.VEC_INJECT, die, u - 24, 1)
    else if u < 32 then some (.ROW_INJECT, die, u - 28, 1)
    else none
  else if die < 6 then some (.UPD_INJECT, die, u, 3)
  else none

/-- The kind of an injection armed for a unit. -/
def armedKind (s : State) (k : Nat) : Option Nat :=
  match injectReg k with
  | none => none
  | some (r, die, u, hi) =>
    if rbit s r die 0 31 && rfld s r die 0 hi 0 = u then some (rfld s r die 0 9 8) else none

/-- Whether a kind acts at the start of an item of work: reduction-copy kinds wait for a fold (04 R152), scalar and fold
kinds of a row engine for such a result (05 R183). -/
def kindAtStart (k kind : Nat) : Bool := !(k / 64 < 4 && 24 ≤ k % 64 && k % 64 < 32 && kind % 2 = 1)

/-- Row engine item n: row, pass and chunk (05 R156). -/
def rowItem (s : State) (f : Flight) (p n : Nat) : Nat × Nat × Nat :=
  let c := rowChunks f.desc
  let np := rowNumPasses (progOf s f.desc) f.desc
  let r := (rowShare (rRows f.desc) f.units.length p).getD (n / (np * c)) 0
  (r, n / c % np, n % c)

/-- The slot a row command's records name, where it uses one. -/
def rowSlotItem (f : Flight) : Item := if rStatEn f.stored then .num 2 (rSlot f.stored) else naItem 2

/-- Row or band of a vector item as its records give it (04 R150). -/
def vecPlace (f : Flight) (p n : Nat) : Nat × Nat :=
  let (r, j) := vItem f.desc f.units.length p n
  (if vIsEw f.desc && vDMxax f.desc = 1 then r / 32 else r, j)

/-- The failing place in a record of a matrix engine (03 R118): a group or a column; an injection of KIND 0b11 names
group 0 and the tile's first column (R121). -/
def tilePlace (inj c0 place : Nat) : List Item := if inj = 4 then [.num 4 0, .num 4 c0] else [.num 4 place]

/-- The record of an injection made in item n of a unit. -/
def injectRecord (s : State) (f : Flight) (u : UW) (kind : Nat) : Eff :=
  let k := u.key
  let die := k / 64; let l := k % 64
  let p := f.posOf k
  if die < 4 && l < 24 then
    let i := mmTileNo f.units.length p u.n
    let (_, _, c0, _) := mmRect f.desc i
    emit 0x0414 die ([.num 1 l, .num 4 i] ++ tilePlace (kind + 1) c0 (if kind = 2 then c0 else 0) ++ [.num 4 f.pos])
  else if die < 4 && l < 28 then
    let (r, j) := vecPlace f p u.n
    emit 0x0423 die [.num 1 (l - 24), .num 4 r, .num 4 j, .num 4 f.pos]
  else if die < 4 then
    let (r, _, j) := rowItem s f p u.n
    emit 0x0432 die [.num 1 (l - 28), .num 4 r, .num 4 j, rowSlotItem f, .num 4 f.pos]
  else
    let (g, b) := u.work.getD u.n (0, 0)
    emit 0x044C die (updItems s f.sq (if f.op = 0x81 then none else some g) (some b) (some l) (some f.pos))

/-- An injection is made: ARM clears and its record is written. -/
def takeInjection (s : State) (f : Flight) (u : UW) (kind : Nat) : Eff :=
  match injectReg u.key with
  | none => .skip
  | some (r, die, _, _) => .seq (putR r die 0 31 31 0) (injectRecord s f u kind)

/-- Whether a unit's work is held: by the gate, for a verdict or for a stat slot. -/
def workHeld (s : State) (f : Flight) (k : Nat) : Bool := (gated k && gateHeld s) || heldForVerdict s f || f.slotWait

/-- A matrix engine starts its next tile when no tile is in its compute stage and a bank is free (03 R89, R90); an armed
injection acts in it, and the tile after it has its C input loaded into the fourth bank. -/
def startTile (k : Nat) : Eff :=
  .get fun s =>
    match nextTile (unitParts s k) with
    | none => .skip
    | some (f, u) =>
      if 3 ≤ tilesIn s k || workHeld s f k then .skip
      else
        let j := u.begun
        let load (n : Nat) : Bank :=
          { pre := true, acc := tileC s.mem (tget s f.die) f.desc (mmTileNo f.units.length (f.posOf k) (u.n + n)) }
        let inj := match armedKind s k with
          | some kind => kind + 1
          | none => 0
        let banks := u.banks.take j ++ [{ u.banks.getD j (load j) with pre := false, inj := inj }] ++
          (if j + 1 < u.left then [load (j + 1)] else [])
        .seq (putFlight (f.putUnit { u with started := true, banks := banks }))
          (Eff.when (inj != 0) (takeInjection s f { u with n := u.n + j } (inj - 1)))

/-- The failures of units of work that a vector unit is to pass on their retry: kind (1 lanes, 2 reduction copies, 4
reduction copies that an injection of KIND 0b11 fails again) and item. -/
def retryPairs : List Nat → List (Nat × Nat)
  | k :: n :: t => (k, n) :: retryPairs t
  | _ => []
def flatPairs (l : List (Nat × Nat)) : List Nat := l.flatMap fun p => [p.1, p.2]
/-- Whether items n and m lie in one unit of work. -/
def sameWork (d : Desc) (n m : Nat) : Bool := vIsEw d || n / redPer d = m / redPer d
/-- The first failure of the unit of work that item n lies in, while it is being retried. -/
def priorFail (d : Desc) (u : UW) (n : Nat) : Option (Nat × Nat) :=
  if u.retried then (retryPairs u.sc).find? fun p => sameWork d p.2 n else none
/-- Whether the item a unit is to start belongs to work that it is retrying. -/
def inRetry (f : Flight) (u : UW) : Bool :=
  if f.op = 0x40 || f.op = 0x41 then (priorFail f.desc u u.n).isSome else u.retried

/-- What a row engine does as it starts a chunk: it loads its broadcast buffer before its first row of a normalisation
command (05 R153), and watches for a scalar or fold result while an injection of one is armed for it (05 R183). -/
def rowStart (s : State) (f : Flight) (u : UW) : UW :=
  if isRowOp f.op then
    { u with bc := if u.n = 0 && u.bc.isEmpty then rowBroadcast s.mem (tget s f.die) f.desc else u.bc,
             watch := (armedKind s u.key).any fun kind => kind % 2 = 1 }
  else u

/-- A unit starts its next item of work, if it has one and nothing holds it; an armed injection acts in it, one of KIND
0b00 in a first attempt alone. -/
def startUnit (k : Nat) : Eff :=
  if isEngine k then startTile k
  else .get fun s =>
    match unitWork s k with
    | none => .skip
    | some (f, u0) =>
      if u0.started || workHeld s f k then .skip
      else
        let u := { rowStart s f u0 with started := true }
        match armedKind s k with
        | some kind =>
          if kindAtStart k kind && u.inj = 0 && !(kind = 0 && inRetry f u) then
            .seq (putFlight (f.putUnit { u with inj := kind + 1 })) (takeInjection s f u kind)
          else putFlight (f.putUnit u)
        | none => putFlight (f.putUnit u)

/-- Every unit of a command starts. -/
def startUnits (f : Flight) : Eff := Eff.each f.units fun u => startUnit u.key

/-- What a unit is working on, if it has started. -/
def workOf (s : State) (k : Nat) : Option (Flight × UW) :=
  match unitWork s k with
  | some (f, u) => if u.started then some (f, u) else none
  | none => none

/-- The unit's item is done: it goes on to the next one. -/
def nextItem (f : Flight) (u : UW) : Eff :=
  .seq (putFlight (f.putUnit { u with n := u.n + 1, started := false, retried := false, inj := 0, sc := [] }))
    (startUnit u.key)

/-- The fence bit of a unit. -/
def fenceReg (k : Nat) : RegName × Nat × Nat :=
  let die := k / 64; let u := k % 64
  if die < 4 then
    if u < 24 then (.MME_FENCED, die, u)
    else if u < 28 then (.VEC_FENCED, die, u - 24)
    else if u < 32 then (.ROW_FENCED, die, u - 28)
    else (.DIG_PU_FENCED, 6, 8 * die + (u - 40))
  else (.UPD_FENCED, die, u)

/-- A unit is fenced: it abandons what it has of every issued command, which is skipped under HARD_FAULT. A command of
which it has only folds pending, its lanes being at a later one, goes on folding, and retries what fails (DESIGN CHOICE,
assumption 40). -/
def fenceUnit (k : Nat) : Eff :=
  .get fun s =>
    let (r, die, i) := fenceReg k
    .seq (modR r die 0 fun w => w ||| 2 ^ i)
      (Eff.each (s.cp.flights.filter fun f => f.units.any fun u => u.key = k && 0 < u.left) fun f =>
        let drop (u : UW) : UW :=
          if u.key = k then
            let per := if f.op = 0x40 then max 1 (vChunks f.desc) else if f.op = 0x41 then max 1 (vRows f.desc) else 1
            let n := if f.op = 0x40 || f.op = 0x41 then u.fold * per else u.n
            { u with n := n, total := n, started := false, sc := [], banks := [] }
          else u
        skipFlight { f with units := f.units.map drop } 0x11)

/-- A status register of a unit takes one more retry, and the kind of its failure where it shows it. -/
def noteRetry (r : RegName) (die i : Nat) (kind : Nat) (again : Bool) : Eff :=
  .seq (Eff.when (kind != 0) (putR r die i 25 24 kind)) (Eff.when again (incFld r die i 23 0 1))

end Sys2Proof.Machine
end

