-- ==== Sys2Proof/Machine/ExecMatrix.lean ====
section
/-!
DEFINITION. Matrix commands and their tiles: MM.F, MM.B, the end of a tile's compute and check stages, and the
injection register (03 R90, R106, R110-R121).
-/
namespace Sys2Proof.Machine

def execMmF (die : Fin 4) (q : Fin 16) (s : State) : Host.Outcome State Fault Refusal :=
  done (opcodeRow 0x10 die q startUnits) s

def execMmB (die : Fin 4) (q : Fin 16) (s : State) : Host.Outcome State Fault Refusal :=
  done (opcodeRow 0x11 die q startUnits) s

/-- The check that fails on a tile, first in the order of R118, with its place: 1 residue, 2 duplication, 3 checksum,
and after them 0, the tile store's ECC, which has no place (all ones, as an epilogue pair has no group). `column` is the
first column whose checksum fails, `lane` and `ecc` whether an epilogue pair differs and whether the ECC found an error.
An injection of kind `inj - 1` adds its own (R121); kinds 0 to 2 act on the first attempt only. -/
def tileFailure (b : Bank) (column : Option Nat) (lane ecc : Bool) (c0 : Nat) : Option (Nat × Nat) :=
  let on (k : Nat) : Bool := b.inj = 4 || (b.inj = k && !b.retried)
  if on 1 then some (1, 0)
  else match b.res with
  | some g => some (1, g)
  | none =>
    if on 2 then some (2, 0)
    else match b.dup with
    | some g => some (2, g)
    | none =>
      if lane then some (2, 2 ^ 32 - 1)
      else if on 3 then some (3, c0)
      else match (if b.exempt then none else column) with
      | some n => some (3, n)
      | none => if b.ecc || ecc then some (0, 2 ^ 32 - 1) else none

/-- The corrected fault of a tile that passes on its retry (R115): the bit, counter and record that match its first
failure. An ECC failure has none of its own (DESIGN CHOICE, assumption 39). -/
def tileCorrected (die e i pos : Nat) (first : Nat × Nat) : Eff :=
  let kind := first.1
  Eff.when (kind != 0) (Eff.all [
    setFault .MME_FAULT die (kind - 1),
    incR (if kind = 1 then .MME_RES_CORR_COUNT else if kind = 2 then .MME_DUP_CORR_COUNT else .MME_CHK_CORR_COUNT) die 0 1,
    emit (0x0410 + (kind - 1)) die [.num 1 e, .num 4 i, .num 4 first.2, .num 4 pos]])

/-- A tile ends its compute stage (R89): its bank is full, and the engine starts its next tile. It waits while the
check and epilogue stages each hold a tile. -/
def tileComputed (die e : Nat) (x : TileFault) : Eff :=
  let k := die * 64 + e
  .seq (startUnit k) (.get fun s =>
    let full := (((unitParts s k).flatMap fun p => p.2.banks).filter fun b => b.full).length
    match (unitParts s k).find? fun p => p.2.computing with
    | none => .skip
    | some (f, u) =>
      let j := u.banks.findIdx fun b => !b.pre && !b.full
      let i := mmTileNo f.units.length (f.posOf k) (u.n + j)
      Eff.when (decide (full < 2)) (.seq
        (putFlight (f.putUnit { u with banks := u.banks.set j ((u.banks.getD j {}).computed s.mem (tget s die) f.desc i x) }))
        (startUnit k)))

/-- The oldest tile of an engine ends its check and epilogue stages (R110-R116), and its compute stage if it was still
in that: written when every check passes, computed once more after a first failure, a hard fault after a second. The
record of a hard fault names the place at which the second attempt failed (DESIGN CHOICE, assumption 39). -/
def tileDone (die e : Nat) (x : TileFault) : Eff :=
  .seq (startUnit (die * 64 + e)) (.get fun s =>
    let k := die * 64 + e
    match workOf s k with
    | none => .skip
    | some (f, u) =>
      let tt := tget s die
      let i := mmTileNo f.units.length (f.posOf k) u.n
      let (_, _, c0, _) := mmRect f.desc i
      let b0 := u.banks.getD 0 {}
      let b := if b0.full then { b0 with acc := b0.drained f.desc i x } else b0.computed s.mem tt f.desc i x
      match tileFailure b (checksumFault f.desc i b.acc b.sums) (laneFault f.desc i x) x.ecc c0 with
      | none =>
        let (ws, ovf) := mmTile s.mem tt f.desc (stepOf s f.sq).stepNo i b.acc
        let rest := u.banks.drop 1
        Eff.all [
          writeMem ws,
          Eff.when ovf (raiseOverflow f.sq),
          Eff.when b.exempt (incR .MME_CHK_SKIP_COUNT die 0 1),
          Eff.when b.retried (tileCorrected die e i f.pos b.failed),
          incR64 .MME_TILE_COUNT die 0 1,
          putFlight (f.putUnit { u with n := u.n + 1, started := rest.any fun b => !b.pre, banks := rest }),
          startUnit k]
      | some (kind, place) =>
        if !b.retried then Eff.all [
          noteRetry .MME_ENG_STATUS die e kind true,
          putFlight ({ f with marks := f.marks ||| 8 }.putUnit
            { u with banks := u.banks.set 0 { inj := b.inj, retried := true, failed := (kind, place) } })]
        else Eff.all [
          noteRetry .MME_ENG_STATUS die e kind false,
          setFault .MME_FAULT die 3,
          Eff.when b.exempt (incR .MME_CHK_SKIP_COUNT die 0 1),
          emit 0x0413 die ([.num 1 e, .num 4 i] ++ tilePlace b.inj c0 place ++ [.num 4 f.pos]),
          fenceUnit k,
          startUnit k])

def execMmeTileDone (die : Fin 4) (e : Fin 24) (x : TileFault) (s : State) : Host.Outcome State Fault Refusal :=
  done (if x.compute then tileComputed die e x else tileDone die e x) s

/-- A write of an injection register: the fields the register table calls RW, and ARM, which a write can only set. -/
def injectWrite (r : RegName) (die field v : Nat) : Eff :=
  modR r die 0 fun w => (w &&& 2 ^ 31) ||| (v &&& (2 ^ 31 ||| field))

/-- The engine an armed injection names starts with it when it next starts a tile. -/
def execMmeInjectArm (die : Fin 4) (v : BitVec 32) (s : State) : Host.Outcome State Fault Refusal :=
  done (injectWrite .MME_INJECT die 0x31F v.toNat) s

end Sys2Proof.Machine
end

