-- ==== Sys2Proof/Machine/ExecVector.lean ====
section
/-!
DEFINITION. Vector and reduction commands, the end of their chunks and folds, and the injection register
(04 R131-R152).
-/
namespace Sys2Proof.Machine

def execVecEw (die : Fin 4) (q : Fin 16) (s : State) : Host.Outcome State Fault Refusal :=
  done (opcodeRow 0x20 die q startUnits) s

def execRedRow (die : Fin 4) (q : Fin 16) (s : State) : Host.Outcome State Fault Refusal :=
  done (opcodeRow 0x40 die q startUnits) s

def execRedCol (die : Fin 4) (q : Fin 16) (s : State) : Host.Outcome State Fault Refusal :=
  done (opcodeRow 0x41 die q startUnits) s

/-- A unit after the unit of work that item n lies in has passed. -/
def passWork (d : Desc) (u : UW) (n : Nat) : UW :=
  let rest := (retryPairs u.sc).filter fun p => !sameWork d p.2 n
  { u with retried := !rest.isEmpty, sc := flatPairs rest }

/-- A failure of kind 1 (lanes), 2 or 4 (reduction copies) in item n: the unit of work is computed once more from its
first item, or the unit is fenced (R147, R148). `inj` is what an injection still holds for the second attempt. -/
def vecFail (f : Flight) (u : UW) (kind n first inj : Nat) : Eff :=
  let k := u.key
  let die := k / 64; let l := k % 64 - 24
  let shown := if kind = 1 then 1 else 2
  let (r, j) := vecPlace f (f.posOf k) n
  if (priorFail f.desc u n).isNone then Eff.all [
    noteRetry .VEC_UNIT_STATUS die l shown true,
    putFlight ({ f with marks := f.marks ||| 8 }.putUnit
      { u with n := first, retried := true, started := false, inj := inj, sc := flatPairs ((kind, n) :: retryPairs u.sc) }),
    startUnit k]
  else Eff.all [
    noteRetry .VEC_UNIT_STATUS die l shown false,
    setFault (if kind = 1 then .VEC_FAULT else .RED_FAULT) die 1,
    emit 0x0422 die [.num 1 l, .num 4 r, .num 4 j, .num 1 (shown - 1), .num 4 f.pos],
    putFlight (f.putUnit { u with n := first }),
    fenceUnit k,
    startUnit k]

/-- A unit of work whose first failure was `p` passed on its retry (R147). -/
def vecCorrected (f : Flight) (u : UW) (p : Nat × Nat) : Eff :=
  let die := u.key / 64; let l := u.key % 64 - 24
  let kind := if p.1 = 1 then 1 else 2
  let (r, j) := vecPlace f (f.posOf u.key) p.2
  Eff.all [
    setFault (if kind = 1 then .VEC_FAULT else .RED_FAULT) die 0,
    incR (if kind = 1 then .VEC_PAIR_CORR_COUNT else .RED_PAIR_CORR_COUNT) die 0 1,
    emit (0x041F + kind) die [.num 1 l, .num 4 r, .num 4 j, .num 4 f.pos]]

/-- Writes of the unit of work of VEC.EW that ends with item n, whether it raises OVERFLOW, and its elements. -/
def ewWork (s : State) (f : Flight) (p n : Nat) : List Wr × Bool × Nat :=
  let d := f.desc
  let (r, j) := vItem d f.units.length p n
  let r0 := if vDMxax d = 1 then r / 32 * 32 else r
  let r1 := if vDMxax d = 1 then min (vRows d) (r0 + 32) else r + 1
  let c0 := 1024 * j
  let c1 := min (vCount d) (c0 + 1024)
  let (ws, o) := ewRect s.mem (tget s f.die) d (stepOf s f.sq).stepNo r0 r1 c0 c1
  (ws, o, (r1 - r0) * (c1 - c0))

/-- The end of a chunk in a vector unit's lanes (R145, R147). A reduction's lanes go on to the next row or column
chunk while the fold of the one before is pending. -/
def chunkDone (die l : Nat) (mismatch : Bool) : Eff :=
  .seq (startUnit (die * 64 + 24 + l)) (.get fun s =>
    let k := die * 64 + 24 + l
    match workOf s k with
    | none => .skip
    | some (f, u) =>
      let p := f.posOf k
      let ew := vIsEw f.desc
      let (last, first) := vLastOfWork f.desc f.units.length p u.n
      let prior := priorFail f.desc u u.n
      let hit := (u.inj = 1 && prior.isNone) || (u.inj = 3 && prior.all fun x => x.2 = u.n)
      if mismatch || hit then vecFail f u 1 u.n first (if u.inj = 3 then 3 else 0)
      else if ew && last then
        let (ws, ovf, n) := ewWork s f p u.n
        Eff.all [writeMem ws, Eff.when ovf (raiseOverflow f.sq), Eff.opt prior (vecCorrected f u),
          incR64 .VEC_ELEM_COUNT die 0 n, nextItem f u]
      else .seq (putFlight (f.putUnit { u with n := u.n + 1, started := false })) (startUnit k))

def execVecChunkDone (die u : Fin 4) (mismatch : Option Nat) (s : State) : Host.Outcome State Fault Refusal :=
  done (chunkDone die u mismatch.isSome) s

/-- The reduction whose fold a unit's copies are comparing: the first in order of issue that the unit has not finished,
once it has a fold due. -/
def foldWork (s : State) (k : Nat) : Option (Flight × UW) :=
  match s.cp.flights.findSome? fun f =>
    if f.op = 0x40 || f.op = 0x41 then (f.units.find? fun u => u.key = k && !UW.finished f.desc u).map fun u => (f, u)
    else none with
  | some (f, u) => if 0 < foldsDue f.desc u then some (f, u) else none
  | none => none

/-- The end of a fold: the two copies are compared, and the row or column chunk is written (R139-R148). An injection of
KIND 0b01 waits for a first attempt. The record of a reduction-copy failure names the first item of its unit of work:
chunk 0 of a RED.ROW row, row 0 of a RED.COL column chunk (DESIGN CHOICE, assumption 40). -/
def foldDone (die l : Nat) (mismatch : Bool) : Eff :=
  .get fun s =>
    let k := die * 64 + 24 + l
    match foldWork s k with
    | none => .skip
    | some (f, u) =>
      let p := f.posOf k
      let first := u.fold * redPer f.desc
      let prior := priorFail f.desc u first
      let kind := match armedKind s k with
        | some c => if c = 3 || (c = 1 && prior.isNone) then some c else none
        | none => none
      .seq (Eff.opt kind fun c => takeInjection s f { u with n := first } c)
        (if mismatch || kind.isSome || prior.any (fun x => x.1 = 4) then
          vecFail f u (if kind = some 3 then 4 else 2) first first u.inj
        else
          let (r, j) := vItem f.desc f.units.length p first
          let (ws, ovf) := redFold s.mem (tget s die) f.desc (if vIsRow f.desc then r else j)
          Eff.all [writeMem ws, Eff.when ovf (raiseOverflow f.sq), Eff.opt prior (vecCorrected f u),
            incR64 .RED_ROW_COUNT die 0 1,
            putFlight (f.putUnit { passWork f.desc u first with fold := u.fold + 1 }),
            startUnit k])

def execRedFoldDone (die u : Fin 4) (mismatch : Option Nat) (s : State) : Host.Outcome State Fault Refusal :=
  done (foldDone die u mismatch.isSome) s

def execVecInjectArm (die : Fin 4) (v : BitVec 32) (s : State) : Host.Outcome State Fault Refusal :=
  done (injectWrite .VEC_INJECT die 0x303 v.toNat) s

end Sys2Proof.Machine
end

