-- ==== Sys2Proof/Machine/ExecRow.lean ====
section
/-!
DEFINITION. Row commands, the stat store's slots, the end of a row engine's chunk, and the injection register
(05 R156-R183).
-/
namespace Sys2Proof.Machine

/-! ## Stat slots (R169-R172) -/

def putSlot (die n : Nat) (x : StatSlot) : Eff :=
  modCp fun c => { c with slotsStat := mset {} c.slotsStat (statKey die n) x }

/-- Granules a die's slots hold: base and count. -/
def usedRuns (s : State) (die : Nat) : List (Nat × Nat) :=
  (s.cp.slotsStat.filter fun e => e.1 / 1024 = die && (e.2.state = 1 || e.2.state = 2)).map fun e => (e.2.base, e.2.gran)
def granulesOf (s : State) (die : Nat) : Nat := rfld s .ROW_STAT_CFG die 0 10 0
/-- The lowest run of n free granules. -/
def findRun (s : State) (die n : Nat) : Option Nat :=
  (List.range (granulesOf s die + 1 - n)).find? fun b =>
    (usedRuns s die).all fun (x, k) => decide (b + n ≤ x) || decide (x + k ≤ b)

/-- Granules in use. -/
def granulesUsed (s : State) (die : Nat) : Nat := ((usedRuns s die).map (·.2)).foldl (· + ·) 0
/-- The highest number of granules in use since the last read. -/
def notePeak (die : Nat) : Eff :=
  .get fun s =>
    let used := granulesUsed s die
    putR .ROW_STAT_CFG die 0 26 16 (max used (rfld s .ROW_STAT_CFG die 0 26 16))

/-- What names a command among those of its die. -/
def Flight.owner (f : Flight) : Nat := 1 + f.q * 2 ^ 32 + f.pos
/-- Whether a forward command's slot is pending for it. -/
def pendingFor (s : State) (f : Flight) : Bool :=
  let x := statSlot s f.die (rSlot f.desc)
  rowClaims f.desc && x.state = 1 && x.owner = f.owner

/-- Release, key and allocation of a forward command's slot. -/
def claimSlot (f : Flight) : Eff :=
  .get fun s =>
    let n := rSlot f.desc
    let key := { rowKey s f.die f.desc with xtag := f.xtag, owner := f.owner }
    let g := ceilDiv (rRows f.desc) 1024
    .seq (putSlot f.die n {}) (.get fun s =>
      match findRun s f.die g with
      | some b => .seq (putSlot f.die n { key with state := 1, base := b, gran := g }) (notePeak f.die)
      | none => putSlot f.die n { key with state := 3 })

/-- What a row command does at issue: a forward command claims its slot, or waits while a running command reads
it; a backward command fixes whether it reads its statistics. `ecc` are the rows whose entries read with an
uncorrectable error, `corr` the corrected errors. -/
def startRow (ecc : List Nat) (corr : Nat) (f : Flight) : Eff :=
  .get fun s =>
    let n := rSlot f.desc
    if rowClaims f.desc then
      let f := { f with xtag := (tget s f.die (rS0 f.desc)).vtag }
      if (slotReaders s f.die n).isEmpty then .seq (claimSlot f) (startUnits f)
      else putFlight { f with slotWait := true, boundFrom := none }
    else
      let hit := rowReads f.desc && (statSlot s f.die n).state = 2
      let f := { f with statHit := hit, ecc := if hit then ecc else [],
                        boundFrom := if heldForVerdict s f then none else f.boundFrom }
      Eff.all [putFlight f, Eff.when hit (incR .ROW_STAT_ECC_COUNT f.die 0 corr), startUnits f]

def execRowLnF (die : Fin 4) (q : Fin 16) (s : State) : Host.Outcome State Fault Refusal :=
  done (opcodeRow 0x50 die q (startRow [] 0)) s
def execRowLnB (die : Fin 4) (q : Fin 16) (ecc : List Nat) (corr : Nat) (s : State) : Host.Outcome State Fault Refusal :=
  done (opcodeRow 0x51 die q (startRow ecc corr)) s
def execRowRmsF (die : Fin 4) (q : Fin 16) (s : State) : Host.Outcome State Fault Refusal :=
  done (opcodeRow 0x52 die q (startRow [] 0)) s
def execRowRmsB (die : Fin 4) (q : Fin 16) (ecc : List Nat) (corr : Nat) (s : State) : Host.Outcome State Fault Refusal :=
  done (opcodeRow 0x53 die q (startRow ecc corr)) s
def execRowSmaxF (die : Fin 4) (q : Fin 16) (s : State) : Host.Outcome State Fault Refusal :=
  done (opcodeRow 0x54 die q (startRow [] 0)) s
def execRowSmaxB (die : Fin 4) (q : Fin 16) (ecc : List Nat) (corr : Nat) (s : State) : Host.Outcome State Fault Refusal :=
  done (opcodeRow 0x55 die q (startRow ecc corr)) s
def execRowXentF (die : Fin 4) (q : Fin 16) (s : State) : Host.Outcome State Fault Refusal :=
  done (opcodeRow 0x56 die q (startRow [] 0)) s
def execRowXentB (die : Fin 4) (q : Fin 16) (ecc : List Nat) (corr : Nat) (s : State) : Host.Outcome State Fault Refusal :=
  done (opcodeRow 0x57 die q (startRow ecc corr)) s
def execRowActd (die : Fin 4) (q : Fin 16) (s : State) : Host.Outcome State Fault Refusal :=
  done (opcodeRow 0x58 die q (startRow [] 0)) s
def execRowProg (die : Fin 4) (q : Fin 16) (ecc : List Nat) (corr : Nat) (s : State) : Host.Outcome State Fault Refusal :=
  done (opcodeRow 0x5F die q (startRow ecc corr)) s

/-! ## A row's passes -/

/-- Address of a row's entry in the stat store (R169, 01 R21). -/
def statAddr (die gran r : Nat) : Nat := 0x400040000000 + die * 0x100000000 + 8 * (1024 * gran + r)

/-- Scalar registers and fold results an engine holds within a row: how many registers, they, then the folds. -/
def encSc (sc folds : List F32) : List Nat := sc.length :: (sc.map (·.toNat) ++ folds.map (·.toNat))
def decSc (l : List Nat) : List F32 × List F32 :=
  let v := (l.drop 1).map fun x => BitVec.ofNat 32 x
  (v.take (l.headD 0), v.drop (l.headD 0))

/-- Loss scale of a step as FP32 (07 R265). -/
def lossScale (s : State) (n : Nat) : F32 := ldexpRn f32One (stepOf s n).lsExp

/-- Whether row r of a command recomputes its statistics. -/
def rowRecomputes (f : Flight) (r : Nat) : Bool := !f.statHit || f.ecc.contains r

/-- An engine at the start of a row whose statistics its slot holds goes past the stat passes (R171). -/
def enterRow (s : State) (f : Flight) (u : UW) : UW :=
  let ps := progOf s f.desc
  let c := rowChunks f.desc
  let np := rowNumPasses ps f.desc
  let sp := rowStatPasses ps f.desc
  let r := (rowItem s f (f.posOf u.key) u.n).1
  if u.n % (np * c) = 0 && !rowRecomputes f r && sp < np then
    let a := statAddr f.die (statSlot s f.die (rSlot f.desc)).base r
    let sc := rowOfStat ps f.desc (BitVec.ofNat 32 (rdNat s.mem a 4)) (BitVec.ofNat 32 (rdNat s.mem (a + 4) 4))
    { u with n := u.n + sp * c, sc := encSc sc [] }
  else u

/-- Destination of row output o. -/
def rowDst (d : Desc) (o : Nat) : Nat := if o = 0 then rD0 d else if o = 1 then rD1 d else rD2 d

/-- Row writes of a pass over elements [c0, c1) of row r, and whether they raise OVERFLOW (R168). -/
def rowWrites (s : State) (f : Flight) (p : RowPass) (sc : List F32) (r c0 c1 : Nat) : List Wr × Bool :=
  let outs := p.writes.map fun (o, v) =>
    let t := tget s f.die (rowDst f.desc o)
    let rnd := rndOf (rRnd f.desc = 1 && t.elem != Elem.fp32) (rSeed f.desc) (stepOf s f.sq).stepNo t.logical
    let (w, ovf) := convRect t rnd r (r + 1) c0 c1 fun _ e => v sc e
    (w, ovf || (t.grad && (rangeFrom c0 c1).any fun e => !fisFin (v sc e)))
  (outs.flatMap (·.1), outs.any (·.2))

/-- Column folds of a pass over elements [c0, c1) of row r: each element's strand r mod 4 takes one step (R162). -/
def foldCols (cols : List (Nat × Nat × Nat × Nat)) (p : RowPass) (sc : List F32) (r c0 c1 : Nat) :
    List (Nat × Nat × Nat × Nat) :=
  (p.cols.flatMap fun c => (rangeFrom c0 c1).map fun e => (c, e)).foldl (fun l ((o, fn, a, b), e) =>
    match l.find? fun (o2, e2, q2, _) => o2 = o && e2 = e && q2 = r % 4 with
    | some (_, _, _, v) =>
      let v' := redStep fn (BitVec.ofNat 32 v) (a sc e) (b sc e)
      l.map fun x => if x.1 = o && x.2.1 = e && x.2.2.1 = r % 4 then (o, e, r % 4, v'.toNat) else x
    | none => l ++ [(o, e, r % 4, (redFirst fn (a sc e) (b sc e)).toNat)]) cols

/-- First event of a kind in a step on a die: its mark in a list of (die, step). -/
def firstInStep (l : List (Nat × Nat)) (die n : Nat) : Bool := !l.contains (die, n)

/-- A row's statistics are ready: a forward command writes them into its slot; a recompute is reported (R170-R172). -/
def rowStats (s : State) (f : Flight) (l r j : Nat) (sc : List F32) : Eff :=
  let place : List Item := [.num 1 l, .num 4 r, .num 4 j, rowSlotItem f, .num 4 f.pos]
  if rowClaims f.desc then
    Eff.when (pendingFor s f)
      (let (a, b) := rowStatOf (progOf s f.desc) f.desc sc
       let ad := statAddr f.die (statSlot s f.die (rSlot f.desc)).base r
       writeMem [⟨ad, 0, 32, a.toNat⟩, ⟨ad + 4, 0, 32, b.toNat⟩])
  else if f.ecc.contains r then
    .seq (setFault .ROW_FAULT f.die 4) (emit 0x0436 f.die place)
  else
    Eff.when (rowReads f.desc && !f.statHit) (Eff.all [
      incR .ROW_STAT_MISS_COUNT f.die 0 1,
      setFault .ROW_FAULT f.die 2,
      Eff.when (firstInStep s.cp.rowMiss f.die f.sq) (.seq (emit 0x0433 f.die place)
        (modCp fun c => { c with rowMiss := (f.die, f.sq) :: c.rowMiss }))])

/-- The end of a row: the loss of ROW.XENT.F, an invalid target, the row count (R166, R167). -/
def rowEnd (s : State) (f : Flight) (l r j : Nat) (sc : List F32) : Eff :=
  let tt := tget s f.die
  let bad := (rKind f.desc).xent && rowTarget s.mem tt f.desc r = .bad
  let (ws, ovf) :=
    if rKind f.desc = .xentF then
      let t := tt (rD0 f.desc)
      let v := xentLoss s.mem tt f.desc r sc
      let (w, o) := convPlain t (fun _ => .near) r 0 v
      (w, o || (t.grad && !fisFin v))
    else ([], false)
  Eff.all [
    writeMem ws,
    Eff.when ovf (raiseOverflow f.sq),
    Eff.when bad (Eff.all [
      incR .ROW_BAD_TARGET_COUNT f.die 0 1,
      setFault .ROW_FAULT f.die 3,
      Eff.when (firstInStep s.cp.rowBad f.die f.sq) (.seq
        (emit 0x0434 f.die [.num 1 l, .num 4 r, .num 4 j, rowSlotItem f, .num 4 f.pos])
        (modCp fun c => { c with rowBad := (f.die, f.sq) :: c.rowBad }))]),
    incR64 .ROW_ROWS_DONE f.die 0 1]

/-- A compare of kind 1 (lanes) or 2 (scalar or fold) fails in item n: retried from the chunk when lanes fail in the
final pass, else from pass 1 of the row, its column folds taken back; a second failure fences the engine (R178, R179). The
unit keeps where it failed and how far it went back in `fold`. -/
def rowFail (s : State) (f : Flight) (u : UW) (kind inj : Nat) : Eff :=
  let k := u.key
  let die := k / 64; let l := k % 64 - 28
  let (r, i, j) := rowItem s f (f.posOf k) u.n
  let np := rowNumPasses (progOf s f.desc) f.desc
  let chunkOnly := kind = 1 && i + 1 = np
  if !u.retried then Eff.all [
    noteRetry .ROW_ENG_STATUS die l kind true,
    putFlight ({ f with marks := f.marks ||| 8,
                        cols := if chunkOnly then f.cols else f.cols.filter (fun (x : Nat × Nat × Nat × Nat) => x.2.2.1 != r % 4) ++ u.cols0 }.putUnit
      { u with n := if chunkOnly then u.n else u.n / (np * rowChunks f.desc) * (np * rowChunks f.desc),
               retried := true, started := false, inj := inj, fold := 2 * (u.n + 1) + b2n chunkOnly,
               sc := if chunkOnly then u.sc else [] }),
    startUnit k]
  else Eff.all [
    noteRetry .ROW_ENG_STATUS die l kind false,
    setFault .ROW_FAULT die 1,
    emit 0x0431 die [.num 1 l, .num 4 r, .num 4 j, rowSlotItem f, .num 4 f.pos],
    fenceUnit k,
    startUnit k]

/-- The retried work has passed (R178). -/
def rowCorrected (s : State) (f : Flight) (u : UW) : Eff :=
  let die := u.key / 64; let l := u.key % 64 - 28
  let (r, _, j) := rowItem s f (f.posOf u.key) (u.fold / 2 - 1)
  Eff.all [setFault .ROW_FAULT die 0, incR .ROW_PAIR_CORR_COUNT die 0 1,
    emit 0x0430 die [.num 1 l, .num 4 r, .num 4 j, rowSlotItem f, .num 4 f.pos]]

/-- An engine that is at the start of a row keeps its strand of the column buffer, for a retry of the row (R178). -/
def keepCols (s : State) (f : Flight) (u : UW) : UW :=
  let (r, i, j) := rowItem s f (f.posOf u.key) u.n
  if i = 0 && j = 0 then { u with cols0 := f.cols.filter fun x => x.2.2.1 = r % 4 } else u

/-- Whether the chunk that ends a pass forms a scalar or fold result: after a pass with folds, or with scalar operations of
a row program. -/
def formsScalar (ps : List ProgPass) (d : Desc) (i : Nat) (p : RowPass) : Bool :=
  !p.folds.isEmpty || (rKind d = .prog && (ps[i]?).any fun x => !x.scal.isEmpty)

/-- The kind (1 or 3) of an injection that acts on the scalar or fold result a row engine now forms (R183). -/
def scalarInjection (s : State) (u : UW) : Option Nat :=
  match armedKind s u.key with
  | some kind => if u.watch && kind % 2 = 1 && !(kind = 1 && u.retried) then some kind else none
  | none => none

/-- A chunk of a row engine ends (R177): its writes and column folds are applied once its compares pass.
`mismatch` is 0 for lanes and above for a scalar or fold result, which is formed at the end of a pass. The work of a row
retried from pass 1 passes at the end of the row, and any failure before that is its second (DESIGN CHOICE, assumption 41);
statistics that the first attempt had ready are neither reported nor counted again. -/
def rowChunkEnd (die l : Nat) (mismatch : Option Nat) : Eff :=
  .seq (startUnit (die * 64 + 28 + l)) (.get fun s =>
    let k := die * 64 + 28 + l
    match workOf s k with
    | none => .skip
    | some (f, u0) =>
      let u := enterRow s f (keepCols s f u0)
      let d := f.desc
      let ps := progOf s d
      let tt := tget s die
      let (r, i, j) := rowItem s f (f.posOf k) u.n
      let np := rowNumPasses ps d
      let passes := rowPasses s.mem tt ps d (lossScale s f.sq) u.bc r
      match passes[i]? with
      | none => .skip
      | some p =>
        let (sc, fs0) := decSc u.sc
        let fs := if j = 0 then p.folds.map fun (fn, a, b) =>
            (foldRowMasked fn (rCount d) (rowMasked d r) (a sc) (b sc)).getD f32Zero
          else fs0
        let lastChunk := decide (j + 1 = rowChunks d)
        let lastPass := decide (i + 1 = np)
        let scalar := lastChunk && formsScalar ps d i p
        let failedAt := u.fold / 2 - 1
        let again := u.retried && failedAt = u.n
        let laneHit := (u.inj = 1 && !u.retried) || (u.inj = 3 && (!u.retried || again))
        let armed := if scalar then scalarInjection s u else none
        let isLane := match mismatch with
          | some m => m = 0 || !scalar
          | none => false
        if isLane || laneHit then rowFail s f u 1 (if u.inj = 3 || u.inj = 4 then u.inj else 0)
        else if armed.isSome then
          .seq (takeInjection s f u (armed.getD 1)) (rowFail s f u 2 (if armed = some 3 then 4 else 0))
        else if mismatch.isSome || (scalar && u.inj = 4 && again) then rowFail s f u 2 0
        else
          let c0 := 1024 * j
          let c1 := min (rCount d) (c0 + 1024)
          let (ws, ovf) := rowWrites s f p sc r c0 c1
          let sc' := if lastChunk then p.post sc fs else sc
          let rowDone := lastChunk && lastPass
          let passed := u.retried && (if u.fold % 2 = 1 then failedAt = u.n else rowDone)
          let f' := { f with cols := foldCols f.cols p sc r c0 c1 }
          let keep := u.retried && !passed
          let statsKnown := u.retried && u.fold % 2 = 0 &&
            decide (rowStatPasses ps d * rowChunks d ≤ failedAt % (np * rowChunks d))
          let u' := { u with n := u.n + 1, started := false, retried := keep, fold := if keep then u.fold else 0,
                             inj := if keep then u.inj else 0,
                             sc := if rowDone then [] else encSc sc' (if lastChunk then [] else fs) }
          Eff.all [
            writeMem ws,
            Eff.when ovf (raiseOverflow f.sq),
            putFlight (f'.putUnit u'),
            Eff.when (lastChunk && i + 1 = rowStatPasses ps d && !statsKnown) (rowStats s f l r j sc'),
            Eff.when rowDone (rowEnd s f l r j sc'),
            Eff.when passed (rowCorrected s f u),
            startUnit k])

def execRowChunkDone (die w : Fin 4) (mismatch : Option Nat) (s : State) : Host.Outcome State Fault Refusal :=
  done (rowChunkEnd die w mismatch) s

def execRowInjectArm (die : Fin 4) (v : BitVec 32) (s : State) : Host.Outcome State Fault Refusal :=
  done (injectWrite .ROW_INJECT die 0x303 v.toNat) s

/-! ## Completion of a row command -/

/-- Column outputs: for each, the elements folded over rows, with the prior value first under ACC (R162). -/
def rowColOutputs (s : State) (f : Flight) : List Wr × Bool :=
  let d := f.desc
  let uses := (rowUses d (progOf s d)).2
  let outs := ((List.range 3).filter fun o => uses.getD o .none = .vec).map fun o =>
    let t := tget s f.die (rowDst d o)
    let vals := (List.range (rCount d)).map fun e =>
      let strandOf (q : Nat) : Option F32 :=
        (f.cols.find? fun (o2, e2, q2, _) => o2 = o && e2 = e && q2 = q).map fun x => BitVec.ofNat 32 x.2.2.2
      let v := colTree ((List.range 4).map strandOf)
      if rAcc d then fadd (rdF32 s.mem t 0 e) v else v
    (vals.zipIdx.map (fun (v, e) => wrElem t 0 e v.toNat), t.grad && vals.any fun v => !fisFin v)
  (outs.flatMap (·.1), outs.any (·.2))

/-- The waiting forward commands of a slot whose last reader has gone take it in order of issue, and their clock starts
(R170). -/
def wakeSlot (die n : Nat) : Eff :=
  .get fun s =>
    Eff.when (slotReaders s die n).isEmpty
      (Eff.each (s.cp.flights.filter fun f => f.die = die && f.slotWait && rSlot f.desc = n) fun f =>
        Eff.all [claimSlot f, putFlight { f with slotWait := false, boundFrom := some s.cc }, startUnits f])

/-- What a row command does when it completes. -/
def finishRow (f : Flight) : Eff :=
  .get fun s =>
    let n := rSlot f.desc
    let slot := statSlot s f.die n
    let (ws, ovf) := rowColOutputs s f
    Eff.all [
      Eff.when f.skip.isNone (.seq (writeMem ws) (Eff.when ovf (raiseOverflow f.sq))),
      Eff.when (pendingFor s f)
        (putSlot f.die n { slot with state := if f.skip.isNone then 2 else 3 }),
      Eff.when (f.skip.isNone && rowReads f.desc && rStatFree f.desc) (putSlot f.die n { slot with state := 0 })]

end Sys2Proof.Machine
end

