-- ==== Sys2Proof/Machine/Memory.lean ====
section
/-!
DEFINITION. Commands that meet an uncorrectable line (08 R323), and streams of the prefetchers (R314, R315).
-/
namespace Sys2Proof.Machine

/-- A command meets an uncorrectable line: it is skipped under HARD_FAULT, with no unit fenced. -/
def ueCommand (f : Flight) (a : Nat) : Eff :=
  .seq (ueLine a (.command f.die f.q f.pos))
    (skipFlight { f with units := f.units.map fun u => { u with total := u.n, started := false } } 0x11)

/-! ## Prefetchers -/

/-- Whether some line of a tensor's rows is homed on M-die m. -/
def touchesHome (s : State) (m : Nat) (t : TDesc) : Bool :=
  t.rows.any fun r => decide (r.base < homeBase s m + homeSize s m) && decide (homeBase s m < r.top)

/-- Arm prefetcher `n` of M-die m for rows [first, first + rows) of a tensor; the lines it had primed lose their marks. -/
def armPrefetch (m n : Nat) (t : TDesc) (first rows limit : Nat) : Eff :=
  .get fun s =>
    let p : Prefetch := if touchesHome s m t then
      { active := true, tensor := t, row := first, last := first + rows, limit := limit, armedAt := s.cc + 1 } else {}
    modMs fun x => { x with
      prefetch := mset {} x.prefetch (m * 64 + n) p
      loam := { x.loam with primed := x.loam.primed.filter fun e => e.1 != m * 64 + n } }

/-- A hint goes to an idle hint prefetcher of each M-die the operand lies on, or to the oldest (R189, R314). -/
def sendHint (t : TDesc) : Eff :=
  Eff.each [0, 1] fun m => .get fun s =>
    let ns := (List.range s.img.content.hintPf).map (64 - s.img.content.hintPf + ·)
    let at_ (n : Nat) : Nat := (mget {} s.ms.prefetch (m * 64 + n)).armedAt
    match ns with
    | [] => .skip
    | n0 :: rest =>
      let n := rest.foldl (fun b n => if at_ n < at_ b then n else b) n0
      Eff.when (touchesHome s m t) (armPrefetch m n t 0 t.outer 512)

end Sys2Proof.Machine
end

