-- ==== Sys2Proof/Machine/ExecStream.lean ====
section
/-!
DEFINITION. Commands of the movers, prefetchers, command processor and prism units: DMA, PF, FLAG, PATCH, DIG.FOLD,
STEP (06 R205-R217, R238, 08 R315, 11 R440, 07 R262), and fetching (06 R188, R189).
-/
namespace Sys2Proof.Machine

/-! ## DMA -/

/-- TAG_MODE's record, taken before any byte of D is written (R202). -/
def tagRecord (f : Flight) : Eff :=
  .get fun s =>
    Eff.when (dmaTag f.desc = 1 || dmaTag f.desc = 2)
      (.act (.otag f.die (dmaDst f.desc) (tget s f.die (dmaSrc f.desc)).vtag))

/-- Writes that copy row `src` of tensor ts to row `dst` of tensor td, with the scales that come with it: the row's own
(MXAX 0), or with the first of 32 rows those of the 32 (MXAX 1). -/
def rowCopy (m : Mem) (ts td : TDesc) (src dst : Nat) : List Wr :=
  let per := if td.mxax = 0 then 1 else 32
  ((List.range td.inner).map fun c => wrElem td dst c (rdCode m ts src c)) ++
  (if td.isMx && dst % per = 0 then (List.range td.scaleCols).map fun c =>
      ⟨td.scaleBase + dst / per * td.scaleStride + c, 0, 8, (rdByte m (ts.scaleBase + src / per * ts.scaleStride + c)).toNat⟩
    else [])

/-- Byte runs row `r` of a tensor is read from. -/
def rowRuns (t : TDesc) (r : Nat) : List (Nat × Nat) :=
  (t.base + r * t.stride, t.rowBytes) ::
    (if t.isMx then [(t.scaleAddr r 0, t.scaleCols)] else [])

/-- Move rows in ascending order: (source row, destination row). An uncorrectable line stops the command there. -/
def moveRows (f : Flight) (ts td : TDesc) : List (Nat × Nat) → Eff
  | [] => .skip
  | (a, b) :: rest =>
    .get fun s =>
      .seq (demand (rowRuns ts a)) (match firstMarked s (rowRuns ts a) with
      | some l => ueCommand f l
      | none => .seq (writeMem (rowCopy s.mem ts td a b)) (moveRows f ts td rest))

def startCopy (f : Flight) : Eff :=
  .get fun s =>
    let ts := tget s f.die (dmaSrc f.desc); let td := tget s f.die (dmaDst f.desc)
    .seq (tagRecord f) (moveRows f ts td ((List.range td.outer).map fun r => (r, r)))

/-- DMA.GATHER reads its whole index tensor first (R206, R551). -/
def startGather (f : Flight) : Eff :=
  .get fun s =>
    let ts := tget s f.die (dmaSrc f.desc); let td := tget s f.die (dmaDst f.desc)
    let ti := tget s f.die (dmaIdx f.desc)
    .seq (demand ti.runs) (match firstMarked s ti.runs with
    | some l => ueCommand f l
    | none =>
      let idx := (List.range td.outer).map fun i => rdInt s.mem ti 0 i
      if idx.any fun x => x < 0 || (ts.outer : Int) ≤ x then skipFlight f 0x0E
      else .seq (tagRecord f) (moveRows f ts td ((idx.map (·.toNat)).zipIdx)))

def startFill (f : Flight) : Eff :=
  .get fun s =>
    let td := tget s f.die (dmaDst f.desc)
    Eff.each (List.range td.outer) fun r =>
      writeMem ((List.range td.inner).map fun c => wrElem td r c (dmaFill f.desc))

def execDmaCopy (die : Fin 4) (q : Fin 16) (s : State) : Host.Outcome State Fault Refusal :=
  done (opcodeRow 0x60 die q startCopy) s
def execDmaGather (die : Fin 4) (q : Fin 16) (s : State) : Host.Outcome State Fault Refusal :=
  done (opcodeRow 0x61 die q startGather) s
def execDmaFill (die : Fin 4) (q : Fin 16) (s : State) : Host.Outcome State Fault Refusal :=
  done (opcodeRow 0x62 die q startFill) s

/-! ## Prefetch streams -/

def startPf (f : Flight) : Eff :=
  .get fun s => Eff.each [0, 1] fun m =>
    armPrefetch m (pfStream f.desc) (tget s f.die (pfSrc f.desc)) (pfFirst f.desc) (pfRows f.desc) (pfLimit f.desc)
def cancelPf (f : Flight) : Eff :=
  modMs fun x => { x with
    prefetch := mset {} (mset {} x.prefetch (pfStream f.desc) {}) (64 + pfStream f.desc) {}
    loam := { x.loam with primed := x.loam.primed.filter fun e => e.1 % 64 != pfStream f.desc } }

def execPfStream (die : Fin 4) (q : Fin 16) (s : State) : Host.Outcome State Fault Refusal :=
  done (opcodeRow 0x68 die q startPf) s
def execPfCancel (die : Fin 4) (q : Fin 16) (s : State) : Host.Outcome State Fault Refusal :=
  done (opcodeRow 0x69 die q cancelPf) s

/-! ## Flags and patch registers -/

def execFlagWait (die : Fin 4) (q : Fin 16) (s : State) : Host.Outcome State Fault Refusal :=
  done (opcodeRow 0x90 die q fun _ => .skip) s
def execFlagSignal (die : Fin 4) (q : Fin 16) (s : State) : Host.Outcome State Fault Refusal :=
  done (opcodeRow 0x91 die q fun _ => .skip) s

/-- Word k of the canonical stream goes to register REG + k (R217). -/
def startPatchLd (f : Flight) : Eff :=
  .get fun s =>
    let bs := (tget s f.die (patchSrc f.desc)).stream s.mem
    Eff.each (List.range (patchCount f.desc)) fun k =>
      setR .CMD_PATCH f.die (patchReg f.desc + k) (leNat ((bs.drop (4 * k)).take 4))
def execPatchLd (die : Fin 4) (q : Fin 16) (s : State) : Host.Outcome State Fault Refusal :=
  done (opcodeRow 0x94 die q startPatchLd) s
def execPatchSet (die : Fin 4) (q : Fin 16) (s : State) : Host.Outcome State Fault Refusal :=
  done (opcodeRow 0x95 die q fun f => setR .CMD_PATCH f.die (patchReg f.desc) (fld f.desc 5 31 0)) s

/-! ## Digests -/

/-- DIG.FOLD forms its digest of the tensor as it stands at issue (R440). -/
def startFold (f : Flight) : Eff :=
  .get fun s =>
    let t := tget s f.die (digTensor f.desc)
    let si := stepOf s f.sq
    .seq (putFlight { f with digest := tensorDigest (digKappa si.seed si.stepNo) t (t.stream s.mem),
                             poisonIn := if t.poison then some 0 else none })
      (startUnits f)
def execDigFold (die : Fin 4) (q : Fin 16) (s : State) : Host.Outcome State Fault Refusal :=
  done (opcodeRow 0xA0 die q startFold) s

/-- A prism unit has hashed a chunk in two copies; the unit at position p of n takes chunks p, p + n, … (R442, R443). -/
def prismDone (die l : Nat) (mismatch : Bool) : Eff :=
  .seq (startUnit (die * 64 + 40 + l)) (.get fun s =>
    let k := die * 64 + 40 + l
    match workOf s k with
    | none => .skip
    | some (f, u) =>
      if !mismatch then Eff.all [
        Eff.when u.retried (Eff.all [setFault .DIG_FAULT 6 3, incR .DIG_PRISM_CORR_COUNT 6 0 1, emit 0x0804 die []]),
        nextItem f u]
      else if !u.retried then putFlight ({ f with marks := f.marks ||| 8 }.putUnit { u with retried := true })
      else Eff.all [setFault .DIG_FAULT 6 4, emit 0x0805 die [], fenceUnit k, startUnit k])
def execPrismChunkDone (die : Fin 4) (u : Fin 8) (mismatch : Bool) (s : State) : Host.Outcome State Fault Refusal :=
  done (prismDone die u mismatch) s

/-- Key of a slot: bank of the step (its parity) × 256 + slot. -/
def digKey (n slot : Nat) : Nat := n % 2 * 256 + slot
/-- The fold joins its slot at completion. -/
def finishFold (f : Flight) : Eff :=
  .get fun s =>
    let k := digKey f.sq (tget s f.die (digTensor f.desc)).digSlot
    Eff.when f.skip.isNone (modDig fun d =>
      let x : DigSlot := mget {} d.slots k
      let y : DigSlot := ⟨(x.sum + f.digest) % 2 ^ 256, x.count + 1, x.poison || f.poisonIn.isSome⟩
      { d with slots := mset {} d.slots k y })

/-! ## Step control -/

def execStepNop (die : Fin 4) (q : Fin 16) (s : State) : Host.Outcome State Fault Refusal :=
  done (opcodeRow 0xF3 die q fun _ => .skip) s
def execStepShade (die : Fin 4) (q : Fin 16) (s : State) : Host.Outcome State Fault Refusal :=
  done (opcodeRow 0xF2 die q fun f => .get fun s =>
    modCp fun c => { c with shades := c.shades ++ [⟨shMask f.desc, s.cc + shLen f.desc⟩] }) s
/-- The last of the four C-dies' STEP.VERDICT sends the contribution (07 R262). -/
def execStepVerdict (die : Fin 4) (q : Fin 16) (s : State) : Host.Outcome State Fault Refusal :=
  done (opcodeRow 0xF1 die q fun f => .seq (vote f.die f.sq) (tryLeave f.sq)) s

/-- Before STEP.END is looked at: it comes to the head in the cc after the one in which the last command left it, and its
wait does not yet see this cc's signals (R190, R211). -/
def settleEnd (die q : Nat) : Eff :=
  .get fun s =>
    let n := (queueOf s die q).step
    Eff.when ((atHead s die q).any fun d => dOpcode d = 0xF0 && ((queueOf s die q).lastIssue = s.cc + 1 ||
      (!(openWaits (flagSeen s) d n).isEmpty && (openWaits (fun k => mget 0 s.flags k) d n).isEmpty))) (advance 1)

/-- A queue whose head is STEP.END waits for the flag its header names, then stays there for its earlier commands and the
barrier (R190, R191). One that breaks a rule is skipped and recorded as any command, its signals leaving at once, and the
queue stays at its boundary all the same (R194, R218; DESIGN CHOICE, assumption 42). -/
def stepEndRow (die q : Nat) : Eff :=
  .seq (settleEnd die q) (.get fun s =>
    match atHead s die q with
    | none => .skip
    | some d =>
      let qu := queueOf s die q
      let come (skipped : Bool) : Eff :=
        modQueue die q fun u => { u with atEnd := true, endAt := s.cc + 1, endSkipped := skipped }
      if dOpcode d != 0xF0 then .skip
      else if qu.atEnd then stepProceed die q
      else if (waitViols d qu.step).isEmpty && !(openWaits (flagSeen s) d qu.step).isEmpty then .skip
      else
        match firstViol (allViols s die q d) with
        | some v => Eff.all [come true, skipEffects die q qu.head qu.step d v false, sendSignals die d, stepProceed die q]
        | none => .seq (come false) (stepProceed die q))

/-! ## Fetching -/

/-- Operands of a DMA command that lie in memory. -/
def hintTensors (s : State) (die : Nat) (d : Desc) : List TDesc :=
  (if dOpcode d = 0x60 || dOpcode d = 0x61 then dmaInputs d else []).filterMap fun i =>
    if (tget s die i).within (inMemory s) then some (tget s die i) else none
/-- Hints for the fetched DMA commands that have come within 64 of the head since the last ones were sent (R189). They leave
with the command processor's fetches (DESIGN CHOICE, assumption 30). -/
def sendHints (die q : Nat) : Eff :=
  .get fun s =>
    let qu := queueOf s die q
    let h := qu.step * qu.len + qu.head
    let near := (slotsOf s die q).take 65
    .seq (modQueue die q fun u => { u with hintTo := h + near.length })
      (Eff.each ((near.drop (qu.hintTo - h)).flatMap (hintTensors s die)) sendHint)

/-- A command comes into the next free slot of a queue. -/
def intoSlot (die q : Nat) (d : Desc) : Eff :=
  .get fun s => modCp fun c => { c with slots := mset [] c.slots (qKey die q) (slotsOf s die q ++ [d]) }
/-- The command at an address of memory is fetched. From an uncorrectable line, whose effect on a fetch the spec leaves
open, comes a free value (08 R323; assumption 45). -/
def fetchFrom (die q pos a : Nat) : Eff :=
  .get fun s => .seq (demand [(a, 64)]) (match firstMarked s [(a, 64)] with
    | some l => .seq (ueLine l (.command die q pos)) (drawFree 512 fun x => intoSlot die q (BitVec.ofNat 512 x))
    | none => intoSlot die q (BitVec.ofNat 512 (rdNat s.mem a 64)))

/-- The next command of a stream comes into a free slot of its queue, once its line is not on a channel under test; DMA
commands close to the head send hints for operands in memory (R188, R189). -/
def fetchRow (die q : Nat) : Eff :=
  .get fun s =>
    let qu := queueOf s die q
    let slots := slotsOf s die q
    let p := (qu.head + slots.length) % qu.len
    let a := qu.base + 64 * p
    Eff.when (progLoaded s && 0 < qu.len) (.seq
      (Eff.when (decide (slots.length + (flightsOf s die q).length < 512) && !underTest s a 64) (fetchFrom die q p a))
      (sendHints die q))
def execCommandFetch (die : Fin 4) (q : Fin 16) (s : State) : Host.Outcome State Fault Refusal :=
  done (fetchRow die q) s

end Sys2Proof.Machine
end

