-- ==== Sys2Proof/Machine/ExecUpdate.lean ====
section
/-!
DEFINITION. Update commands, snapshots, sealing and the host's deadline (07 R253-R295, 13 R508).
-/
namespace Sys2Proof.Machine

/-! ## Snapshots (R285-R288) -/

/-- Address of byte j of a tensor's rows. -/
def tByteAddr (t : TDesc) (j : Nat) : Nat := t.base + j / max 1 t.rowBytes * t.stride + j % max 1 t.rowBytes

def snapRegion (s : State) (i : Nat) : Region := readRegion s.mem s.upd.snapTbl (s.upd.snapFirst + i)
/-- Bit of block b of the i-th region of the snapshot in the bitmap. -/
def snapBit (s : State) (i b : Nat) : Nat :=
  ((List.range i).map fun j => (snapRegion s j).blocks).foldl (· + ·) 0 + b
def snapBitSet (s : State) (n : Nat) : Bool := (rdByte s.mem (tByteAddr s.upd.snapMap (n / 8))).toNat.testBit (n % 8)
def setSnapBit (n : Nat) : Eff := .get fun s => writeMem [⟨tByteAddr s.upd.snapMap (n / 8), n % 8, 1, 1⟩]

/-- Bytes of a block as a snapshot sends them (13 R508): TSTEP reads all ones (R288). -/
def blockBytes (m : Mem) (r : Region) (b : Nat) : List Byte :=
  let (lo, hi) := r.span b
  let n := hi - lo
  let j0 := lo / r.pb
  let js := rangeFrom j0 (ceilDiv hi r.pb)
  let tri (base : Nat) : List Byte := js.flatMap fun j => rdBytes m (base + j * triSize r.pb) (triSize r.pb)
  rdBytes m (r.param + 2 * lo) (2 * n) ++ rdBytes m (r.silt + lo) n ++
  rdBytes m (r.state0 + r.stateBytes * lo) (r.stateBytes * n) ++
  (if r.rule = 1 then rdBytes m (r.state1 + r.stateBytes * lo) (r.stateBytes * n) else []) ++
  rdBytes m (r.ledger + 8 * b) 4 ++ leBytes 4 0xFFFFFFFF ++
  (if r.rule = 2 then
    tri r.state1 ++ tri r.factor ++ rdBytes m (r.factor + r.pblocks * triSize r.pb + 4 * j0) (4 * js.length)
  else [])

/-- Byte runs of a block: its parameters, silt, state, LAST, and for PRECOND its statistics and factors. -/
def Region.runs (r : Region) (b : Nat) : List (Nat × Nat) :=
  let (lo, hi) := r.span b
  let n := hi - lo
  let j0 := lo / r.pb
  let js := ceilDiv hi r.pb - j0
  [(r.param + 2 * lo, 2 * n), (r.silt + lo, n), (r.state0 + r.stateBytes * lo, r.stateBytes * n)] ++
  (if r.rule = 1 then [(r.state1 + r.stateBytes * lo, r.stateBytes * n)] else []) ++
  [(r.ledger + 8 * b, 8)] ++
  (if r.rule = 2 then
    [(r.state1 + j0 * triSize r.pb, js * triSize r.pb), (r.factor + j0 * triSize r.pb, js * triSize r.pb),
     (r.factor + r.pblocks * triSize r.pb + 4 * j0, 4 * js)]
  else [])

/-- The header of a snapshot (R286): the region entries, UPD_LOSS_SCALE, the effective STEP (assumption 15). -/
def snapHeaderBytes (s : State) (n : Nat) (d : Desc) : List Byte :=
  ((uRegions s.mem (fun _ => s.upd.snapTbl) d).flatMap fun (_, r) => rdBytes s.mem r.addr 64) ++
    leBytes 4 (rget s .UPD_LOSS_SCALE 4 0) ++ leBytes 8 (stepOf s n).stepNo

/-- Bytes of bounce space, the place of a free run of `len`, and writing bytes there. -/
def bounceSize (s : State) : Nat := s.upd.snapBounce.outer * s.upd.snapBounce.rowBytes
def bounceFree (s : State) (len : Nat) : Option Nat :=
  let used := (0, s.upd.snapHdrLen) :: s.upd.bounce.map fun (_, _, o, n) => (o, n)
  (used.map fun (o, n) => o + n).find? fun p =>
    p + len ≤ bounceSize s && used.all fun (o, n) => p + len ≤ o || o + n ≤ p
def writeBounce (off : Nat) (bs : List Byte) : Eff :=
  .get fun s => writeMem (bs.zipIdx.map fun (b, i) => ⟨tByteAddr s.upd.snapBounce (off + i), 0, 8, b.toNat⟩)

/-- UPD.SNAP at issue: the bitmap is cleared, the header copied, and the snapshot becomes active. -/
def startSnap (f : Flight) : Eff :=
  .get fun s =>
    let d := f.desc
    let tt := tget s f.die
    let blocks := ((uRegions s.mem tt d).map fun (_, r) => r.blocks).foldl (· + ·) 0
    .seq (modUpd fun u => { u with snapFirst := uFirst d, snapCount := uCount d, snapTbl := tt (uTbl d),
                                   snapMap := tt (snMap d), snapBounce := tt (snBounce d), snapSession := snSession d,
                                   snapStep := (stepOf s f.sq).stepNo, snapHeader := false, bounce := [], snapBytes := 0 })
      (.get fun s =>
        let hd := snapHeaderBytes s f.sq d
        Eff.all [
          writeMem ((List.range (ceilDiv blocks 8)).map fun i => ⟨tByteAddr s.upd.snapMap i, 0, 8, 0⟩),
          modUpd fun u => { u with snapHdrLen := hd.length },
          writeBounce 0 hd,
          putR .UPD_STATUS 4 0 29 29 1,
          putR .UPD_SNAP_STATUS 4 0 39 0 blocks])

/-- Index of a region in the active snapshot. -/
def snapIndex (s : State) (r : Region) : Option Nat :=
  if s.upd.snapCount = 0 then none else (List.range s.upd.snapCount).find? fun i => (snapRegion s i).addr = r.addr

/-- Before a block of the active snapshot is first written its old bytes go to bounce space (R287): what must be
copied and where, or that there is no room. -/
inductive Bounce where
  | free | copy (i b off : Nat) (bytes : List Byte) | full
  deriving DecidableEq, Repr

def bounceOf (s : State) (r : Region) (b : Nat) : Bounce :=
  match snapIndex s r with
  | none => .free
  | some i =>
    if snapBitSet s (snapBit s i b) then .free
    else
      let bs := blockBytes s.mem r b
      match bounceFree s bs.length with
      | some o => .copy i b o bs
      | none => .full

/-- Write under copy-before-update; without room the unit keeps the block, whose compare has passed, and waits. -/
def writeGuarded (f : Flight) (u : UW) (r : Region) (b : Nat) (ws : List Wr) (after : Eff) : Eff :=
  .get fun s =>
    match bounceOf s r b with
    | .free => .seq (writeMem ws) after
    | .copy i blk off bs => Eff.all [
        writeBounce off bs,
        setSnapBit (snapBit s i blk),
        modUpd fun x => { x with bounce := x.bounce ++ [(i, blk, off, bs.length)] },
        writeMem ws, after]
    | .full => putFlight ({ f with stopAt := if f.stopAt = 0 then s.cc + 1 else f.stopAt }.putUnit { u with sc := [1], retried := false, inj := 0 })

/-! ## Starting an update (R268, R269, R272) -/

def spbBytes (s : State) (n : Nat) : List Byte := leBytes 8448 (stepOf s n).spb
/-- Whether a region is frozen in a step. -/
def regionFrozen (s : State) (n : Nat) (r : Region) : Bool :=
  r.frozen || (stepOf s n).spb.testBit (8 * 0x10 + r.group)
def touchedBlocks (s : State) (n : Nat) (r : Region) : List Nat :=
  (List.range r.blocks).filter fun b => ledgerTouch s.mem r b = touchKey (stepOf s n).stepNo

/-- The work of each unit of UPD.APPLY or UPD.FACTOR: (region, block) in ascending order. -/
def updateWork (s : State) (f : Flight) : List UW :=
  let d := f.desc
  let rs := (uRegions s.mem (tget s f.die) d).filter fun (_, r) => !regionFrozen s f.sq r
  f.units.map fun u =>
    let m := u.key / 64 - 4
    let mine := rs.filter fun (_, r) => r.owner = m
    let w :=
      if f.op = 0x80 then
        let us := uEngines d m
        let p := us.findIdx (· = u.key % 64)
        mine.flatMap fun (i, r) => ((touchedBlocks s f.sq r).filter fun b => b % us.length = p).map fun b => (i, b)
      else mine.flatMap fun (i, r) => (List.range r.pblocks).map fun j => (i, j)
    { u with work := w, n := 0, total := w.length, started := false }

/-- A region is begun: C_r counts the step, saturating (00 R14), or the region is frozen, and recorded once in a step (R269,
R293). -/
def beginRegion (f : Flight) (i : Nat) (r : Region) : Eff :=
  .get fun s =>
    let m := r.owner
    Eff.all [
      modCp fun c => { c with flights := c.flights.map fun x =>
        if x.die = f.die && x.q = f.q && x.pos = f.pos then { x with begun := x.begun ||| 2 ^ i } else x },
      if regionFrozen s f.sq r then Eff.all [
        setFault .UPD_FAULT (4 + m) 3,
        incR .UPD_FROZEN_COUNT (4 + m) 0 1,
        Eff.when (!(stepOf s f.sq).nonfinite.contains (r.addr, 1)) (.seq
          (emit 0x0446 (4 + m) (updItems s f.sq (some i) none none (some f.pos) ++ [.num 4 (touchedBlocks s f.sq r).length]))
          (modStep f.sq fun t => { t with nonfinite := (r.addr, 1) :: t.nonfinite }))]
      else writeMem [⟨r.addr + 60, 0, 32, satAdd r.ctr 1 0xFFFFFFFF⟩]]

/-- Begin every region of M-die m up to index `top` that has not begun, in ascending order. -/
def beginRegions (f : Flight) (m top : Nat) : Eff :=
  .get fun s => Eff.each ((uRegions s.mem (tget s f.die) f.desc).filter fun (i, r) =>
      r.owner = m && i ≤ top && !f.begun.testBit i) fun (i, r) => beginRegion f i r

/-- The flight as it stands now, with a unit of it. -/
def nowWork (k : Nat) (g : Flight → UW → Eff) : Eff :=
  .get fun s =>
    match workOf s k with
    | some (f, u) => g f u
    | none => .skip

/-- The region of the block that an engine has started is begun, with those before it that are not (R269). -/
def beginStarted (k : Nat) : Eff :=
  nowWork k fun f u => Eff.when (f.op = 0x80) (beginRegions f (k / 64 - 4) (u.work.getD u.n (0, 0)).1)

/-- A held update begins once its verdict is known: under COMMIT it takes its blocks, else it has none. Its bound runs from the
verdict, or from the cc it was ready to issue if that is later (R289, R290). -/
def startUpdate (f : Flight) : Eff :=
  .get fun s =>
    match verdictOf s f.sq with
    | none => putFlight { f with boundFrom := none }
    | some v =>
      let us := if v = 0 then updateWork s f else f.units.map fun u => { u with total := 0, n := 0 }
      Eff.all [putFlight { f with units := us, boundFrom := some (f.boundFrom.getD s.cc) }, startUnits f,
        Eff.each f.units fun u => beginStarted u.key]

def startGather81 (f : Flight) : Eff :=
  .get fun s =>
    let us := f.units.zipIdx.map fun (u, p) =>
      { u with work := ((List.range (gaBlocks (tget s f.die) f.desc)).filter fun b => b % f.units.length = p).map fun b => (0, b) }
    .seq (putFlight { f with units := us }) (startUnits f)

def execUpdApply (die : Fin 4) (q : Fin 16) (s : State) : Host.Outcome State Fault Refusal :=
  done (opcodeRow 0x80 die q startUpdate) s
def execUpdGatheradd (die : Fin 4) (q : Fin 16) (s : State) : Host.Outcome State Fault Refusal :=
  done (opcodeRow 0x81 die q startGather81) s
def execUpdFactor (die : Fin 4) (q : Fin 16) (s : State) : Host.Outcome State Fault Refusal :=
  done (opcodeRow 0x82 die q startUpdate) s
def execUpdSnap (die : Fin 4) (q : Fin 16) (s : State) : Host.Outcome State Fault Refusal :=
  done (opcodeRow 0x83 die q startSnap) s

/-! ## Blocks -/

/-- After a hard fault of UPD.APPLY the other engines finish the regions already begun; the others keep their C_r. -/
def trimUnbegun (f : Flight) : Eff :=
  .get fun s =>
    match findFlight s f.die f.q f.pos with
    | none => .skip
    | some g => putFlight { g with units := g.units.map fun u =>
        let keep := (u.work.filter fun (i, _) => g.begun.testBit i).length
        { u with total := min u.total (max u.n keep) } }

/-- A compare of an update unit fails: once more, or the unit is fenced (R291, R292). -/
def updFail (f : Flight) (u : UW) : Eff :=
  .get fun s =>
    let die := u.key / 64; let l := u.key % 64
    let (g, b) := u.work.getD u.n (0, 0)
    let region := if f.op = 0x81 then none else some g
    if !u.retried then Eff.all [
      incFld .UPD_ENG_STATUS die l 23 0 1,
      putFlight ({ f with marks := f.marks ||| 8 }.putUnit { u with retried := true, inj := if u.inj ≥ 3 then u.inj else 0 })]
    else Eff.all [
      setFault .UPD_FAULT die 8,
      emit 0x044B die (updItems s f.sq region (some b) (some l) (some f.pos)),
      fenceUnit u.key,
      Eff.when (f.op = 0x80) (trimUnbegun f),
      startUnit u.key, beginStarted u.key]

def updCorrected (s : State) (f : Flight) (u : UW) : Eff :=
  let die := u.key / 64; let l := u.key % 64
  let (g, b) := u.work.getD u.n (0, 0)
  Eff.all [setFault .UPD_FAULT die 7, incR .UPD_PAIR_CORR_COUNT die 0 1,
    emit 0x044A die (updItems s f.sq (if f.op = 0x81 then none else some g) (some b) (some l) (some f.pos))]

/-- The values of a region as an engine holds them (R269), from its entry, the effective block and the scale. -/
def regionHyper (s : State) (f : Flight) (r : Region) : Hyper :=
  hyperOf (spbBytes s f.sq) r.group r.ctr (stepOf s f.sq).lsExp (uSeed f.desc)

/-- A block of UPD.APPLY passes its compare (R270, R271); an uncorrectable line among what it reads skips the
command and leaves the block unchanged (08 R323). -/
def applyDone (f : Flight) (u : UW) (g b : Nat) : Eff :=
  .get fun s =>
    let die := u.key / 64; let l := u.key % 64
    let r := readRegion s.mem (tget s f.die (uTbl f.desc)) g
    let out := applyBlock s.mem r (regionHyper s f r) b
    let (lo, hi) := r.span b
    .seq (demand (r.runs b ++ [(r.grad + 4 * lo, 4 * (hi - lo))])) <|
    match firstMarked s (r.runs b ++ [(r.grad + 4 * lo, 4 * (hi - lo))]) with
    | some a => ueCommand f a
    | none =>
    if out.nonfinite then Eff.all [
      setFault .UPD_FAULT die 5,
      incR .UPD_NONFINITE_COUNT die 0 1,
      Eff.when (!(stepOf s f.sq).nonfinite.contains (r.addr, 0)) (.seq
        (emit 0x0447 die (updItems s f.sq (some g) (some b) (some l) (some f.pos)))
        (modStep f.sq fun t => { t with nonfinite := (r.addr, 0) :: t.nonfinite })),
      nextItem f u, beginStarted u.key]
    else writeGuarded f u r b out.writes
      (Eff.all [incR64 .UPD_BLOCKS_DONE die 0 1, nextItem f u, beginStarted u.key])

/-- A row of UPD.GATHERADD passes its compare (R284), unless a line it reads is uncorrectable (08 R323). -/
def gatherDone (f : Flight) (u : UW) (b : Nat) : Eff :=
  .get fun s =>
    let (ws, ovf) := gaBlock s.mem (tget s f.die) f.desc b
    .seq (demand (gaRuns (tget s f.die) f.desc b)) <| match firstMarked s (gaRuns (tget s f.die) f.desc b) with
    | some a => ueCommand f a
    | none => Eff.all [writeMem ws, Eff.when ovf (raiseOverflow f.sq), nextItem f u]

/-- An engine's block ends with its compare. -/
def blockDone (m l : Nat) (mismatch : Bool) : Eff :=
  .seq (.seq (startUnit ((4 + m) * 64 + l)) (beginStarted ((4 + m) * 64 + l))) (nowWork ((4 + m) * 64 + l) fun f u =>
    let (g, b) := u.work.getD u.n (0, 0)
    if u.waits then .skip
    else if mismatch || u.inj = 3 || u.inj = 4 || (u.inj != 0 && !u.retried) then updFail f u
    else .get fun s => .seq (Eff.when u.retried (updCorrected s f u))
      (if f.op = 0x80 then applyDone f u g b else gatherDone f u b))

def execUpdBlockDone (m : Fin 2) (u : Fin 8) (mismatch : Bool) (s : State) : Host.Outcome State Fault Refusal :=
  done (blockDone m u mismatch) s

/-- A preconditioner block of the factor unit passes its compare (R281, R282). -/
def factorWrite (f : Flight) (u : UW) (g j : Nat) : Eff :=
  .get fun s =>
    let die := u.key / 64
    let r := readRegion s.mem (tget s f.die (uTbl f.desc)) g
    let damp := spbField (spbBytes s f.sq) r.group 5
    let (ws, rung) := factorBlock s.mem r damp j
    let b := j * r.pb / r.block
    let reads := [(r.state1 + j * triSize r.pb, triSize r.pb)] ++ (match bounceOf s r b with
      | .free => []
      | _ => r.runs b)
    .seq (demand reads) <| match firstMarked s reads with
    | some a => ueCommand f a
    | none => writeGuarded f u r b ws (Eff.all [
      Eff.when (rung = 2 || rung = 3) (incR .UPD_DAMP_COUNT die 0 1),
      Eff.when (rung = 4) (Eff.all [incR .UPD_FALLBACK_COUNT die 0 1, setFault .UPD_FAULT die 4,
        emit 0x0448 die (updItems s f.sq (some g) (some j) (some 8) (some f.pos))]),
      nextItem f u])

def factorDone (m : Nat) (mismatch : Bool) : Eff :=
  .seq (startUnit ((4 + m) * 64 + 8)) (nowWork ((4 + m) * 64 + 8) fun f u =>
    let (g, j) := u.work.getD u.n (0, 0)
    if u.waits then .skip
    else if mismatch || u.inj = 3 || u.inj = 4 || (u.inj != 0 && !u.retried) then updFail f u
    else .get fun s => .seq (Eff.when u.retried (updCorrected s f u)) (factorWrite f u g j))

def execUpdFactorBlockDone (m : Fin 2) (mismatch : Bool) (s : State) : Host.Outcome State Fault Refusal :=
  done (factorDone m mismatch) s

def execUpdInjectArm (m : Fin 2) (v : BitVec 32) (s : State) : Host.Outcome State Fault Refusal :=
  done (injectWrite .UPD_INJECT (4 + m) 0x30F v.toNat) s

/-- Bounce space has room again for the block a unit holds: it goes on, and the bound clock runs again (R287). -/
def bounceFreed (m l : Nat) : Eff :=
  nowWork ((4 + m) * 64 + l) fun f u => .get fun s =>
    let r := readRegion s.mem (tget s f.die (uTbl f.desc)) (u.work.getD u.n (0, 0)).1
    let b := if f.op = 0x80 then (u.work.getD u.n (0, 0)).2 else (u.work.getD u.n (0, 0)).2 * r.pb / r.block
    let room := match bounceOf s r b with
      | .full => false
      | _ => true
    Eff.when (u.waits && room)
      (let f' := f.putUnit { u with sc := [] }
       let still := f'.units.any UW.waits
       putFlight { f' with stopAt := if still then f.stopAt else 0,
                           stopped := if still then f.stopped else f.stopped + (s.cc + 1 - f.stopAt) })

def execBounceSpaceFreed (m : Fin 2) (u : Fin 9) (s : State) : Host.Outcome State Fault Refusal :=
  done (bounceFreed m u) s

/-- What an update command does when it completes: the regions with no block of their own have begun too. -/
def finishUpdate (f : Flight) : Eff :=
  .get fun s =>
    Eff.when (f.op = 0x80 && f.skip.isNone && verdictOf s f.sq = some 0)
      (.seq (beginRegions f 0 65535) (beginRegions f 1 65535))

/-! ## Streaming (R288, 13 R508) -/

def itemHeader (kind region block len : Nat) : List Byte :=
  leBytes 1 kind ++ leBytes 1 0 ++ leBytes 2 region ++ leBytes 4 block ++ leBytes 4 len ++ leBytes 4 0

def sendItem (kind region block : Nat) (payload : List Byte) (last : Bool) : Eff :=
  .get fun s =>
    let bs := itemHeader kind region block payload.length ++ payload
    .seq (sendObj s.upd.snapSession (s.upd.snapStep % 65536) s.upd.snapBytes last bs)
      (modUpd fun u => { u with snapBytes := u.snapBytes + bs.length })

/-- The next block whose bit is 0: index of its region in the range, and the block. -/
def nextUnsent (s : State) : Option (Nat × Nat) :=
  ((List.range s.upd.snapCount).flatMap fun i => (List.range (snapRegion s i).blocks).map fun b => (i, b)).find?
    fun (i, b) => !snapBitSet s (snapBit s i b)

/-- A block has gone; after the last one the object ends and the snapshot is complete. -/
def snapGone : Eff :=
  .seq (modR .UPD_SNAP_STATUS 4 0 fun w => putBits w 39 0 (bits w 39 0 - 1)) (.get fun s =>
    Eff.when (rfld s .UPD_SNAP_STATUS 4 0 39 0 = 0) (Eff.all [
      sendItem 3 0 0 (leBytes 8 (s.upd.snapBytes + 24)) true,
      putR .UPD_STATUS 4 0 29 29 0,
      .get fun s => emit 0x0449 4 [.num 8 s.upd.snapStep, naItem 2, naItem 4, naItem 1, naItem 4, .num 8 s.upd.snapBytes],
      modUpd fun u => { u with snapCount := 0, bounce := [], snapHdrLen := 0, snapHeader := false }]))

/-- The entry of bounce space that is sent next: regions and blocks ascending. -/
def nextBounce (s : State) : Option (Nat × Nat × Nat × Nat) :=
  s.upd.bounce.find? fun e => s.upd.bounce.all fun x => e.1 < x.1 || (e.1 = x.1 && e.2.1 ≤ x.2.1)
/-- Whether a window opens Ethernet and the channels that the next item of the stream needs (R239, R240): those of the home
of its block, or for the header those of either M-die, whose scratch windows hold it (DESIGN CHOICE, assumption 15). -/
def streamOpen (s : State) : Bool :=
  let next := if !s.upd.snapHeader then none else match nextBounce s with
    | some (i, _) => some i
    | none => (nextUnsent s).map (·.1)
  shadeOpen s 70 && (match next with
    | some i => shadeOpen s (8 * (snapRegion s i).owner)
    | none => shadeOpen s 0 || shadeOpen s 8)

/-- Ethernet reads bytes of memory: the data goes out as read, and a line found uncorrectable counts as one (08 R323). -/
def readByHost (runs : List (Nat × Nat)) : Eff :=
  .get fun s => .seq (demand runs) (Eff.each (runs.flatMap fun (a, n) => badLines s a n) fun l => ueLine (256 * l) .host)

/-- One item of the stream, in a shade window. -/
def streamItem : Eff :=
  .get fun s =>
    Eff.when (s.upd.snapCount != 0 && streamOpen s && sesOpen s s.upd.snapSession && sesRoom s s.upd.snapSession)
      (if !s.upd.snapHeader then
        .seq (sendItem 1 0 0 ((List.range s.upd.snapHdrLen).map fun i => rdByte s.mem (tByteAddr s.upd.snapBounce i)) false)
          (modUpd fun u => { u with snapHeader := true })
      else
        match nextBounce s with
        | some (i, b, off, n) => Eff.all [
            sendItem 2 (s.upd.snapFirst + i) b ((List.range n).map fun j => rdByte s.mem (tByteAddr s.upd.snapBounce (off + j))) false,
            modUpd fun u => { u with bounce := u.bounce.erase (i, b, off, n) },
            snapGone]
        | none =>
          match nextUnsent s with
          | some (i, b) => Eff.all [
              readByHost ((snapRegion s i).runs b),
              sendItem 2 (s.upd.snapFirst + i) b (blockBytes s.mem (snapRegion s i) b) false,
              setSnapBit (snapBit s i b),
              snapGone]
          | none => .skip)
def execSnapStreamItem (s : State) : Host.Outcome State Fault Refusal := done streamItem s

/-- A SNAP session opens again: its snapshot is sent once more in full (13 R505). Blocks whose old bytes still stand
in bounce space keep their bits. -/
def snapRestart (sid : Nat) : Eff :=
  .get fun s =>
    Eff.when (s.upd.snapCount != 0 && s.upd.snapSession = sid && s.upd.snapBytes != 0)
      (let all := (List.range s.upd.snapCount).flatMap fun i => (List.range (snapRegion s i).blocks).map fun b => (i, b)
       let back := all.filter fun (i, b) => !s.upd.bounce.any fun (j, c, _, _) => i = j && b = c
       Eff.all [
        writeMem (back.map fun (i, b) => let n := snapBit s i b; ⟨tByteAddr s.upd.snapMap (n / 8), n % 8, 1, 0⟩),
        putR .UPD_SNAP_STATUS 4 0 39 0 all.length,
        modUpd fun u => { u with snapHeader := false, snapBytes := 0 }])

/-! ## The step parameter block (R257, R258) -/

def spbPending (s : State) : Bool := rbit s .UPD_STATUS 4 0 28

/-- A write to SEAL copies the staged block into the pending buffer, or is refused while one is pending. -/
def sealSpb : Eff :=
  .get fun s =>
    if spbPending s then
      .seq (setFaultBoth .UPD_FAULT 4 5 1) (emit 0x0441 4 (updItems s (s.cp.released - 1) none none none none))
    else Eff.all [
      modUpd fun u => { u with pending := u.staging },
      putR .UPD_STATUS 4 0 28 28 1,
      modCp fun c => { c with deadline := 0 }]
def execSealBlock (s : State) : Host.Outcome State Fault Refusal := done sealSpb s

/-- The host's deadline for the next block runs out. -/
def deadlineExpire : Eff :=
  .get fun s =>
    let us := rfld s .UPD_SPB_DEADLINE 4 0 31 0
    Eff.when (s.cp.deadline != 0 && us != 0 && !spbPending s) (Eff.all [
      advanceTo (s.cp.deadline - 1 + 1750 * us),
      setFaultBoth .UPD_FAULT 4 5 2,
      .get fun s => emit 0x0442 4 (updItems s (s.cp.released - 1) none none none none),
      modCp fun c => { c with deadline := 0 }])
def execSpbDeadlineExpire (s : State) : Host.Outcome State Fault Refusal := done deadlineExpire s

/-- The deadline's interval starts when the last queue reaches STEP.END while no block is pending. -/
def startDeadline : Eff :=
  .get fun s =>
    let qs := allQueues.filter fun (d, q) => 0 < (queueOf s d q).len
    Eff.when (s.cp.deadline = 0 && !spbPending s && qs.all fun (d, q) =>
        let u := queueOf s d q
        u.atEnd && u.step + 1 = s.cp.released)
      (modCp fun c => { c with deadline := s.cc + 1 })

/-- Time limits that were set while a queue reached STEP.END: the row of STEP.END with its deadline. -/
def stepEndDeadline (die q : Nat) : Eff :=
  .get fun s =>
    let was := (queueOf s die q).atEnd
    .seq (stepEndRow die q) (.get fun s => Eff.when (!was && (queueOf s die q).atEnd) startDeadline)

def execStepEnd (die : Fin 4) (q : Fin 16) (s : State) : Host.Outcome State Fault Refusal :=
  done (stepEndDeadline die q) s

end Sys2Proof.Machine
end

