-- ==== Sys2Proof/Machine/Collective.lean ====
section
/-!
DEFINITION. The collective sequencers (10 R383-R411): what a collective moves, as numbered streams of packets
(R392, R395, R400-R405), its setup (R392, R393), and landing writes (R399, 07 R253). The places of the values that
R392 leaves to the packets are assumption 13, the numbering assumption 14.
-/
namespace Sys2Proof.Machine

/-! ## Open collectives -/

def findOp (s : State) (die q pos : Nat) : Option ColOp := s.col.ops.find? fun o => o.die = die && o.q = q && o.pos = pos
def putOp (o : ColOp) : Eff :=
  modCol fun c => { c with ops := putFirst (fun x => x.die = o.die && x.q = o.q && x.pos = o.pos) o c.ops }
/-- The collective as it stands, with its command and group. -/
def nowOp (die q pos : Nat) (k : ColOp → Flight → Group → Eff) : Eff :=
  .get fun s =>
    match findOp s die q pos, findFlight s die q pos with
    | some o, some f => k o f (groupOf s o.group)
    | _, _ => .skip
def modOp (o : ColOp) (h : ColOp → ColOp) : Eff := .get fun s => Eff.opt (findOp s o.die o.q o.pos) fun x => putOp (h x)

/-- What every record of the sequencers carries (R413): group, STREAM, step, queue position. -/
def colItems (s : State) (o : ColOp) (sq : Nat) : List Item :=
  [.num 2 o.group, .num 2 o.stream, .num 8 (stepOf s sq).stepNo, .num 4 o.pos]

/-! ## Positions and distances -/

/-- Hops from position x to y going in direction `dir`; none beyond the end of a line. -/
def hopsTo (g : Group) (dir x y : Nat) : Option Nat :=
  let (a, b) := if dir = 0 then (x, y) else (y, x)
  if g.closed then some ((b + g.n - a) % max 1 g.n) else if a ≤ b then some (b - a) else none

/-- Hops that a member's own shard travels in a direction, and the length of the chain that comes to it travelling
in that direction (R395): in a closed group a plus and b minus; in a line to the ends, and from the ends. -/
def spreadLen (g : Group) (dir i : Nat) : Nat :=
  if g.closed then (if dir = 0 then chainA g.n else chainB g.n) else if dir = 0 then g.n - 1 - i else i
def chainLen (g : Group) (dir j : Nat) : Nat :=
  if g.closed then (if dir = 0 then chainA g.n else chainB g.n) else if dir = 0 then j else g.n - 1 - j
/-- The shorter way from x to y, ties going plus (R403). -/
def shortWay (g : Group) (x y : Nat) : Nat :=
  match hopsTo g 0 x y, hopsTo g 1 x y with
  | some a, some b => if a ≤ b then 0 else 1
  | some _, none => 0
  | _, _ => 1

/-! ## Streams -/

/-- How a stream travels: a chain added up toward its owner, a spread from its source, one member to another through
the sequencers between, or by address through the routers alone. -/
inductive Way where
  | chain | spread | relay | direct
  deriving DecidableEq, Repr

/-- A stream: its first SEQ, bytes, way, source and destination position, first row at either end, rows, expert. -/
structure Stm where
  way : Way
  src : Nat
  dst : Nat
  bytes : Nat
  srow : Nat := 0
  drow : Nat := 0
  rows : Nat := 0
  ex : Nat := 0
  base : Nat := 0
  deriving DecidableEq, Repr

/-- A shard is cut into packets of 4,080 bytes (R392). -/
def Stm.packets (st : Stm) : Nat := ceilDiv st.bytes 4080
/-- SEQ numbers the packets of the streams in order. -/
def numberFrom : Nat → List Stm → List Stm
  | _, [] => []
  | n, st :: t => { st with base := n } :: numberFrom (n + st.packets) t

/-- Wire bytes of a row: FP32 in a reduction, else the stored row and its scales (R391). -/
def TDesc.wireRow (t : TDesc) : Nat := t.rowBytes + if t.isMx then t.scaleCols else 0

/-! ### Expert all-to-all (R402-R404) -/

def tableEntry (s : State) (t : TDesc) (i : Nat) : Nat :=
  if i < t.outer * t.inner then rdCode s.mem t (i / max 1 t.inner) (i % max 1 t.inner) else 0
/-- Entry of an expert: VALID, POS, SLOT. -/
def expertEntry (s : State) (f : Flight) (e : Nat) : Nat := tableEntry s (tget s f.die (a2aExpert f.desc)) e
def expertPos (s : State) (f : Flight) (e : Nat) : Nat := bits (expertEntry s f e) 21 16
def localEntry (s : State) (f : Flight) (slot : Nat) : Nat := tableEntry s (tget s f.die (a2aLocal f.desc)) slot
/-- The tensor a local slot names. -/
def slotTensor (s : State) (f : Flight) (slot : Nat) : Nat := bits (localEntry s f slot) 12 0
/-- OUTER of the buffers of a slot: this module's own, or that of its first valid slot where it has none (assumption 14). -/
def slotOuter (s : State) (f : Flight) (e : Nat) : Nat :=
  let slot := bits (expertEntry s f e) 7 0
  let used := if bit (localEntry s f slot) 31 then some slot else (List.range 256).find? fun i => bit (localEntry s f i) 31
  match used with
  | some i => (tget s f.die (slotTensor s f i)).outer
  | none => 0
/-- A route: expert number or -1. -/
def routeOf (s : State) (f : Flight) (t j : Nat) : Int := rdInt s.mem (tget s f.die (a2aRoute f.desc)) t j
/-- This member's routes that name expert e, ascending. -/
def routesTo (s : State) (f : Flight) (e : Nat) : List (Nat × Nat) :=
  ((List.range (tget s f.die (a2aRoute f.desc)).outer).flatMap fun t => (List.range (a2aK f.desc)).map fun j => (t, j)).filter
    fun (t, j) => routeOf s f t j = (e : Int)
/-- Count (p, e) from the SETUP of position p. -/
def countOf (o : ColOp) (p e : Nat) : Nat :=
  match o.setups.find? (·.1 = p) with
  | some (_, bs) => leNat ((bs.drop (20 + 4 * e)).take 4)
  | none => 0
/-- First row of source p in the buffer of expert e, and the rows of it that fit. -/
def placeBase (o : ColOp) (p e : Nat) : Nat := ((List.range p).map fun x => countOf o x e).foldl (· + ·) 0
def placeKept (s : State) (f : Flight) (o : ColOp) (p e : Nat) : Nat :=
  min (countOf o p e) (slotOuter s f e - placeBase o p e)
/-- Whether the routes and slots are consistent (R402). -/
def a2aConsistent (s : State) (f : Flight) (g : Group) : Bool :=
  let tr := tget s f.die (a2aRoute f.desc)
  (List.range tr.outer).all (fun t => (List.range (a2aK f.desc)).all fun j =>
    let r := routeOf s f t j
    r = -1 || (decide (0 ≤ r) && decide (r < 1024) && bit (expertEntry s f r.toNat) 31)) &&
  (List.range 1024).all fun e =>
    let x := expertEntry s f e
    !(bit x 31 && bits x 21 16 = g.pos) || bit (localEntry s f (bits x 7 0)) 31

/-- Format of the rows that position p returns in a combine: that of its SETUP. -/
def setupFmt (o : ColOp) (p : Nat) : Fmt :=
  match o.setups.find? (·.1 = p) with
  | some (_, bs) => (Fmt.ofCode ((bs.getD 3 0).toNat % 64)).getD (.plain .fp32)
  | none => .plain .fp32

/-! ### The streams of a collective -/

def colStreams (s : State) (f : Flight) (o : ColOp) (g : Group) : List Stm :=
  let d := f.desc
  let tt := tget s f.die
  let ls := shardLens s.mem tt g.n d
  let off := shardOff ls
  let len (i : Nat) : Nat := ls.getD i 0
  let S := tt (colSrc d); let D := tt (colDst d)
  let chains := (List.range g.n).map fun j =>
    ({ way := .chain, src := j, dst := j, bytes := 4 * len j * S.inner, srow := off j,
       drow := if o.op = 0x70 then 0 else off j, rows := len j } : Stm)
  let spreads (w : Nat) := (List.range g.n).map fun i =>
    ({ way := .spread, src := i, dst := i, bytes := len i * w, srow := 0, drow := off i, rows := len i } : Stm)
  let peer := (sendPeer g d).getD 0
  numberFrom 0
    (if o.op = 0x70 then chains
     else if o.op = 0x72 then chains ++ spreads (4 * S.inner)
     else if o.op = 0x74 then
       [{ way := .chain, src := colRoot d, dst := colRoot d, bytes := 4 * S.outer * S.inner, rows := S.outer }]
     else if o.op = 0x71 then spreads D.wireRow
     else if o.op = 0x73 then
       [{ way := .spread, src := colRoot d, dst := colRoot d, bytes := S.outer * S.wireRow, rows := S.outer }]
     else if o.op = 0x78 then [{ way := .direct, src := g.pos, dst := peer, bytes := S.outer * S.wireRow, rows := S.outer }]
     else if o.op = 0x79 then [{ way := .direct, src := peer, dst := g.pos, bytes := D.outer * D.wireRow, rows := D.outer }]
     else if o.op = 0x7C then
       ((permRuns s.mem (tt (permTbl d))).filter fun r => r.sp != r.dp).map fun r =>
         { way := .relay, src := r.sp, dst := r.dp, bytes := r.rows * S.wireRow, srow := r.sr, drow := r.dr, rows := r.rows }
     else if o.op = 0x7A || o.op = 0x7B then
       (List.range g.n).flatMap fun p => (List.range 1024).filterMap fun e =>
         let n := placeKept s f o p e
         let at_ := expertPos s f e
         if n = 0 || at_ = p then none
         else if o.op = 0x7A then
           some { way := .relay, src := p, dst := at_, bytes := n * (tt (a2aData d)).wireRow, drow := placeBase o p e, rows := n, ex := e }
         else
           let w := ceilDiv ((tt (a2aData d)).inner * (setupFmt o at_).elem.width) 8
           some { way := .relay, src := at_, dst := p, bytes := n * w, srow := placeBase o p e, rows := n, ex := e }
     else [])

/-- Whether this member receives a stream's packets travelling in a direction. -/
def Stm.comes (g : Group) (st : Stm) (dir : Nat) : Bool :=
  match st.way with
  | .chain => match hopsTo g dir g.pos st.dst with
    | some h => decide (h < chainLen g dir st.dst)
    | none => false
  | .spread => match hopsTo g dir st.src g.pos with
    | some h => decide (1 ≤ h) && decide (h ≤ spreadLen g dir st.src)
    | none => false
  | .relay => decide (dir = shortWay g st.src st.dst) &&
    match hopsTo g dir st.src g.pos, hopsTo g dir st.src st.dst with
    | some h, some n => decide (1 ≤ h) && decide (h ≤ n)
    | _, _ => false
  | .direct => st.dst = g.pos && st.src != g.pos
/-- Whether it passes them on. -/
def Stm.goesOn (g : Group) (st : Stm) (dir : Nat) : Bool :=
  match st.way with
  | .chain => st.dst != g.pos
  | .spread => match hopsTo g dir st.src g.pos with
    | some h => decide (h < spreadLen g dir st.src)
    | none => false
  | .relay => st.dst != g.pos
  | .direct => false
/-- Whether the stream sets out from this member in a direction. -/
def Stm.starts (g : Group) (d : Desc) (st : Stm) (dir : Nat) : Bool :=
  match st.way with
  | .chain => match hopsTo g dir g.pos st.dst with
    | some h => decide (0 < h) && decide (h = chainLen g dir st.dst)
    | none => false
  | .spread => st.src = g.pos && decide (0 < spreadLen g dir st.src)
  | .relay => st.src = g.pos && decide (dir = shortWay g st.src st.dst)
  | .direct => st.src = g.pos && decide (dir = sendDir d)
/-- Directions in which packets of a stream come: a direct one by the side its peer lies on. -/
def Stm.inDirs (g : Group) (st : Stm) : List Nat :=
  if st.way = .direct then (if st.comes g 0 then [0] else []) else [0, 1].filter fun dir => st.comes g dir

/-! ## Contents -/

/-- Rows of a tensor as they travel: packed bytes, then scale rows. -/
def rawRows (m : Mem) (t : TDesc) (rows : List Nat) : List Byte :=
  rows.flatMap (fun r => rdBytes m (t.base + r * t.stride) t.rowBytes) ++
  (if t.isMx then rows.flatMap fun r => rdBytes m (t.scaleAddr r 0) t.scaleCols else [])
/-- Writes of rows that arrived so. -/
def rawWrites (t : TDesc) (rows : List Nat) (bs : List Byte) : List Wr :=
  rows.zipIdx.flatMap fun (r, i) =>
    byteWrs (t.base + r * t.stride) ((bs.drop (i * t.rowBytes)).take t.rowBytes) ++
    (if t.isMx then byteWrs (t.scaleAddr r 0) ((bs.drop (rows.length * t.rowBytes + i * t.scaleCols)).take t.scaleCols) else [])

/-- Elements [a, b) of rows that start at `row`, counted along the rows, widened to FP32 (R69). -/
def flatVals (m : Mem) (t : TDesc) (row a b : Nat) : List F32 :=
  (rangeFrom a b).map fun i => rdF32 m t (row + i / max 1 t.inner) (i % max 1 t.inner)
def valBytes (vs : List F32) : List Byte := vs.flatMap fun v => leBytes 4 v.toNat
def bytesVals (n : Nat) (w : Nat) : List F32 := (List.range n).map fun i => BitVec.ofNat 32 (bits w (32 * i + 31) (32 * i))

/-- Length of packet `seq` of a stream, and its own part of a reduction there. -/
def Stm.packetLen (st : Stm) (seq : Nat) : Nat := min 4080 (st.bytes - 4080 * (seq - st.base))
def ownPart (s : State) (f : Flight) (st : Stm) (seq : Nat) : List F32 :=
  let a := 1020 * (seq - st.base)
  flatVals s.mem (tget s f.die (colSrc f.desc)) st.srow a (a + st.packetLen seq / 4)

/-- The bytes with which this member starts a stream. -/
def ownBytes (s : State) (f : Flight) (o : ColOp) (st : Stm) : List Byte :=
  let d := f.desc
  let S := tget s f.die (colSrc d)
  if st.way = .chain then valBytes (flatVals s.mem S st.srow 0 (st.rows * S.inner))
  else if o.op = 0x7A then
    rawRows s.mem (tget s f.die (a2aData d)) (((routesTo s f st.ex).take st.rows).map (·.1))
  else if o.op = 0x7B then
    let t := tget s f.die (slotTensor s f (bits (expertEntry s f st.ex) 7 0))
    rawRows s.mem t (rangeFrom st.srow (st.srow + st.rows))
  else rawRows s.mem S (rangeFrom st.srow (st.srow + st.rows))

/-- Packets of a stream in a direction, as they wait for credit. -/
def outPackets (st : Stm) (dir : Nat) (bs : List Byte) : List (Nat × Nat × Nat × Nat) :=
  (List.range st.packets).map fun p =>
    let b := (bs.drop (4080 * p)).take 4080
    (dir, st.base + p, b.length, leNat b)

/-- What has been gathered of a stream, as bytes. -/
def gathered (o : ColOp) (st : Stm) : List Byte :=
  (List.range st.packets).flatMap fun p => leBytes (st.packetLen (st.base + p)) (mget 0 o.staged (st.base + p))

/-! ## Writing reduced values (R397, R399) -/

/-- A block's gradient slot is cleared, and it is marked touched, when its first landing write of a step comes (07 R253). -/
def touchBlock (key : Nat) (r : Region) (b : Nat) : Eff :=
  .get fun s =>
    Eff.when (ledgerTouch s.mem r b != key)
      (let (lo, hi) := r.span b
       writeMem (((rangeFrom lo hi).map fun i => ⟨r.grad + 4 * i, 0, 32, 0⟩) ++ [⟨r.ledger + 8 * b + 4, 0, 32, key⟩]))

/-- A landing write of bytes at an address: every block it covers is touched first. -/
def landWrite (f : Flight) (a : Nat) (bs : List Byte) : Eff :=
  .get fun s =>
    let d := f.desc
    let t := tget s f.die (colTbl d)
    let key := touchKey (stepOf s f.sq).stepNo
    let hit := (List.range (colCount d)).flatMap fun i =>
      let r := readRegion s.mem t (colFirst d + i)
      ((List.range r.blocks).filter fun b =>
        let (lo, hi) := r.span b
        decide (a < r.grad + 4 * hi) && decide (r.grad + 4 * lo < a + bs.length)).map fun b => (r, b)
    .seq (Eff.each hit fun (r, b) => touchBlock key r b) (writeBytes a bs)

/-- Bytes cut at aligned 256-byte lines, with the address of each piece. -/
def linePieces : Nat → Nat → List Byte → List (Nat × List Byte)
  | 0, _, _ => []
  | _, _, [] => []
  | fuel + 1, a, bs =>
    let n := 256 - a % 256
    (a, bs.take n) :: linePieces fuel (a + n) (bs.drop n)

/-- Write reduced values to rows of D from `row` on: rounded to D's format, landing where the command lands. With
SKIP0 a whole line of zeros is not written. -/
def writeReduced (f : Flight) (row : Nat) (vs : List F32) : Eff :=
  .get fun s =>
    let d := f.desc
    let D := tget s f.die (colDst d)
    let out := vs.zipIdx.map fun (v, i) => convPlain D (fun _ => .near) (row + i / max 1 D.inner) (i % max 1 D.inner) v
    let ovf := out.any (·.2) || (D.grad && vs.any fun v => !fisFin v)
    let pieces := linePieces (vs.length + 1) (D.base + row * D.stride)
      (out.flatMap fun (ws, _) => ws.flatMap fun w => leBytes (w.w / 8) w.v)
    .seq
      (if colLand d then
        Eff.each (pieces.filter fun (_, b) => !(colSkip0 d && b.length = 256 && b.all (· = 0#8))) fun (a, b) => landWrite f a b
      else writeMem (out.flatMap (·.1)))
      (Eff.when ovf (raiseOverflow f.sq))

/-- The operator of RED_OP. -/
def redOp (n : Nat) (a b : F32) : F32 := if n = 1 then fmax a b else if n = 2 then fmin a b else fadd a b

/-! ## Sending -/

/-- Directions a member sends setup and abort packets of a collective in. -/
def colDirs (o : ColOp) (d : Desc) : List Nat := if o.op = 0x78 || o.op = 0x79 then [sendDir d] else [0, 1]

/-- Send a packet of a collective in a direction: to the neighbour, or for COL.SEND and COL.RECV to the peer. -/
def sendCol (o : ColOp) (f : Flight) (g : Group) (dir seq : Nat) (payload : List Byte) : Eff :=
  .get fun s =>
    let t := tget s f.die (if o.op = 0x79 then colDst f.desc else colSrc f.desc)
    let vtag := if o.op = 0xA1 then 0 else t.vtag
    let p := o.op != 0xA1 && t.poison
    if (o.op = 0x78 || o.op = 0x79) && sendHops f.desc != 1 then
      .seq (incR64 .COL_TX_BYTES (6 + dir) 0 payload.length)
        (sendPacket (Config.memberNode g.w ((sendPeer g f.desc).getD 0) % 2 ^ 16) 2 (nodePart s) p (bodyC o.stream seq vtag) payload)
    else sendC g dir p o.stream seq vtag payload

/-- The packets of a queue that credit allows, in order, the others, and the credit left. -/
def takeCredit : Nat → List (Nat × Nat × Nat × Nat) → List (Nat × Nat × Nat × Nat) × List (Nat × Nat × Nat × Nat) × Nat
  | c, [] => ([], [], c)
  | c, e :: t =>
    if e.2.2.1 ≤ c then let (a, b, c') := takeCredit (c - e.2.2.1) t; (e :: a, b, c') else ([], e :: t, c)

/-- Send what credit allows. -/
def pump (o : ColOp) : Eff :=
  Eff.each [0, 1] fun dir => nowOp o.die o.q o.pos fun x f g =>
    let (out, rest, c) := takeCredit (mget 0 x.credit dir) (x.outQ.filter (·.1 = dir))
    .seq (putOp { x with outQ := x.outQ.filter (·.1 != dir) ++ rest, credit := mset 0 x.credit dir c })
      (Eff.each out fun (_, seq, n, v) => sendCol x f g dir seq (leBytes n v))

/-- SEQ values of SETUP, CREDIT and ABORT (R392). -/
def seqSetup : Nat := 0xFFFFFF01
def seqCredit : Nat := 0xFFFFFF02
def seqAbort : Nat := 0xFFFFFF03

/-- Bytes of a packet have been consumed; credit goes back when half of the grant is owed. -/
def consume (o : ColOp) (dir n : Nat) : Eff :=
  nowOp o.die o.q o.pos fun x f g =>
    let w := mget 0 x.owed dir + n
    if w < 2 ^ 19 then putOp { x with owed := mset 0 x.owed dir w }
    else .seq (putOp { x with owed := mset 0 x.owed dir 0 })
      (sendCol x f g (if x.op = 0x79 then sendDir f.desc else 1 - dir) seqCredit (leBytes 4 w))

/-! ## Ends of a collective -/

/-- A collective is over at this member. -/
def endOp (o : ColOp) : Eff := modOp o fun x => { x with finished := true, outQ := [], arrivals := [] }

/-- A member abandons a collective (R410): ABORT both ways, its command skipped, counted and recorded with the cause. -/
def abandon (o : ColOp) (cause : Nat) : Eff :=
  nowOp o.die o.q o.pos fun x f g => .get fun s =>
    Eff.when (!x.finished) (Eff.all [
      Eff.when (x.op != 0x7E) (Eff.each (colDirs x f.desc) fun dir => sendCol x f g dir seqAbort []),
      endOp x,
      skipFlight f skHardFault,
      incR .COL_ABORT_COUNT 6 0 1,
      setFaultBoth .COL_FAULT 6 7 2,
      emit 0x0700 6 (colItems s x f.sq ++ [.num 1 cause])])

/-- The collective is skipped without being abandoned. -/
def skipOp (o : ColOp) (code : Nat) : Eff := nowOp o.die o.q o.pos fun x f _ => .seq (endOp x) (skipFlight f code)

end Sys2Proof.Machine
end

