-- ==== Sys2Proof/Machine/ExecCollective.lean ====
section
/-!
DEFINITION. Collectives from issue to their end: COL.RS … COL.XDR, DIG.MIRROR, the packets they receive, their
timeout and injection, and the verdict reduction (10 R389-R415, 11 R444-R447, 07 R263-R266).
-/
namespace Sys2Proof.Machine

/-! ## Finishing -/

/-- A route's row as an expert returned it, with its place in the order of arrival (R404). -/
def returnedRow (s : State) (f : Flight) (o : ColOp) (g : Group) (t j : Nat) : Nat × List F32 :=
  let d := f.desc
  let e := (routeOf s f t j).toNat
  let i := (routesTo s f e).findIdx (· = (t, j))
  let inner := (tget s f.die (a2aData d)).inner
  let at_ := expertPos s f e
  if at_ = g.pos then
    let b := tget s f.die (slotTensor s f (bits (expertEntry s f e) 7 0))
    (0, flatVals s.mem b (placeBase o g.pos e + i) 0 inner)
  else
    match (colStreams s f o g).find? fun st => st.dst = g.pos && st.ex = e with
    | none => (0, [])
    | some st =>
      let el := (setupFmt o at_).elem
      let w := ceilDiv (inner * el.width) 8
      let row := leNat (((gathered o st).drop (i * w)).take w)
      let last := st.base + ((i + 1) * w - 1) / 4080
      (1 + o.done.findIdx (· / 2 = last),
       (List.range inner).map fun c => f32r (el.dec (bits row (c * el.width + el.width - 1) (c * el.width))))

/-- COL.A2A.C combines each token's rows in FP32 (R404): ascending route index under REPRO, else in order of arrival. -/
def combine (o : ColOp) (f : Flight) (g : Group) : Eff :=
  .get fun s =>
    let d := f.desc
    let D := tget s f.die (a2aData d)
    let tp := tget s f.die (a2aPlace d)
    let tw := tget s f.die (a2aWeight d)
    let rows := (List.range D.outer).map fun t =>
      let js := (List.range (a2aK d)).filter fun j => rdInt s.mem tp t j != -1 && routeOf s f t j != -1
      let es := js.map fun j => (j, returnedRow s f o g t j)
      let ord := if (stepOf s f.sq).repro then es
        else es.foldl (fun (l : List (Nat × Nat × List F32)) e => (l.filter fun x => x.2.1 ≤ e.2.1) ++ [e] ++ l.filter fun x => !(x.2.1 ≤ e.2.1)) []
      (List.range D.inner).map fun c =>
        (ord.foldl (fun (acc : Option F32) (j, _, row) =>
          let w := if a2aWeight d = 0 then f32One else rdF32 s.mem tw t j
          let v := row.getD c f32Zero
          match acc with
          | none => some (fmul w v)
          | some a => some (ffma w v a)) none).getD f32Zero
    let (ws, ovf) := convRect D (fun _ => .near) 0 D.outer 0 D.inner fun t c => (rows.getD t []).getD c f32Zero
    let bad := D.grad && rows.any fun r => r.any fun v => !fisFin v
    .seq (writeMem ws) (Eff.when (ovf || bad) (raiseOverflow f.sq))

/-- Packets a member must have processed before its part is done. -/
def expected (s : State) (f : Flight) (o : ColOp) (g : Group) : Nat :=
  ((colStreams s f o g).map fun st => st.packets * (st.inDirs g).length).foldl (· + ·) 0

/-- The data phase is over once every packet has been processed and all have left. -/
def checkDone (o : ColOp) : Eff :=
  nowOp o.die o.q o.pos fun x f g => .get fun s =>
    Eff.when (x.ready && !x.finished && x.outQ.isEmpty && x.arrivals.isEmpty && x.done.length = expected s f x g)
      (.seq (Eff.when (x.op = 0x7B) (combine x f g)) (endOp x))

/-! ## The data phase (R395-R405) -/

/-- A whole stream has come: it is written where it goes. The owner of a shard of COL.AR sends it on (R395). -/
def deliver (o : ColOp) (st : Stm) : Eff :=
  nowOp o.die o.q o.pos fun x f g => .get fun s =>
    let d := f.desc
    let bs := gathered x st
    let D := tget s f.die (colDst d)
    if st.way = .chain then
      let spread := (colStreams s f x g).find? fun z => z.way = .spread && z.src = g.pos
      .seq (writeReduced f st.drow (bytesVals (bs.length / 4) (leNat bs)))
        (match spread with
        | some z => modOp x fun y => { y with outQ := y.outQ ++ ([0, 1].flatMap fun dir => if z.starts g d dir then outPackets z dir bs else []) }
        | none => .skip)
    else if st.way = .spread && x.op = 0x72 then writeReduced f st.drow (bytesVals (bs.length / 4) (leNat bs))
    else if x.op = 0x7A then
      writeMem (rawWrites (tget s f.die (slotTensor s f (bits (expertEntry s f st.ex) 7 0))) (rangeFrom st.drow (st.drow + st.rows)) bs)
    else if x.op = 0x7B then .skip
    else writeMem (rawWrites D (rangeFrom st.drow (st.drow + st.rows)) bs)

/-- Whether every packet of a stream that ends here has been processed. -/
def streamDone (g : Group) (o : ColOp) (st : Stm) : Bool :=
  (List.range st.packets).all fun p => (st.inDirs g).all fun dir => o.done.contains (2 * (st.base + p) + dir)
/-- Whether a stream is kept here. -/
def Stm.endsHere (g : Group) (st : Stm) : Bool := st.dst = g.pos || st.way = .spread

/-- A packet that needs no addition has been taken: it is passed on, kept, and its stream delivered when whole. -/
def takePacket (o : ColOp) (st : Stm) (p : ColPkt) (dir v : Nat) : Eff :=
  .seq (nowOp o.die o.q o.pos fun x _ g =>
    let on := st.goesOn g dir
    putOp { x with done := x.done ++ [2 * p.seq + dir],
                   outQ := if on then x.outQ ++ [(dir, p.seq, p.len, v)] else x.outQ,
                   staged := if st.endsHere g then mset 0 x.staged p.seq v else x.staged })
  (.seq (consume o dir p.len) (nowOp o.die o.q o.pos fun x _ g =>
    Eff.when (st.endsHere g && streamDone g x st) (deliver x st)))

/-- The paired lanes agree, disagree once (corrected by repeating), or twice (R398). An armed injection acts in the
next addition of its sequencer (R415). -/
def laneCheck (o : ColOp) (l mismatch : Nat) (go : Eff) : Eff :=
  nowOp o.die o.q o.pos fun x f _ => .get fun s =>
    let die := 6 + l
    let kind := rfld s .COL_INJECT die 0 1 0
    let armed := rbit s .COL_INJECT die 0 31 && kind < 2 && !rbit s .COL_SEQ_STATUS die 0 30
    let m := if armed then max mismatch (kind + 1) else mismatch
    let items := colItems s x f.sq
    .seq (Eff.when armed (.seq (putR .COL_INJECT die 0 31 31 0) (emit 0x0708 die items)))
      (if m = 0 then go
       else .seq (.seq (incFld .COL_SEQ_STATUS die 0 23 0 1) (putFlight { f with marks := f.marks ||| 8 }))
        (if m = 1 then Eff.all [setFault .COL_FAULT die 0, incR .COL_PAIR_CORR_COUNT die 0 1, emit 0x0706 die items, go]
         else Eff.all [putR .COL_SEQ_STATUS die 0 30 30 1, setFault .COL_FAULT die 1, emit 0x0707 die items, abandon x 4]))

/-- A data packet is processed: added into its chain, or taken. Under REPRO the owner holds a plus-chain packet until
the minus-chain packet it meets has been added (R396). -/
def processPacket (o : ColOp) (p : ColPkt) (mismatch : Nat) : Eff :=
  nowOp o.die o.q o.pos fun x f g => .get fun s =>
    match (colStreams s f x g).find? fun st => st.base ≤ p.seq && p.seq < st.base + st.packets with
    | none => .skip
    | some st =>
      let dir := if st.way = .direct then 0 else p.dir
      let p := { p with len := st.packetLen p.seq }
      let v := p.data % 2 ^ (8 * p.len)
      if !st.comes g dir || x.done.contains (2 * p.seq + dir) then .skip
      else if st.way != .chain then takePacket x st p dir v
      else
        let own := ownPart s f st p.seq
        let got := bytesVals (p.len / 4) v
        let fn := redOp (colRed f.desc)
        let owner := st.dst = g.pos
        let repro := (stepOf s f.sq).repro
        if owner && repro && dir = 1 && st.comes g 0 && !x.done.contains (2 * p.seq) then
          putOp { x with arrivals := x.arrivals ++ [p] }
        else
          let acc := if (st.inDirs g).any fun e => x.done.contains (2 * p.seq + e) then bytesVals (p.len / 4) (mget 0 x.staged p.seq) else own
          let sum := if owner then List.zipWith fn acc got else List.zipWith fn got own
          laneCheck x (if dir = 0 then 1 else 0) mismatch (takePacket x st p dir (leNat (valBytes sum)))

/-- Packets held are processed as soon as they may be. -/
def releaseHeld (o : ColOp) : Nat → Eff
  | 0 => .skip
  | fuel + 1 => nowOp o.die o.q o.pos fun x f g => .get fun s =>
    let free (p : ColPkt) : Bool :=
      match (colStreams s f x g).find? fun st => st.base ≤ p.seq && p.seq < st.base + st.packets with
      | none => true
      | some st => st.way != .chain || st.dst != g.pos || !(stepOf s f.sq).repro || p.dir = 0 || !st.comes g 0 ||
          x.done.contains (2 * p.seq)
    match x.arrivals.find? free with
    | none => .skip
    | some p => Eff.all [putOp { x with arrivals := x.arrivals.filter (· != p) }, processPacket x p 0, releaseHeld o fuel]

/-- After anything that may let packets leave: held ones are processed, those with credit sent, the end looked for. -/
def progress (o : ColOp) : Eff :=
  .seq (nowOp o.die o.q o.pos fun x _ _ => releaseHeld x x.arrivals.length) (.seq (pump o) (checkDone o))

/-! ## Setup (R392, R393, R400) -/

/-- The SETUP of this member: position, opcode, format, INNER, OUTER of the full tensor, CRC of the shard lengths, VTAG
and poison of S, RED_OP, and counts for an all-to-all. A mirror check carries SLOT, STRIDE and N in place of FORMAT,
INNER and OUTER (assumption 13). -/
def setupBytes (s : State) (f : Flight) (o : ColOp) (g : Group) : List Byte :=
  let d := f.desc
  let tt := tget s f.die
  let hd (fmt inner outer crc vtag red : Nat) (poison : Bool) : List Byte :=
    leBytes 2 g.pos ++ leBytes 1 o.op ++ leBytes 1 fmt ++ leBytes 4 inner ++ leBytes 4 outer ++ leBytes 4 crc ++
      leBytes 2 vtag ++ leBytes 1 red ++ leBytes 1 (b2n poison)
  if o.op = 0xA1 then hd (mirSlot d) (mirStride d) g.n 0 0 0 false
  else if o.op = 0x79 then let t := tt (colDst d); hd t.fmtCode t.inner t.outer 0 0 0 false
  else if o.op = 0x78 then let t := tt (colSrc d); hd t.fmtCode t.inner t.outer 0 t.vtag 0 t.poison
  else if o.op = 0x7A || o.op = 0x7B then
    let x := tt (a2aData d)
    let back := ((List.range 256).find? fun i => bit (localEntry s f i) 31).map fun i => tt (slotTensor s f i)
    let sf := if o.op = 0x7A then x else back.getD x
    hd sf.fmtCode x.inner x.outer 0 (if o.op = 0x7A then x.vtag else 0) 0 (o.op = 0x7A && x.poison) ++
      (List.range 1024).flatMap fun e => leBytes 4 (routesTo s f e).length
  else
    let t := tt (colSrc d)
    if o.op = 0x7C then hd t.fmtCode t.inner t.outer (crc32 ((tt (permTbl d)).stream s.mem)) t.vtag 0 t.poison
    else
      let ls := if colLen d = 0 && colRowsEq d = 0 then [] else shardLens s.mem tt g.n d
      hd t.fmtCode t.inner (fullOuter tt d) (crc32 (ls.flatMap fun l => leBytes 4 l)) t.vtag (colRed d) t.poison

/-- A SETUP of counts takes two packets; the second repeats the first 20 bytes. -/
def setupPackets (bs : List Byte) : List (List Byte) :=
  if bs.length ≤ 4080 then [bs] else [bs.take 4080, bs.take 20 ++ bs.drop 4080]
def setupLen (o : ColOp) : Nat := if o.op = 0x7A || o.op = 0x7B then 4116 else 20

/-- The first field of a peer's SETUP that must agree and does not: its first byte (R393, R401). -/
def setupDiff (o : ColOp) (mine theirs : List Byte) : Option Nat :=
  let at_ (l : List Byte) (i n : Nat) : Nat := leNat ((l.drop i).take n)
  let op := if o.op = 0x78 then 0x79 else if o.op = 0x79 then 0x78 else o.op
  if at_ theirs 2 1 != op then some 2
  else [(3, 1), (4, 4), (8, 4), (12, 4), (18, 1)].findSome? fun (i, n) => if at_ mine i n = at_ theirs i n then none else some i

/-- A member finds a difference: its command is skipped under PEER_MISMATCH and the event recorded once. -/
def mismatchOp (o : ColOp) (field : Nat) : Eff :=
  nowOp o.die o.q o.pos fun x f _ => .get fun s => Eff.all [
    skipOp x skPeerMismatch,
    incR .COL_MISMATCH_COUNT 6 0 1,
    setFaultBoth .COL_FAULT 6 7 3,
    emit 0x0701 6 (colItems s x f.sq ++ [.num 1 field])]

/-- Positions whose SETUP a member awaits. -/
def setupPeers (g : Group) (o : ColOp) (d : Desc) : List Nat :=
  if o.op = 0x78 || o.op = 0x79 then (sendPeer g d).toList else (List.range g.n).filter (· != g.pos)

/-- TAG_MODE of COL.AG and COL.RECV: the tag is the sum of the VTAGs of all SETUPs, or the sender's (R202, R400, R401). -/
def tagPhase (x : ColOp) (f : Flight) (g : Group) (s : State) : Option Eff :=
  let d := f.desc
  let vt (p : Nat) : Nat := match x.setups.find? (·.1 = p) with
    | some (_, b) => leNat ((b.drop 16).take 2)
    | none => 0
  let tag := if x.op = 0x79 then vt ((sendPeer g d).getD 0) else (((List.range g.n).map vt).foldl (· + ·) 0) % 65536
  if !(x.op = 0x71 || x.op = 0x79) || colTag d = 0 then some .skip
  else if colTag d = 2 && tagMismatch (tget s f.die (colRef d)) tag then none
  else some (.act (.otag f.die (colDst d) tag))

/-- What a member puts in place itself at the start of the data phase: its own shard of a gather, the root's tensor,
runs and rows that stay here, places and drops of a dispatch. -/
def ownWrites (x : ColOp) (f : Flight) (g : Group) : Eff :=
  .get fun s =>
    let d := f.desc
    let tt := tget s f.die
    let S := tt (colSrc d); let D := tt (colDst d)
    if x.op = 0x71 then
      let o := shardOff (shardLens s.mem tt g.n d) g.pos
      writeMem (rawWrites D (rangeFrom o (o + S.outer)) (rawRows s.mem S (List.range S.outer)))
    else if x.op = 0x73 && colRoot d = g.pos && colSrc d != colDst d then
      writeMem (rawWrites D (List.range S.outer) (rawRows s.mem S (List.range S.outer)))
    else if x.op = 0x7C then
      writeMem (((permRuns s.mem (tt (permTbl d))).filter fun r => r.sp = r.dp && r.sp = g.pos).flatMap fun r =>
        rawWrites D (rangeFrom r.dr (r.dr + r.rows)) (rawRows s.mem S (rangeFrom r.sr (r.sr + r.rows))))
    else if x.op = 0x7A then
      let X := tt (a2aData d); let P := tt (a2aPlace d)
      let es := List.range 1024
      let places := es.flatMap fun e => (routesTo s f e).zipIdx.map fun ((t, j), i) =>
        let row := placeBase x g.pos e + i
        wrElem P t j (if i < placeKept s f x g.pos e then row else 0xFFFFFFFF)
      let unused := ((List.range X.outer).flatMap fun t => (List.range (a2aK d)).map fun j => (t, j)).filter fun (t, j) => routeOf s f t j = -1
      let here := es.flatMap fun e =>
        if expertPos s f e = g.pos && 0 < placeKept s f x g.pos e then
          let n := placeKept s f x g.pos e; let b := placeBase x g.pos e
          rawWrites (tt (slotTensor s f (bits (expertEntry s f e) 7 0))) (rangeFrom b (b + n))
            (rawRows s.mem X (((routesTo s f e).take n).map (·.1)))
        else []
      let drops := (es.map fun e => (routesTo s f e).length - placeKept s f x g.pos e).foldl (· + ·) 0
      .seq (writeMem (places ++ (unused.map fun (t, j) => wrElem P t j 0xFFFFFFFF) ++ here))
        (Eff.when (0 < drops) (Eff.all [
          incR .COL_A2A_DROP_COUNT 6 0 drops,
          setFaultBoth .COL_FAULT 6 7 4,
          Eff.when (!(stepOf s f.sq).a2aDrop) (.seq (emit 0x0703 6 (colItems s x f.sq)) (modStep f.sq fun t => { t with a2aDrop := true }))]))
    else .skip

/-- One-flit packet of a mirror check: position, hops travelled, POISON, COUNT, SUM (R445, assumption 13). -/
def mirrorBytes (pos hops v : Nat) : List Byte :=
  leBytes 2 pos ++ leBytes 1 hops ++ leBytes 1 (v / 2 ^ 320) ++ leBytes 4 (v / 2 ^ 256) ++ leBytes 32 v

/-- Every SETUP has come: tags are recorded or checked, an all-to-all checks its tables (06 R551), and data moves. -/
def readyOp (o : ColOp) : Eff :=
  nowOp o.die o.q o.pos fun x f g => .get fun s =>
    let d := f.desc
    let S := tget s f.die (colSrc d)
    let reads := !(x.op = 0x79 || x.op = 0xA1 || x.op = 0x7B || (x.op = 0x73 && colRoot d != g.pos))
    let bufs := if x.op = 0x7B then (a2aBuffers s f.die d).flatMap fun i => (tget s f.die i).runs else []
    if (x.op = 0x7A || x.op = 0x7B) && !a2aConsistent s f g then
      .seq (Eff.each (colDirs x d) fun dir => sendCol x f g dir seqAbort []) (skipOp x skGatherIndex)
    else match tagPhase x f g s with
    | none => skipOp x skVersion
    | some tags =>
      .seq (demand ((if reads then S.runs else []) ++ bufs)) <| match firstMarked s ((if reads then S.runs else []) ++ bufs) with
      | some l => Eff.all [tags, endOp x, ueCommand f l]
      | none =>
        if x.op = 0xA1 then
          .seq (putOp { x with ready := true, values := (g.pos, f.digest) :: x.values })
            (Eff.each [0, 1] fun dir => sendCol x f g dir g.pos (mirrorBytes g.pos 1 f.digest))
        else
          let out := (colStreams s f x g).flatMap fun st =>
            [0, 1].flatMap fun dir => if st.starts g d dir && !(st.way = .spread && x.op = 0x72) then outPackets st dir (ownBytes s f x st) else []
          Eff.all [tags,
            putOp { x with ready := true, outQ := out, credit := [(0, 2 ^ 20), (1, 2 ^ 20)] },
            ownWrites x f g]

/-! ## Mirror results (11 R446, R447) -/

/-- The result of a mirror check from the values of its set by position: code and faulty mask. -/
def mirrorResult (me : Nat) (vals : List (Nat × Nat)) : Nat × Nat :=
  let m := vals.length
  let key (v : Nat) : Nat := v % 2 ^ 288
  let mine := key (mget 0 vals me)
  let maskOf (p : Nat → Bool) : Nat := ((vals.filter fun e => p (key e.2)).map fun e => 2 ^ e.1).foldl (· + ·) 0
  let major := vals.find? fun e => m < 2 * (vals.filter fun x => key x.2 = key e.2).length
  if vals.all fun e => key e.2 = mine then (0, 0)
  else match major with
    | some e => (if key e.2 = mine then 1 else 2, maskOf (· != key e.2))
    | none => (3, maskOf (· != mine))

/-- Once every member's value has come the result is reported and listed. -/
def mirrorDone (o : ColOp) : Eff :=
  nowOp o.die o.q o.pos fun x f g => .get fun s =>
    let d := f.desc
    let set_ := (List.range g.n).filter fun p => p % mirStride d = g.pos % mirStride d
    Eff.when (x.ready && !x.finished && (List.range g.n).all fun p => x.values.any (·.1 = p))
      (let (code, mask) := mirrorResult g.pos (set_.map fun p => (p, mget 0 x.values p))
       let full := 8 ≤ (stepOf s f.sq).mirrors.length
       Eff.all [
        Eff.when (code != 0) (Eff.all [setFault .DIG_FAULT 6 0, incR .DIG_MIRROR_COUNT 6 0 1,
          emit 0x0801 6 [.num 1 (mirSlot d), .num 1 x.group, .num 1 code, .num 8 mask]]),
        if full then Eff.all [setFault .DIG_FAULT 6 5, emit 0x0806 6 [], modStep f.sq fun t => { t with mirrorFull := true }]
        else modStep f.sq fun t => { t with mirrors := t.mirrors ++ [⟨mirSlot d, x.group, mirStride d, code, mask, x.stream⟩] },
        endOp x])

/-! ## Beginning (R389) -/

/-- A SETUP of a peer: kept, passed on, checked; data moves once all have come. -/
def takeSetup (o : ColOp) (p : ColPkt) : Eff :=
  .seq (nowOp o.die o.q o.pos fun x f g => .get fun s =>
    let bs := leBytes 4080 p.data
    let sp := leNat (bs.take 2)
    let old := match x.setups.find? (·.1 = sp) with
      | some (_, b) => b
      | none => []
    let new := if old.isEmpty then bs.take (min 4080 (setupLen x)) else (old ++ (bs.drop 20)).take (setupLen x)
    let hop := hopsTo g p.dir sp g.pos
    let on := x.op != 0x78 && x.op != 0x79 && (match hop with
      | some h => decide (h < spreadLen g p.dir sp)
      | none => false)
    Eff.all [
      putOp { x with setups := x.setups.filter (·.1 != sp) ++ [(sp, new)] },
      Eff.when on (sendCol x f g p.dir seqSetup (if setupLen x = 20 then bs.take 20 else if old.isEmpty then bs else bs.take 56)),
      match setupDiff x (setupBytes s f x g) new with
      | some fd => mismatchOp x fd
      | none => .skip])
  (nowOp o.die o.q o.pos fun x f g =>
    Eff.when (!x.finished && !x.ready && (setupPeers g x f.desc).all fun i => x.setups.any fun e => e.1 = i && e.2.length = setupLen x)
      (readyOp x))

/-- Tables a collective reads before its SETUP leaves. -/
def colTables (op : Nat) (d : Desc) : List Nat :=
  (if op = 0x7A then [a2aRoute d, a2aLocal d, a2aExpert d]
   else if op = 0x7B then [a2aRoute d, a2aLocal d, a2aExpert d, a2aWeight d, a2aPlace d]
   else if op = 0x7C then [permTbl d]
   else if op = 0x78 || op = 0x79 || op = 0xA1 then []
   else [colLen d] ++ (if colLand d then [colTbl d] else [])).filter (· != 0)

/-- A collective begins: its bound starts, its SETUP leaves, and SETUPs that came early are taken. -/
def beginOp (o : ColOp) : Eff :=
  nowOp o.die o.q o.pos fun x f g => .get fun s =>
    let bs := setupBytes s f x g
    let d := f.desc
    let tt := tget s f.die
    let mine := s.col.early.filter fun e => e.1 = x.stream
    Eff.all [
      putFlight { f with boundFrom := some s.cc },
      if f.skip.isSome then putOp { x with started := true, finished := true }
      else .seq (demand ((colTables x.op d).flatMap fun i => (tt i).runs)) <|
      match firstMarked s ((colTables x.op d).flatMap fun i => (tt i).runs) with
      | some a => .seq (putOp { x with started := true, finished := true }) (ueCommand { f with boundFrom := some s.cc } a)
      | none => Eff.all [
        putOp { x with started := true, setups := [(g.pos, bs)] },
        modCol fun c => { c with early := c.early.filter fun e => e.1 != x.stream },
        Eff.each (colDirs x f.desc) fun dir => Eff.each (setupPackets bs) fun b => sendCol x f g dir seqSetup b,
        Eff.each mine fun e => takeSetup x e.2],
      progress x]

/-- The next collective of a group begins when the one before it has completed. -/
def beginNext (group : Nat) : Eff :=
  .get fun s =>
    match s.col.ops.find? fun o => o.group = group with
    | some o => Eff.when (!o.started && o.op != 0x7E) (beginOp o)
    | none => .skip

/-- A collective at issue: it begins at once when no other of its group is open. -/
def startCol (f : Flight) : Eff :=
  .get fun s =>
    let d := f.desc
    let group := if f.op = 0xA1 then mirGroup d else colGroup d
    let stream := if f.op = 0xA1 then mirStream d else colStream d
    let o : ColOp := { die := f.die, q := f.q, pos := f.pos, group := group, stream := stream, op := f.op }
    let slot : DigSlot := mget {} s.dig.slots (digKey f.sq (mirSlot d))
    let dg := if f.op = 0xA1 then slot.sum + slot.count % 2 ^ 32 * 2 ^ 256 + b2n slot.poison * 2 ^ 320 else 0
    Eff.all [
      putFlight { f with digest := dg, boundFrom := none },
      modCol fun c => { c with ops := c.ops ++ [o] },
      beginNext group]

def execColRs (die : Fin 4) (q : Fin 16) (s : State) : Host.Outcome State Fault Refusal :=
  done (opcodeRow 0x70 die q startCol) s
def execColAg (die : Fin 4) (q : Fin 16) (s : State) : Host.Outcome State Fault Refusal :=
  done (opcodeRow 0x71 die q startCol) s
def execColAr (die : Fin 4) (q : Fin 16) (s : State) : Host.Outcome State Fault Refusal :=
  done (opcodeRow 0x72 die q startCol) s
def execColBcast (die : Fin 4) (q : Fin 16) (s : State) : Host.Outcome State Fault Refusal :=
  done (opcodeRow 0x73 die q startCol) s
def execColReduce (die : Fin 4) (q : Fin 16) (s : State) : Host.Outcome State Fault Refusal :=
  done (opcodeRow 0x74 die q startCol) s
def execColSend (die : Fin 4) (q : Fin 16) (s : State) : Host.Outcome State Fault Refusal :=
  done (opcodeRow 0x78 die q startCol) s
def execColRecv (die : Fin 4) (q : Fin 16) (s : State) : Host.Outcome State Fault Refusal :=
  done (opcodeRow 0x79 die q startCol) s
def execColA2aD (die : Fin 4) (q : Fin 16) (s : State) : Host.Outcome State Fault Refusal :=
  done (opcodeRow 0x7A die q startCol) s
def execColA2aC (die : Fin 4) (q : Fin 16) (s : State) : Host.Outcome State Fault Refusal :=
  done (opcodeRow 0x7B die q startCol) s
def execColPermute (die : Fin 4) (q : Fin 16) (s : State) : Host.Outcome State Fault Refusal :=
  done (opcodeRow 0x7C die q startCol) s
def execDigMirror (die : Fin 4) (q : Fin 16) (s : State) : Host.Outcome State Fault Refusal :=
  done (opcodeRow 0xA1 die q startCol) s

/-! ## Cross-domain reductions (R409) -/

/-- Shards of a COL.XDR: rows before and rows of shard i. -/
def xdrShard (s : State) (f : Flight) (i : Nat) : Nat × Nat :=
  let d := f.desc
  let n := xdrDomains d
  let ls := if colLen d = 0 then List.replicate n ((tget s f.die (colSrc d)).outer / max 1 n)
    else shardLens s.mem (tget s f.die) n d
  (shardOff ls i, ls.getD i 0)
/-- This domain's shard i as bytes of FP32 values. -/
def xdrOwn (s : State) (f : Flight) (i : Nat) : List Byte :=
  let S := tget s f.die (colSrc f.desc)
  let (r, n) := xdrShard s f i
  valBytes (flatVals s.mem S r 0 (n * S.inner))

/-- Fold of shard i once every counterpart's has come, in the order of domains under REPRO, else own first and then in
order of arrival. -/
def xdrFold (s : State) (f : Flight) (o : ColOp) (i : Nat) : List F32 :=
  let own := xdrOwn s f i
  let vals (j : Nat) : List F32 :=
    if j = i then bytesVals (own.length / 4) (leNat own) else bytesVals (own.length / 4) (mget 0 o.values j - 1)
  let order := if (stepOf s f.sq).repro then List.range (xdrDomains f.desc)
    else i :: (o.done.filter (· < 64))
  match order with
  | [] => []
  | j0 :: js => js.foldl (fun acc j => List.zipWith fadd acc (vals j)) (vals j0)

/-- An object of a COL.XDR has arrived whole from counterpart j: a shard to fold, or a reduced shard to write. Values are
held plus 1; `done` keeps the order of arrival, 64 + j for reduced shards. -/
def xdrTake (o : ColOp) (j obj : Nat) (bs : List Byte) : Eff :=
  nowOp o.die o.q o.pos fun x f _ => .get fun s =>
    let n := xdrDomains f.desc
    let i := ((xdrGroup s x.stream).map (·.2)).getD 0
    let reduced := obj % 2 = 1
    let key := if reduced then 64 + j else j
    if x.finished || x.done.contains key then .skip
    else Eff.all [
      putOp { x with done := x.done ++ [key], values := if reduced then x.values else mset 0 x.values j (leNat bs + 1) },
      Eff.when reduced (writeReduced f (xdrShard s f j).1 (bytesVals (bs.length / 4) (leNat bs))),
      nowOp o.die o.q o.pos fun y f _ => .get fun s =>
        let have_ := (y.done.filter (· < 64)).length
        Eff.when (!reduced && have_ + 1 = n)
          (let v := xdrFold s f y i
           Eff.all [
            putFlight { f with boundFrom := some s.cc },
            writeReduced f (xdrShard s f i).1 v,
            Eff.each (xdrPeers s y.stream) fun p => sendObj (y.stream + p) ((2 * y.no + 1) % 0xFFFE) 0 true (valBytes v)]),
      nowOp o.die o.q o.pos fun y _ _ => Eff.when (y.done.length + 2 = 2 * n) (endOp y)]

/-- COL.XDR at issue: each counterpart gets this domain's part of its shard. -/
def startXdr (f : Flight) : Eff :=
  .get fun s =>
    let d := f.desc
    let sid := xdrSession d
    let no := mget 0 s.col.xdrCount sid
    let o : ColOp := { die := f.die, q := f.q, pos := f.pos, group := 64, stream := sid, op := 0x7E, no := no, started := true, ready := true }
    let mine := s.col.xdrEarly.filter fun e => sid ≤ e.1 && e.1 < sid + xdrDomains d && e.2.1 / 2 = no % 0x7FFF
    .seq (demand (tget s f.die (colSrc d)).runs) <| match firstMarked s (tget s f.die (colSrc d)).runs with
    | some l => .seq (modCol fun c => { c with ops := c.ops ++ [{ o with finished := true }] }) (ueCommand f l)
    | none => Eff.all [
        putFlight { f with boundFrom := none },
        modCol fun c => { c with ops := c.ops ++ [o], xdrCount := mset 0 c.xdrCount sid (no + 1),
                                 xdrEarly := c.xdrEarly.filter fun e => !mine.contains e },
        Eff.each (xdrPeers s sid) fun j => sendObj (sid + j) ((2 * no) % 0xFFFE) 0 true (xdrOwn s f j),
        Eff.each mine fun e => xdrTake o (e.1 - sid) e.2.1 e.2.2]
def execColXdr (die : Fin 4) (q : Fin 16) (s : State) : Host.Outcome State Fault Refusal :=
  done (opcodeRow 0x7E die q startXdr) s

/-- A whole object of an XDR session has landed: the value of a cross-domain verdict, or a shard. -/
def xdrObject (sid obj : Nat) (bs : List Byte) : Eff :=
  .get fun s =>
    if obj = xdObj then
      let e := (64 * leNat (bs.take 8) + (sid - xdSession s), leNat ((bs.drop 8).take 1))
      modCol fun c => { c with xdValues := if c.xdValues.any (·.1 = e.1) then c.xdValues else c.xdValues ++ [e] }
    else
      let fits (o : ColOp) : Bool := o.op = 0x7E && !o.finished && decide (o.stream ≤ sid) && obj / 2 = o.no % 0x7FFF &&
        (match xdrGroup s o.stream with
        | some (n, _) => decide (sid < o.stream + n)
        | none => false)
      match s.col.ops.find? fits with
      | some o => xdrTake o (sid - o.stream) obj bs
      | none => modCol fun c => { c with xdrEarly := c.xdrEarly ++ [(sid, obj, bs)] }

/-- The job halts (R408, record 0x0705): every later verdict is SKIP_INVALID until a load. -/
def haltJob : Eff := .seq (putR .COL_STATUS 6 0 31 31 1) (putR .COL_STATUS 7 0 31 31 1)

/-- A session of a COL.XDR or of the cross-domain verdict closes while in use: its commands are skipped, the job halts. -/
def xdrLost (sid : Nat) : Eff :=
  .get fun s =>
    let uses (base : Nat) : Bool := match xdrGroup s base with
      | some (n, _) => decide (base ≤ sid) && decide (sid < base + n)
      | none => base = sid
    let ops := s.col.ops.filter fun o => o.op = 0x7E && !o.finished && uses o.stream
    let vd := xdOn s && uses (xdSession s)
    Eff.when (!ops.isEmpty || vd) (Eff.all [
      Eff.each ops fun o => skipOp o skHardFault,
      haltJob,
      setFaultBoth .COL_FAULT 6 7 6,
      match ops with
      | o :: _ => nowOp o.die o.q o.pos fun x f _ => .get fun s => emit 0x0705 6 (colItems s x f.sq)
      | [] => emit 0x0705 6 [naItem 2, naItem 2, .num 8 (stepOf s s.col.verdictStep).stepNo, naItem 4]])

/-! ## Packets received -/

/-- Take the first packet of a kind that the routers have delivered whole. -/
def takeEjected (p : Packet → Bool) (k : Packet → Eff) : Eff :=
  .get fun s =>
    let whole (x : Packet) : Bool := !x.more && p x
    match s.net.ejected.find? whole with
    | none => .skip
    | some x => .seq (modNet fun n => { n with ejected := n.ejected.eraseP whole }) (k x)

/-- A C packet of the sequencers, counted by the one that takes it. A packet that came in by a minus port travels in the
plus direction. -/
def takeCol (seq : Nat → Bool) (k : Packet → ColPkt → Eff) : Eff :=
  takeEjected (fun p => p.cls = 2 && p.stream < 0xFFFE && seq p.cseq) fun p =>
    let dir := if p.inp % 2 = 1 then 0 else 1
    let n := 256 * p.n - 16
    .seq (incR64 .COL_RX_BYTES (if dir = 0 then 7 else 6) 0 n) (k p ⟨dir, p.cseq, p.cvtag, leNat p.payload, n⟩)

/-- The collective a packet of a STREAM belongs to: the first open one that carries it, else the first waiting one. -/
def opOfStream (s : State) (stream : Nat) : Option ColOp :=
  s.col.ops.find? fun o => o.op != 0x7E && !o.finished && o.stream = stream

/-- A SETUP (R393). One that carries another STREAM for a group whose open collective still awaits its sender is a
mismatch (assumption 14); any other that finds no open collective waits for it. -/
def setupRow : Eff :=
  takeCol (· = seqSetup) fun p cp => .get fun s =>
    let sp := leNat (leBytes 2 cp.data)
    let axis := p.inp / 2
    match opOfStream s p.stream with
    | some o =>
      if o.started then
        .seq (takeSetup o cp) (.seq (progress o) (mirrorDone o))
      else modCol fun c => { c with early := c.early ++ [(p.stream, cp)] }
    | none =>
      match s.col.ops.find? fun o => o.started && !o.finished && o.op != 0x7E && (groupOf s o.group).axis = axis &&
          sp < (groupOf s o.group).n && !o.setups.any (·.1 = sp) with
      | some o => mismatchOp o 20
      | none => modCol fun c => { c with early := c.early ++ [(p.stream, cp)] }
def execSetupPacket (s : State) : Host.Outcome State Fault Refusal := done setupRow s

/-- A CREDIT renews what this member may send toward the packet's sender (R394). -/
def creditRow : Eff :=
  takeCol (· = seqCredit) fun p cp => .get fun s =>
    Eff.opt (opOfStream s p.stream) fun o => .seq
      (nowOp o.die o.q o.pos fun x f _ =>
        let dir := if x.op = 0x78 then sendDir f.desc else 1 - cp.dir
        putOp { x with credit := mset 0 x.credit dir (mget 0 x.credit dir + cp.data % 2 ^ 32) })
      (progress o)
def execCreditPacket (s : State) : Host.Outcome State Fault Refusal := done creditRow s

/-- A mirror packet: kept, and passed on until it has travelled N - 1 hops (11 R445). -/
def mirrorTake (o : ColOp) (cp : ColPkt) : Eff :=
  nowOp o.die o.q o.pos fun x f g =>
    let bs := leBytes 40 cp.data
    let sp := leNat (bs.take 2); let hops := leNat ((bs.drop 2).take 1)
    let v := leNat (bs.drop 8) + leNat ((bs.drop 4).take 4) * 2 ^ 256 + leNat ((bs.drop 3).take 1) * 2 ^ 320
    Eff.all [
      Eff.when (hops + 1 < g.n) (sendCol x f g cp.dir cp.seq (bs.take 2 ++ leBytes 1 (hops + 1) ++ bs.drop 3)),
      Eff.when (!x.values.any (·.1 = sp)) (putOp { x with values := x.values ++ [(sp, v)] }),
      mirrorDone x]

/-- A data packet: processed when data may move, else held; `mismatch` is what the paired lanes show. -/
def dataRow (mismatch : Nat) : Eff :=
  takeCol (· < 0xFFFFFF00) fun p cp => .get fun s =>
    Eff.opt (opOfStream s p.stream) fun o =>
      if o.op = 0xA1 then mirrorTake o cp
      else if o.ready then .seq (processPacket o cp mismatch) (progress o)
      else putOp { o with arrivals := o.arrivals ++ [cp] }
def execColDataPacket (mismatch : Fin 3) (s : State) : Host.Outcome State Fault Refusal := done (dataRow mismatch) s

/-- An ABORT: a member that has the collective passes it on and abandons it too (R410). -/
def abortRow : Eff :=
  takeCol (· = seqAbort) fun p _ => .get fun s => Eff.opt (opOfStream s p.stream) fun o => abandon o 2
def execAbortPacket (s : State) : Host.Outcome State Fault Refusal := done abortRow s

/-- COL_TIMEOUT past its bound a collective is abandoned (R410). -/
def timeoutRow (die q pos : Nat) : Eff :=
  nowOp die q pos fun x f _ => .get fun s =>
    match f.boundFrom with
    | none => .skip
    | some t => Eff.when (x.started && !x.finished)
        (.seq (advanceTo (t + boundOf s f + f.stopped + 1750 * rfld s .COL_TIMEOUT 6 0 31 0)) (abandon x 3))
def execColTimeout (die : Fin 4) (q : Fin 16) (pos : Nat) (s : State) : Host.Outcome State Fault Refusal :=
  done (timeoutRow die q pos) s

/-- On a fenced sequencer the register takes the write and ARM stays (R415). -/
def execColInjectArm (l : Fin 2) (v : BitVec 32) (s : State) : Host.Outcome State Fault Refusal :=
  done (injectWrite .COL_INJECT (6 + l) 0x3 v.toNat) s

/-! ## Completion of a collective -/

/-- Poison of the outputs (R397, R203): this module's own first; else that of the members whose data came. -/
def colPoison (s : State) (f : Flight) (o : ColOp) : Option Nat :=
  let d := f.desc
  let g := groupOf s o.group
  let bad (p : Nat) : Bool := o.setups.any fun e => e.1 = p && e.2.getD 19 0#8 != 0#8
  if o.op = 0x73 && colRoot d != g.pos then (if bad (colRoot d) then some 0 else none)
  else match f.poisonIn with
    | some q => some q
    | none => if o.setups.any fun e => e.1 != g.pos && e.2.getD 19 0#8 != 0#8 then some 0 else none

/-- A dispatch leaves each buffer's count in its patch register (R403). -/
def a2aPatch (f : Flight) (o : ColOp) (g : Group) : Eff :=
  .get fun s =>
    Eff.each (List.range 1024) fun e =>
      let x := expertEntry s f e
      let l := localEntry s f (bits x 7 0)
      Eff.when (bit x 31 && bits x 21 16 = g.pos && bit l 31)
        (setR .CMD_PATCH (bits l 25 24) (bits l 23 16)
          (min (placeBase o g.n e) (tget s f.die (bits l 12 0)).outer))

/-! ## The verdict (R406-R408, 07 R263-R266) -/

/-- Exponent and clean count after a verdict (07 R265). -/
def scaleAfter (c : ImageContent) (v : Nat) (e : Int) (clean : Nat) : Int × Nat :=
  if v = 0 then (if clean + 1 ≥ c.lsInterval && e < c.lsMax then (e + 1, 0) else (e, clean + 1))
  else if v = 1 then (max (e - c.lsDown) c.lsMin, 0)
  else (e, clean)

/-- The loss scale of a step, as UPD_LOSS_SCALE shows it; a changed exponent is recorded. The clean count saturates (00 R14). -/
def setScale (n : Nat) (e : Int) (clean : Nat) : Eff :=
  .get fun s =>
    let was := sbyte (rfld s .UPD_LOSS_SCALE 4 0 7 0)
    Eff.all [
      modStep n fun t => { t with lsExp := e, clean := min clean 65535 },
      setR .UPD_LOSS_SCALE 4 0 (ofSbyte e % 256 + min clean 65535 * 256),
      Eff.when (was != e) (emit 0x0444 4 (updItems s n none none none none))]

/-- Whether the block of a step sets the loss scale itself (07 R255 LS_CTRL). -/
def lsSet (s : State) (n : Nat) : Bool := (stepOf s n).released && (stepOf s n).spb.testBit (8 * 0x0C + 31)

/-- The job verdict of step n is known: LAST_VERDICT, the record, the loss scale of the next step, and the commands held
for it. -/
def applyVerdict (n v : Nat) : Eff :=
  .get fun s =>
    let t := stepOf s n
    let (e, clean) := scaleAfter s.img.content v t.lsExp t.clean
    Eff.all [
      modStep n fun t => { t with verdict := some v },
      putR .UPD_STATUS 4 0 31 30 v,
      Eff.when (v != 0) (emit 0x0443 4 (updItems s n none none none none)),
      Eff.when (!lsSet s (n + 1)) (setScale (n + 1) e clean),
      Eff.each (s.cp.flights.filter fun f => (f.op = 0x80 || f.op = 0x82) && f.sq = n && f.skip.isNone) startUpdate,
      Eff.each (s.cp.flights.filter fun f => f.op = 0x57 && rScaleSrc f.desc && f.sq = n + 1 && f.boundFrom.isNone && !f.slotWait) fun f =>
        .seq (putFlight { f with boundFrom := some s.cc }) (startUnits f)]

/-- The pass ends; the next waiting contribution starts its own. -/
def endVerdict (n v : Nat) : Eff :=
  .seq (applyVerdict n v) (.get fun s => .seq
    (modCol fun c => { c with verdict := { early := c.verdict.early.filter fun e => n < e.1 / 4 },
                              xdValues := c.xdValues.filter fun e => e.1 / 64 != n, queue := c.queue.drop 1 })
    (match s.col.queue with
    | m :: _ => beginVerdict m
    | [] => .skip))

def verdictRow : Eff := takeEjected (fun p => p.cls = 2 && p.stream = 0xFFFF) fun p => .seq (passArrive .verdict p) xdSend
def execVerdictPacket (s : State) : Host.Outcome State Fault Refusal := done verdictRow s

def jobVerdictRow : Eff :=
  .get fun s =>
    match jobVerdict s with
    | some v => endVerdict s.col.verdictStep v
    | none => .skip
def execJobVerdictArrive (s : State) : Host.Outcome State Fault Refusal := done jobVerdictRow s

/-- COL_VERDICT_TIMEOUT after the contribution left: the job halts and the step's verdict is SKIP_INVALID (R408). -/
def verdictTimeoutRow : Eff :=
  .get fun s =>
    Eff.when (s.col.verdict.active && (jobVerdict s).isNone) (Eff.all [
      advanceTo (s.col.sentAt + 1750 * rfld s .COL_VERDICT_TIMEOUT 6 0 31 0),
      haltJob,
      setFaultBoth .COL_FAULT 6 7 5,
      emit 0x0702 6 [naItem 2, naItem 2, .num 8 (stepOf s s.col.verdictStep).stepNo, naItem 4],
      endVerdict s.col.verdictStep 2])
def execVerdictTimeout (s : State) : Host.Outcome State Fault Refusal := done verdictTimeoutRow s

/-! ## Group table (R388) -/

/-- Setting SWAP requests the exchange at COL_GROUP_SWAP_STEP; the barrier makes it (R430). -/
def execGroupSwapRequest (v : BitVec 32) (s : State) : Host.Outcome State Fault Refusal :=
  done (modR .COL_GROUP_CTRL 6 0 fun w => if v.toNat.testBit 31 then w ||| 2 ^ 31 else w) s

end Sys2Proof.Machine
end

