-- ==== Sys2Proof/Machine/ExecControl.lean ====
section
/-!
DEFINITION. Completion, overruns, umbra aborts, flags of other dies, shade windows and loading a program (06
R184-R188, R210-R212, R229-R238).
-/
namespace Sys2Proof.Machine

/-! ## Completion (R201, R203, R210, R218) -/

/-- Whether a command in flight has nothing left to wait for. -/
def mayComplete (s : State) (f : Flight) : Bool :=
  f.workDone && !f.slotWait && (f.skip.isSome || !heldForVerdict s f) &&
    (match findOp s f.die f.q f.pos with
    | some o => o.finished
    | none => true)

/-- What an opcode still does when it completes, before its tags, poison and signals. -/
def finalWork (f : Flight) : Eff :=
  .get fun s =>
    if isRowOp f.op then finishRow f
    else if f.op = 0x80 then finishUpdate f
    else if f.op = 0xA0 then finishFold f
    else if f.op = 0x7A && f.skip.isNone then
      Eff.opt (findOp s f.die f.q f.pos) fun o => a2aPatch f o (groupOf s o.group)
    else .skip

/-- The outputs whose tags advance as a command completes: an update under a skip verdict changes nothing (07 R268, R280). -/
def doneOutputs (s : State) (f : Flight) : List Nat :=
  if (f.op = 0x80 || f.op = 0x82) && verdictOf s f.sq != some 0 then [] else opOutputs s f.die f.desc

/-- Poison of the outputs of a command. -/
def outPoison (s : State) (f : Flight) : Option Nat :=
  match findOp s f.die f.q f.pos with
  | some o => if f.op = 0x7E then f.poisonIn else colPoison s f o
  | none => f.poisonIn

/-- What follows a completion: a slot's waiting writer goes on, the next collective of the group begins, a queue at
STEP.END may proceed. -/
def afterWork (f : Flight) : Eff :=
  .get fun s => Eff.all [
    Eff.when (isRowOp f.op && rStatEn f.desc) (wakeSlot f.die (rSlot f.desc)),
    (match findOp s f.die f.q f.pos with
    | some o => .seq
        (modCol fun c => { c with ops := c.ops.filter fun x => !(x.die = f.die && x.q = f.q && x.pos = f.pos) })
        (beginNext o.group)
    | none => .skip),
    stepProceed f.die f.q]

def completeRow (die q pos : Nat) : Eff :=
  .get fun s =>
    match findFlight s die q pos with
    | none => .skip
    | some f => Eff.when (mayComplete s f)
        (.seq (finalWork f) (.get fun s => .seq (finish f (doneOutputs s f) (outPoison s f)) (afterWork f)))
def execCommandComplete (die : Fin 4) (q : Fin 16) (pos : Nat) (s : State) : Host.Outcome State Fault Refusal :=
  done (completeRow die q pos) s

/-- The oldest signal in transit between the dies of signal n: COH messages between two dies arrive in order (01 R31). -/
def firstSignal (s : State) (n : Nat) : Nat :=
  match s.cp.signals[n]? with
  | none => n
  | some g => s.cp.signals.findIdx fun x => x.die = g.die && x.src = g.src

/-- The next signal between the dies of signal n of those in transit reaches its flag (R211), as a COH message over the
links between them; it waits while one of them trains (01 R36, R42). -/
def signalArrive (n : Nat) : Eff :=
  .get fun s =>
    let i := firstSignal s n
    match s.cp.signals[i]? with
    | none => .skip
    | some g =>
      let r := dieRoute clCoh g.src g.die
      Eff.when (openRoute s r) (Eff.all [
        modCp fun c => { c with signals := c.signals.eraseIdx i }, crossRoute clCoh 4 r, addFlag g.die g.idx g.inc])
def execFlagSignalArrive (n : Nat) (s : State) : Host.Outcome State Fault Refusal := done (signalArrive n) s

/-! ## Overruns (R234-R237) -/

/-- Lowest cause code among the marks of a command, or NONE. -/
def overCause (marks : Nat) : Nat := ((rangeFrom 1 5).find? fun i => marks.testBit i).getD 0

/-- A command runs past its bound: once for each command, and with a record for the first of its queue in a step. -/
def overrunRow (die q pos : Nat) : Eff :=
  .get fun s =>
    match findFlight s die q pos with
    | none => .skip
    | some f =>
      match f.boundFrom with
      | none => .skip
      | some t =>
        Eff.when (!f.late && f.stopAt = 0) (.seq (advanceTo (t + boundOf s f + f.stopped + 1)) (.get fun s => Eff.all [
          putFlight { f with late := true },
          incR .CMD_OVERRUN_COUNT die 0 1,
          setFault .CMD_FAULT die 3,
          Eff.when ((queueOf s die q).overStep != f.sq + 1) (.seq
            (emit 0x0302 die [.num 4 pos, .num 1 f.op, .num 4 (boundOf s f), .num 8 (s.cc - t - f.stopped), .num 1 (overCause f.marks)])
            (modQueue die q fun u => { u with overStep := f.sq + 1 }))]))
def execCommandOverrun (die : Fin 4) (q : Fin 16) (pos : Nat) (s : State) : Host.Outcome State Fault Refusal :=
  done (overrunRow die q pos) s

/-! ## The umbra detector (R229-R233) -/

/-- The command at a position of a stream: in a fetched slot, or still in memory. -/
def streamCmd (s : State) (die q pos : Nat) : Desc :=
  let qu := queueOf s die q
  match (slotsOf s die q)[pos - qu.head]? with
  | some d => d
  | none => BitVec.ofNat 512 (rdNat s.mem (qu.base + 64 * pos) 64)
/-- Positions a queue skips in an abort: from its head up to STEP.END, none for a queue already there. -/
def abortSpan (s : State) (die q : Nat) : List Nat :=
  let qu := queueOf s die q
  if qu.step < s.cp.released && !qu.atEnd then rangeFrom qu.head (qu.len - 1) else []

/-- The nearest fetched, unissued command that signals a flag (R233): fewest positions ahead of its queue's head, then
the lower die and queue. -/
def nearestSignaller (s : State) (key : Nat) : Option (Nat × Nat × Nat) :=
  let found := allQueues.filterMap fun (d, q) =>
    ((slotsOf s d q).findIdx? fun c => (cmdSignals c).any fun e => e.1.key = key).map fun i => (i, d, q)
  (found.foldl (fun (b : Option (Nat × Nat × Nat)) x =>
    match b with
    | some y => if x.1 < y.1 then some x else b
    | none => some x) none).map fun (i, d, q) => (d, q, ((queueOf s d q).head + i) % (queueOf s d q).len)

/-- The entry of a queue in the wait graph. -/
def umbraEntry (s : State) (die q : Nat) : List Byte :=
  let qu := queueOf s die q
  let d := streamCmd s die q qu.head
  let at_ := atBarrier s die q || dOpcode d = 0xF0
  let waits := if at_ then [] else (cmdWaits d).filterMap fun (r, base, mul, _) =>
    if r.en then some (r.key, waitTarget base mul qu.step) else none
  layItems [.num 1 die, .num 1 q, .num 4 qu.head, .num 1 (dOpcode d),
    .list (waits.map fun (k, target) =>
      let sg := nearestSignaller s k
      layItems [.num 2 (2 ^ 15 + k / 4096 * 2 ^ 12 + k % 4096), .num 8 target, .num 8 (flagSeen s k),
        optItem 1 (sg.map (·.1)), optItem 1 (sg.map (·.2.1)), optItem 4 (sg.map (·.2.2))]),
    .num 4 (abortSpan s die q).length]

/-- One queue of an aborted group: every command up to STEP.END skipped in one pass, one entry in the skip list. -/
def abortQueue (die q : Nat) : Eff :=
  .get fun s =>
    let qu := queueOf s die q
    let ps := abortSpan s die q
    match ps with
    | [] => .skip
    | p0 :: _ =>
      let late := (stepOf s qu.step).left
      let first := rget s .CMD_SKIP_SEQ 0 0 + 1
      let tail := streamCmd s die q (qu.len - 1)
      Eff.all [
        Eff.each ps fun p =>
          let d := streamCmd s die q p
          .seq (skipEffects die q p qu.step d ⟨60, skUmbra, 255, 255⟩ true) (sendSignals die d),
        listSkip qu.step ⟨first, die, q, p0, dOpcode (streamCmd s die q p0), skUmbra, ps.length, late⟩,
        modQueue die q fun u => { u with head := qu.len - 1, lastIssue := s.cc + 1, readyAt := 0 },
        modCp fun c => { c with slots := mset [] c.slots (qKey die q) [tail] }]

/-- A group whose stall count reaches the limit is aborted (R232); where a write of the limit left the count at or above it,
in the cc after the write (R231). A signal of this cc may yet end the stall. UMBRA is set on every C-die that holds a queue of
the group, the first of which writes the record (DESIGN CHOICE, assumption 42). -/
def umbraRow (g : Nat) : Eff :=
  .seq (.get fun s => Eff.when (!s.flagOld.isEmpty || s.cp.umbraAt = s.cc + 1) (advance 1)) <|
  .get fun s => Eff.when (groupStalled s g) (.seq (advance (umbraLimit s - mget 0 s.cp.umbra g)) (.get fun s =>
    let qs := groupQueues s g
    let es := qs.map fun (d, q) => umbraEntry s d q
    let dies := (qs.map (·.1)).eraseDups
    Eff.all [
      Eff.each qs fun (d, q) => abortQueue d q,
      Eff.each dies fun d => setFault .CMD_FAULT d 2,
      emitList 0x0301 (dies.headD 0) [] es,
      Eff.each ((qs.map fun (d, q) => (queueOf s d q).step).eraseDups) fun n => tryLeave n,
      modCp fun c => { c with umbra := mset 0 c.umbra g 0 }]))
def execUmbraAbort (g : Fin 16) (s : State) : Host.Outcome State Fault Refusal := done (umbraRow g) s

/-- One limit for the module, through any C-die's block, clamped to 16-28 (R231). -/
def umbraWrite (v : Nat) : Eff :=
  .seq (setR .CMD_UMBRA_CFG 0 0 (max 16 (min 28 (v % 32)))) (.get fun s => modCp fun c => { c with umbraAt := s.cc + 1 })
def execUmbraCfgWrite (_die : Fin 4) (v : BitVec 32) (s : State) : Host.Outcome State Fault Refusal :=
  done (umbraWrite v.toNat) s

/-! ## Shade windows (R238) -/

/-- The window that ends first closes. -/
def shadeClose : Eff :=
  .get fun s =>
    match s.cp.shades with
    | [] => .skip
    | w :: ws => .seq (advanceTo (ws.foldl (fun m x => min m x.ends) w.ends))
        (.get fun s => modCp fun c => { c with shades := c.shades.filter fun x => s.cc < x.ends })
def execShadeWindowClose (s : State) : Host.Outcome State Fault Refusal := done shadeClose s

/-! ## Loading a program (R184-R188) -/

/-- A field of the program header. -/
def hdrNat (s : State) (b off n : Nat) : Nat := rdNat s.mem (b + off) n
def hdrQueue (s : State) (b n q : Nat) : Nat := hdrNat s b (0x40 + 0x100 * n + 16 * q) 16
def qeBase (e : Nat) : Nat := bits e 47 0
def qeLen (e : Nat) : Nat := bits e 83 64
def hdrTable (s : State) (b n : Nat) : Nat × Nat := (hdrNat s b (0x440 + 12 * n) 8, hdrNat s b (0x448 + 12 * n) 4)
def hdrRequired (s : State) (b n : Nat) : Nat := hdrNat s b (8 + 3 * n) 3
def hdrClass (s : State) (b j : Nat) : Nat := (rdNat s.mem (b + 0x480 + 3 * j / 8) 2 >>> (3 * j % 8)) % 8
/-- Flag key of flag j of FLAG_CLASS: 4,096 of each C-die, then 1,024 of each other die. -/
def classKey (j : Nat) : Nat := if j < 16384 then j else (4 + (j - 16384) / 1024) * 4096 + (j - 16384) % 1024

/-- Whether an entry of a tensor table meets R199. -/
def tensorLegal (s : State) (t : TDesc) : Bool :=
  (Fmt.ofCode t.fmtCode).isSome && 1 ≤ t.inner && 1 ≤ t.outer && (t.isMx || (t.mxax = 0 && tfld t 3 31 0 = 0)) &&
    tfld t 6 16 16 = 0 && t.within (inStores s)

/-- Whether the header, its streams and its tables are in order (code HEADER). -/
def headerLegal (s : State) (b : Nat) : Bool :=
  let stream (n q p : Nat) : Nat := dOpcode (BitVec.ofNat 512 (rdNat s.mem (qeBase (hdrQueue s b n q) + 64 * p) 64))
  let queueOk (n q : Nat) : Bool :=
    let e := hdrQueue s b n q
    let len := qeLen e
    bits e 63 48 = 0 && bits e 95 84 = 0 && bits e 127 104 = 0 && bits e 102 100 = 0 && 0 < len && qeBase e % 64 = 0 &&
      (bits e 103 103 = 1 || bits e 99 96 = 0) && inMemory s (qeBase e) (qeBase e + 64 * len) &&
      stream n q (len - 1) = 0xF0 && (List.range (len - 1)).all fun p => stream n q p != 0xF0
  let tableOk (n : Nat) : Bool :=
    let (a, k) := hdrTable s b n
    1 ≤ k && k ≤ 8192 && a < 2 ^ 48 && a % 32 = 0 && inMemory s a (a + 32 * k) &&
      (List.range k).all fun i =>
        let t : TDesc := BitVec.ofNat 256 (rdNat s.mem (a + 32 * i) 32)
        if i = 0 then t = 0#256 else tensorLegal s t
  hdrNat s b 0 4 = 0x5A425038 && hdrNat s b 5 1 ≤ 1 && hdrNat s b 6 2 = 0 && hdrNat s b 0x14 12 = 0 &&
    hdrNat s b 0x470 16 = 0 && (List.range 4).all tableOk && allQueues.all (fun (n, q) => queueOk n q) &&
    (List.range 20480).all (fun j => hdrClass s b j ≤ 4) &&
    (List.range 4).all fun n => (List.range 16).any fun q =>
      (List.range (qeLen (hdrQueue s b n q))).any fun p => stream n q p = 0xF1

/-- Whether a loaded program has a queue not waiting at STEP.END, or a command in flight. -/
def programBusy (s : State) : Bool :=
  progLoaded s && (!s.cp.flights.isEmpty || allQueues.any fun (d, q) => 0 < (queueOf s d q).len && !atBarrier s d q)

/-- The code of the refusal, if the load is refused (R186). -/
def loadRefusal (s : State) (b : Nat) : Option Nat :=
  let mode := hdrNat s b 5 1
  let missing (ok : Nat → Nat → Bool) : Bool :=
    (List.range 4).any fun n => (setBits (hdrRequired s b n) 24).any fun i => !ok n i
  let mapped (n j : Nat) : Bool :=
    match (s.img.content.engMap.getD n []).getD j none with
    | some i => (s.fuses.present.getD n 0).testBit i
    | none => false
  if !inMemory s b (b + 8832) || !headerLegal s b then some 1
  else if hdrNat s b 4 1 != 1 then some 2
  else if hdrNat s b 0x20 32 != rget s .IMG_DIGEST 8 0 then some 3
  else if mode = 0 && missing (fun n i => (s.fuses.present.getD n 0).testBit i) then some 4
  else if mode = 1 && missing mapped then some 5
  else if programBusy s then some 6
  else none

/-- PROGRAM_DIGEST (11 R451). -/
def programDigest (s : State) (b : Nat) : Nat :=
  leNat (shake256 (ascii "ZARIUS-P" ++ rdBytes s.mem b 8832 ++
    (allQueues.flatMap fun (n, q) => let e := hdrQueue s b n q; rdBytes s.mem (qeBase e) (64 * qeLen e)) ++
    (List.range 4).flatMap fun n => let (a, k) := hdrTable s b n; rdBytes s.mem a (32 * k)) 32)

/-- A register that a load returns to 0: patch registers, idle and ACTIVE counters, the number of skips. -/
def clearedByLoad (key : Nat) : Bool :=
  [RegName.CMD_PATCH, .CMD_IDLE, .UPD_IDLE, .COL_IDLE, .MME_ENG_ACTIVE_CC, .VEC_UNIT_ACTIVE_CC, .ROW_ENG_ACTIVE_CC,
    .UPD_ENG_ACTIVE_CC, .COL_ACTIVE_CC, .CMD_SKIP_SEQ, .DIG_RING_HEAD, .DIG_RING_ACK].any fun r => r.ctorIdx = key / 2 ^ 26

/-- The queues, tables and classes of a program, with every flag of every die at 0: the one place, with a reset, where
a flag returns to 0 (R187, R208). -/
def loadTables (b : Nat) (s : State) : State :=
  let queues := allQueues.map fun (n, q) =>
    let e := hdrQueue s b n q
    (qKey n q, ({ base := qeBase e, len := qeLen e, grouped := bits e 103 103 = 1, group := bits e 99 96 } : Queue))
  let tensors := (List.range 4).flatMap fun n =>
    let (a, k) := hdrTable s b n
    (rangeFrom 1 k).map fun i => (n * 8192 + i, TDesc.cleared (BitVec.ofNat 256 (rdNat s.mem (a + 32 * i) 32)))
  let classes := (List.range 20480).filterMap fun j =>
    let c := hdrClass s b j
    if c = 0 then none else some (classKey j, c)
  { s with
    flags := [], flagOld := [], tensors := tensors,
    regs := mkeep (fun k => !clearedByLoad k) s.regs,
    cp := { s.cp with queues := queues, slots := [], flights := [], signals := [], flagClass := classes,
                      engMode := hdrNat s b 5 1, progDigest := programDigest s b, loadAt := s.cc, firstBlock := true,
                      released := 0, umbra := [], steps := [], slotsStat := s.cp.slotsStat.map fun e => (e.1, { e.2 with state := 0 }), rowMiss := [], rowBad := [],
                      deadline := s.cc + 1, lateFor := 0 },
    upd := { s.upd with lastStep := none },
    col := { s.col with ops := [], early := [], verdict := {}, verdictStep := 0, xdValues := [], xdSent := false,
                        xdrCount := [], xdrEarly := [], queue := [] },
    sync := { s.sync with readyAt := none, ready := {}, t := none, release := {}, b := none, edge := none,
                          warned := false, held := [] },
    dig := { s.dig with slots := [], nextStep := 0, seq := 0, prev := 0, idle := [] } }

/-- What a load sets besides, and the traffic tests it stops (R187, 08 R326, 07 R265, 10 R414, 11 R417, R454): statuses, the loss scale, REPRO 0; a record still
waiting for room is lost. -/
def loadStatus : Eff :=
  .get fun s =>
    let c := s.img.content
    Eff.all [
      putR .CMD_STATUS 0 0 31 30 2,
      stopTests,
      emit 0x0305 0 [],
      putR .UPD_STATUS 4 0 31 28 (0b1100 + b2n (rbit s .UPD_STATUS 4 0 29) * 2),
      setScale 0 c.lsInit 0,
      putR .COL_STATUS 6 0 31 31 0, putR .COL_STATUS 7 0 31 31 0,
      Eff.when (reproOn s) (emit 0x0A09 6 [.num 8 s.sync.dt]),
      putR .SYS_MODE 6 0 31 31 0,
      Eff.when s.dig.waiting.isSome (Eff.all [
        modDig fun d => { d with waiting := none, lost := true },
        incR .DIG_OVERRUN_COUNT 6 0 1, setFault .DIG_FAULT 6 1, emit 0x0802 6 []])]

/-- A write of GO: the load is refused with its code, and nothing else changes, or the program is in force. -/
def loadRun (s : State) : State :=
  let b := rget s .CMD_PROG_BASE 0 0
  match loadRefusal s b with
  | some c => (Eff.all [
      setR .CMD_STATUS 0 0 (b2n (progLoaded s) * 2 ^ 31 + 2 ^ 30 + c * 2 ^ 16),
      emit 0x0306 0 ([.num 1 c] ++ ((List.range 4).map fun n => .num 4 (hdrRequired s b n)) ++
        (List.range 4).map fun n => .num 4 (s.fuses.present.getD n 0))]).run s
  | none => loadStatus.run (loadTables b s)
def execProgramLoad (s : State) : Host.Outcome State Fault Refusal := .next (loadRun s)

end Sys2Proof.Machine
end

