-- ==== Sys2Proof/Machine/Torus.lean ====
section
/-!
DEFINITION. Torus ports: the flit slot and its link word (09 R337-R341), credits (R350, R351), the replay buffer (R347),
drops and notices (R375, R381), failing ports (R373, R374), and the routing decision (R353-R363).
-/
namespace Sys2Proof.Machine

/-! ## Slots (R337, R364) -/

/-- Linear slot number at a domain time: 1.12 cc a slot, 8,192 slots a frame. -/
def slotAt (dt : Nat) : Nat := dt * 25 / 28
def slotNow (s : State) : Nat := slotAt s.sync.dt
def frameNow (s : State) : Nat := slotNow s / 8192
/-- First domain time in a slot. -/
def slotStart (n : Nat) : Nat := ceilDiv (n * 28) 25
/-- Time passes until a domain time. -/
def advanceDt (t : Nat) : Eff := .get fun s => advance (t - s.sync.dt)

def portOf (s : State) (p : Nat) : Port := mget {} s.net.ports p
def modPort (p : Nat) (f : Port → Port) : Eff :=
  modNet fun n => { n with ports := mset {} n.ports p (f (mget {} n.ports p)) }

/-! ## Control flits and the link word (R338-R341) -/

/-- A control flit waits for a slot, of number `due` or later. -/
def sendCtrlAt (p due : Nat) (bs : List Byte) : Eff :=
  modPort p fun x => { x with ctrl := x.ctrl ++ [due * 2 ^ 2048 + leNat bs] }
def sendCtrl (p : Nat) (bs : List Byte) : Eff := sendCtrlAt p 0 bs
def nakBytes (seq : Nat) : List Byte := leBytes 1 1 ++ leBytes 2 seq
def helloBytes (s : State) (p : Nat) : List Byte :=
  leBytes 1 2 ++ leBytes 2 (nodeId s) ++ leBytes 1 p ++ leBytes 1 (nodePart s)
def downBytes : List Byte := leBytes 1 3
def probeBytes (count : Nat) : List Byte := leBytes 1 4 ++ leBytes 8 count
def echoBytes (sent count : Nat) : List Byte := leBytes 1 5 ++ leBytes 8 sent ++ leBytes 8 count

/-- CRC of a slot: the flit's bytes, then bytes 4-7 of the link word (R339). -/
def slotCrc (data link : Nat) : Nat := crc32 (leBytes 256 data ++ leBytes 4 (link >>> 32))

/-- CR_CLASS of a class and back: Q, P and M return credit. -/
def crOfClass (c : Nat) : Nat := if c = 3 then 2 else c
def classOfCr (c : Nat) : Nat := if c = 2 then 3 else c

/-- The link word of a slot: SEQ, ACK, KIND, credit returned and CRC. -/
def linkWord (x : Port) (seq kind data : Nat) : Nat :=
  let cr := x.owed.find? fun (_, n) => 0 < n
  let fields := match cr with
    | some (k, n) => crOfClass (k / 4) * 2 ^ 38 + (k % 4) * 2 ^ 36 + min n 15 * 2 ^ 32
    | none => 3 * 2 ^ 38
  let w := seq % 2048 * 2 ^ 53 + (x.rxSeq + 2047) % 2048 * 2 ^ 42 + kind * 2 ^ 40 + fields
  w + slotCrc data w

/-- The number the next data flit will carry, which idle and control flits show (R338). -/
def Port.nextSeq (x : Port) : Nat := x.resend.getD x.txSeq

/-- One slot leaves a port; the credit its link word returns is owed no more. -/
def sendSlot (p seq kind data use : Nat) : Eff :=
  .get fun s =>
    let x := portOf s p
    Eff.all [
      .act (.out (.flit p data (linkWord x seq kind data))),
      incFld .NET_PORT_SLOT_USE 6 (4 * p + use) 63 0 1,
      modPort p fun y => { y with sentAt := slotNow s + 1, owed := match y.owed.find? fun (_, n) => 0 < n with
        | some (k, n) => mset 0 y.owed k (n - min n 15)
        | none => y.owed }]

/-! ## Credits (R350, R351) -/

/-- Credits of a fresh port. -/
def fullCredits : List (Nat × Nat) :=
  [(0, 256), (1, 256), (2, 48), (4, 256), (5, 256), (6, 48), (12, 32), (13, 32), (14, 48)]
def creditOf (s : State) (p cls vc : Nat) : Nat := mget 0 (portOf s p).credits (cls * 4 + vc)
/-- A packet has left the buffer of the input it came in by: its room goes back. -/
def freeInput (x : Packet) : Eff :=
  Eff.when (x.inp < 6 && x.cls != 2)
    (modPort x.inp fun y => { y with owed := mset 0 y.owed (x.cls * 4 + x.vc) (mget 0 y.owed (x.cls * 4 + x.vc) + x.n) })
/-- Packets whose escape port lacks credit count their wait from now; the others do not wait (R358). -/
def recount (p : Nat) : Eff :=
  .get fun s => modNet fun n =>
    { n with outbuf := n.outbuf.map fun (k, xs) =>
        if k / 16 = p then (k, xs.map fun x =>
          if x.n ≤ creditOf s p (k / 4 % 4) (k % 4) || k % 4 = 3 then { x with waiting := 0 }
          else if x.waiting = 0 then { x with waiting := s.cc + 1 } else x) else (k, xs) }

/-- What the link word of a good slot brings: flits acknowledged, credit returned. -/
def takeLink (p : Nat) (link : Nat) : Eff :=
  let ack := bits link 52 42
  .seq (modPort p fun x =>
      let left := match x.replay.findIdx? fun (q, _) => q = ack with
        | some i => x.replay.drop (i + 1)
        | none => x.replay
      let c := bits link 39 38
      let k := classOfCr c * 4 + bits link 37 36
      { x with replay := left, tries := if left = x.replay then x.tries else 0,
               resend := match x.resend with
                 | some r => if left.any fun (q, _) => q = r then some r else none
                 | none => none,
               credits := if c = 3 || bits link 37 36 = 3 then x.credits else mset 0 x.credits k (mget 0 x.credits k + bits link 35 32) })
    (recount p)

/-! ## Packets on their way (R342, R351) -/

/-- A flit that comes in by a port joins the packet it belongs to, the last one if `whole`. -/
def Packet.grow (p d : Nat) (whole : Bool) (x : Packet) : Packet :=
  if x.inp = p && x.more then { x with flits := x.flits ++ [d], more := !whole } else x
def Port.grow (p d : Nat) (whole : Bool) (y : Port) : Port :=
  match y.now with
  | some x => if x.inp = p && x.more then { y with tail := y.tail ++ [d], now := some { x with more := !whole } } else y
  | none => y
/-- Wherever it is held. -/
def Net.grow (p d : Nat) (whole : Bool) (n : Net) : Net :=
  let each (m : List (Nat × List Packet)) : List (Nat × List Packet) := m.map fun e => (e.1, e.2.map (Packet.grow p d whole))
  { n with inbuf := each n.inbuf, outbuf := each n.outbuf, cbuf := each n.cbuf, cArrive := n.cArrive.map (Packet.grow p d whole),
           ejected := n.ejected.map (Packet.grow p d whole), ports := n.ports.map fun e => (e.1, Port.grow p d whole e.2) }
/-- What has come of a packet whose rest is not to come is discarded (assumption 23). -/
def Net.cut (p : Nat) (n : Net) : Net :=
  let ok (x : Packet) : Bool := !(x.inp = p && x.more)
  let each (m : List (Nat × List Packet)) : List (Nat × List Packet) :=
    (m.map fun e => (e.1, e.2.filter ok)).filter fun e => !e.2.isEmpty
  { n with inbuf := each n.inbuf, outbuf := each n.outbuf, cbuf := each n.cbuf, cArrive := n.cArrive.filter ok,
           ejected := n.ejected.filter ok,
           ports := n.ports.map fun e => (e.1, if e.2.now.any fun x => !ok x then { e.2 with now := none, tail := [] } else e.2) }

/-! ## Drops and notices (R375, R380, R381) -/

/-- A NOTICE to the source of a Q or C packet: the cause, this node, and the header in payload bytes 31:16. -/
def sendNotice (cause hdr : Nat) : Eff :=
  .get fun s => Eff.when (bits hdr 39 38 = 0 || bits hdr 39 38 = 2)
    (sendPacket (bits hdr 31 16) 3 0xFF false (bodyM 2 cause (nodeId s * 2 ^ 32)) (leBytes 16 hdr))

/-- Count and record a dropped header under a cause; `inp` the input it came in by. -/
def dropHeader (cause inp hdr : Nat) : Eff :=
  .get fun s => Eff.all [
    incR .NET_DROP_COUNT 6 cause 1,
    setFault .NET_FAULT 6 2,
    oncePerSecond (0x060400 + 16 * cause + inp) (emit 0x0604 6 [.num 1 inp, .num 8 (frameNow s), .num 16 hdr]),
    Eff.when (cause = 0 || cause = 5 || cause = 6 || cause = 7) (.seq (setFault .NET_FAULT 6 3)
      (oncePerSecond 0x0605 (emit 0x0605 6 [.num 1 inp, .num 8 (frameNow s)]))),
    Eff.when (cause = 9) (.seq (setFault .NET_FAULT 6 5) (emit 0x0609 6 [.num 1 inp, .num 8 (frameNow s)])),
    Eff.when (cause != 5 && cause != 12 && cause != 13) (sendNotice cause hdr)]

/-- Drop a packet held by the router. -/
def dropPacket (cause : Nat) (x : Packet) : Eff := .seq (freeInput x) (dropHeader cause x.inp (bits x.head 127 0))

/-! ## Failing ports (R373, R374) -/

/-- The packets of which some flit was sent and not acknowledged, or is not sent yet: their headers. -/
def lostHeaders (x : Port) : List Nat :=
  let heads := (x.replay.filter fun e => e.2.1 = 1).map fun e => e.2.2.2
  let first := match x.replay with
    | (_, kind, _, h) :: _ => if kind = 1 then [] else [h]
    | [] => (x.now.map fun y => bits y.head 127 0).toList
  first ++ heads

/-- A port that has trained fails: FAILED, ENABLE cleared, DOWN sent, its lost packets counted and reported, and every packet
still waiting for it put back as it came in, to be routed afresh. -/
def portFail (p cause : Nat) : Eff :=
  .get fun s => Eff.when (portUp s p || portState s p = 2) (
    let lost := lostHeaders (portOf s p)
    Eff.all [
      putR .NET_PORT_STATUS 6 p 31 29 4,
      putR .NET_PORT_CFG 6 p 31 31 0,
      setFault .NET_FAULT 6 0,
      putR .NET_PORT_CAUSE 6 p 3 0 cause,
      emit 0x0601 6 [.num 1 p, .num 8 (frameNow s)],
      modPort p fun x => { sentAt := x.sentAt },
      sendCtrl p downBytes,
      modNet fun n =>
        let back := ((n.outbuf.filter fun (k, _) => k / 16 = p).flatMap (·.2)).map Packet.restored
        let backC := ((n.cbuf.filter fun (k, _) => k % 8 = p).flatMap (·.2)).map Packet.restored
        Net.cut p { n with
          outbuf := mkeep (fun k => k / 16 != p) n.outbuf, cbuf := mkeep (fun k => k % 8 != p) n.cbuf,
          cArrive := backC ++ n.cArrive,
          inbuf := back.foldr (fun x b => mset [] b (bufKey x.inp x.cls x.vc) (x :: mget [] b (bufKey x.inp x.cls x.vc))) n.inbuf },
      Eff.each lost fun h => dropHeader 11 p h])

/-! ## The routing decision (R353-R361) -/

/-- Axis of a port: 0 X, 1 Y, 2 Z; Z comes first in the order of R354. -/
def axisOf (p : Nat) : Nat := p / 2
/-- Direction of an axis in an entry: 0 done, 1 plus, 2 minus. -/
def dirOf (e axis : Nat) : Nat := bits e (25 + 2 * axis) (24 + 2 * axis)
def failPort (e axis : Nat) : Nat := bits e (16 + 3 * axis) (14 + 3 * axis)
def portFor (axis dir : Nat) : Nat := 2 * axis + (if dir = 2 then 1 else 0)
def rtEntry (s : State) (epoch dst : Nat) : Nat := rget s .NET_RT 6 (65536 * epoch + dst)
/-- Axes not done, in the order Z, Y, X. -/
def axesLeft (e : Nat) : List Nat := [2, 1, 0].filter fun a => dirOf e a = 1 || dirOf e a = 2
def entryOk (e : Nat) : Bool :=
  bit e 31 && ([0, 1, 2].all fun a => dirOf e a != 3) && (bit e 30 = (axesLeft e).isEmpty)
def dateline (s : State) (p : Nat) : Bool := rbit s .NET_PORT_CFG 6 p 30

/-- What a router does with a packet: deliver it, drop it, leave it where it is, or send it out by a port on a VC,
`taken` with room on VC 2 taken for a detour. -/
inductive Route where
  | eject
  | drop (cause : Nat)
  | stay
  | go (port vc : Nat) (x : Packet) (taken : Bool)

/-- An escape hop by a port: VC and DL by R355 and R361, one more router passed. `left` is the axis of the hop before
a detour went off it. -/
def escapeHop (s : State) (x : Packet) (out : Nat) : Route :=
  let afterDetour := x.inp < 6 && x.vcF = 2
  let same := x.inp < 6 && axisOf x.inp = axisOf out
  let dl := if afterDetour then x.dl && !same else x.dl && same
  let dl' := dl || dateline s out
  let vc := if dl' then 1 else 0
  .go out vc (((x.setH 37 36 vc).setH 42 42 (b2n dl')).setH 60 56 (x.hops + 1)) false

/-- A hop on VC 2. At a detour from an axis the packet has not yet travelled, DL clears. -/
def vc2Hop (x : Packet) (keepDl : Bool) : Packet :=
  ((x.setH 37 36 2).setH 60 56 (x.hops + 1)).setH 42 42 (b2n (x.dl && keepDl))

/-- Room on VC 2 of a port for an outgoing detour (R360). -/
def detourRoom (s : State) (x : Packet) (p : Nat) : Bool := decide (x.n + 16 ≤ creditOf s p x.cls 2)

/-- Route one packet by its table entry, its escape port, a failed port's alternative or a return hop. -/
def routeFor (s : State) (x : Packet) : Route :=
  let e := rtEntry s x.epoch x.dst
  if !entryOk e then .drop 0
  else if bit e 30 then .eject
  else if x.hops = 24 then .drop 5
  else
    let rax := axisOf x.retPort
    match (axesLeft e).filter fun a => !(x.ret && a = rax) with
    | [] =>
      -- only the return hop is left
      if portFor rax (dirOf e rax) != x.retPort || peerNode s x.retPort != x.dst then .drop 6
      else if !portUp s x.retPort then .drop 1
      else .go x.retPort 2 ((vc2Hop x true).setH 46 46 0) false
    | a :: _ =>
      let out := portFor a (dirOf e a)
      let wrong := x.inp < 6 && x.vcF < 2 && (x.inp = out || axisOf x.inp < a)
      if wrong then .drop 6
      else if portUp s out then escapeHop s x out
      else if peerNode s out = x.dst then .drop 1
      else if x.cls = 2 then .drop 3
      else
        let alt := failPort e a
        if alt < 6 && axisOf alt = a then (if portUp s alt then escapeHop s x alt else .drop 2)
        else if alt < 6 && portUp s alt && !x.det then
          if detourRoom s x alt then
            let y := (vc2Hop x (x.inp < 6 && axisOf x.inp = a)).setH 47 47 1
            let y := if a < axisOf alt then (y.setH 46 46 1).setH 45 43 (alt ^^^ 1) else y
            .go alt 2 y true
          else .stay
        else .drop 2

/-- Whether domains of the module's own C-dies and M-dies are in a core reset (R377, 12 R479). -/
def endpointsDown (s : State) : Bool :=
  alive s 4 && !((rangeFrom 10 14 ++ rangeFrom 18 30).all fun d => alive s d)

/-- Whether an address lies in the control space of a C-die or an M-die (01 R21). -/
def computeSpace (a : Nat) : Bool := decide (0x700000000000 ≤ a) &&
  (decide (a < 0x700010000000) || (decide (0x700010000000 ≤ a) && decide (a < 0x700018000000)))
/-- Ejection: by partition (R371); during a core reset C packets and CWRITEs to C-dies and M-dies are dropped. A packet of which
flits are still to come holds its input's room until the last. -/
def eject (x : Packet) : Eff :=
  .get fun s =>
    if !(x.part = nodePart s || (x.cls = 3 && x.part = 0xFF)) then dropPacket 4 x
    else if (s.rst.phase = .entry || endpointsDown s) &&
        (x.cls = 2 || (x.cls = 3 && x.mtype = 1 && computeSpace (bits x.body 47 0))) then dropPacket 10 x
    else .seq (Eff.when (!x.more) (freeInput x)) (modNet fun n => { n with ejected := n.ejected ++ [x] })

end Sys2Proof.Machine
end

