-- ==== Sys2Proof/Machine/ExecTorus.lean ====
section
/-!
DEFINITION. The torus commands (09 R334-R382): training and failing of ports, flits received and sent, replay,
routing, slot tables, routing epochs, Q and P packets, notices and congestion samples.
-/
namespace Sys2Proof.Machine

/-- Mark running commands with a cause of overrun (R237, R348). -/
def markFlights (b : Nat) (p : Flight → Bool) : Eff :=
  modCp fun c => { c with flights := c.flights.map fun f => if p f then { f with marks := f.marks ||| 2 ^ b } else f }
/-- Whether a command is a collective of an axis. -/
def usesPort (s : State) (p : Nat) (f : Flight) : Bool :=
  s.col.ops.any fun o => o.die = f.die && o.q = f.q && o.pos = f.pos && (groupOf s o.group).axis = p / 2

/-! ## Ports (R335, R336, R373) -/

/-- A HELLO ends training, which has measured the link's latency (R333): the port is TRAINED, MISWIRED when the peer is a port of
another axis or the same sign, or has not trained all its lanes. -/
def helloRow (p node peer lanes pol lat : Nat) : Eff :=
  .get fun s => Eff.when (alive s (6 + p % 2) && s.pow.serdes.testBit (p % 2) && !portUp s p) (Eff.all [
    setR .NET_PORT_LANES 6 p (pol * 2 ^ 16 + lanes),
    putR .NET_PORT_STATUS 6 p 15 0 node,
    putR .NET_PORT_STATUS 6 p 28 26 peer,
    putR .NET_PORT_STATUS 6 p 25 16 lat,
    sendCtrl p (helloBytes s p),
    if lanes != 0xFFFF then .seq (putR .NET_PORT_CAUSE 6 p 3 0 5) (putR .NET_PORT_STATUS 6 p 31 29 4)
    else if peer != p ^^^ 1 then Eff.all [
      putR .NET_PORT_STATUS 6 p 31 29 5, setFault .NET_FAULT 6 1, emit 0x0603 6 [.num 1 p, .num 8 (frameNow s)]]
    else putR .NET_PORT_STATUS 6 p 31 29 2])
def execTorusHello (p : Fin 6) (node : BitVec 16) (peer : Fin 8) (_part : BitVec 8) (lanes : BitVec 16)
    (found : BitVec 16 × BitVec 10) (s : State) : Host.Outcome State Fault Refusal :=
  done (helloRow p node.toNat peer lanes.toNat found.1.toNat found.2.toNat) s

/-- A write to NET_PORT_CFG: ENABLE brings a TRAINED port UP, and fails an UP port when written 0. -/
def portWrite (p v : Nat) : Eff :=
  .get fun s =>
    let st := portState s p
    Eff.all [
      Eff.when (st = 3 && !bit v 31) (portFail p 6),
      setR .NET_PORT_CFG 6 p (v / 2 ^ 30 * 2 ^ 30),
      Eff.when (st = 2 && bit v 31) (Eff.all [
        putR .NET_PORT_STATUS 6 p 31 29 3,
        modPort p fun x => { sentAt := x.sentAt, ctrl := x.ctrl, credits := fullCredits },
        setFault .NET_FAULT 6 7,
        emit 0x0600 6 [.num 1 p, .num 8 (frameNow s)]])]
def execPortEnableWrite (p : Fin 6) (v : BitVec 32) (s : State) : Host.Outcome State Fault Refusal :=
  done (portWrite p v.toNat) s

def execTorusDown (p : Fin 6) (s : State) : Host.Outcome State Fault Refusal := done (portFail p 4) s

/-- A port fails by itself: alignment or FEC loss, CRC silence, or the replay limit. -/
def lossCause : PortLoss → Nat
  | .alignment => 1
  | .crcSilence => 2
  | .replayLimit => 3
def execNetLinkDown (p : Fin 6) (why : PortLoss) (s : State) : Host.Outcome State Fault Refusal :=
  done (portFail p (lossCause why)) s

/-! ## Flits received (R338-R341, R347) -/

/-- A failed CRC, or a control flit of a reserved type. -/
def badFlit (p : Nat) : Eff := incR .NET_PORT_CRC_COUNT 6 p 1
/-- A NAK leaves for the first number missing: once for the flits that are out of sequence until it comes, and each time that a
data flit fails its CRC, which may be the replayed one (DESIGN CHOICE, assumption 23). -/
def wantReplay (p : Nat) (crc : Bool) : Eff :=
  .get fun s =>
    let x := portOf s p
    Eff.when (crc || !x.nak) (.seq (modPort p fun y => { y with nak := true }) (sendCtrl p (nakBytes x.rxSeq)))

/-- The head of a packet goes before the router at once (R351): C packets by themselves, others by class and VC. -/
def receivePacket (p head : Nat) (more : Bool) : Eff :=
  let x : Packet := { flits := [head], inp := p, more := more }
  let x := { x with vc := x.vcF }
  modNet fun n0 =>
    let n := n0.cut p
    if x.cls = 2 then { n with cArrive := n.cArrive ++ [x] }
    else { n with inbuf := mset [] n.inbuf (bufKey p x.cls x.vc) (mget [] n.inbuf (bufKey p x.cls x.vc) ++ [x]) }
/-- A further flit of the packet that is coming in follows it; with the last one a packet already delivered gives its room back. -/
def receiveBody (p d : Nat) (whole : Bool) : Eff :=
  .get fun s => .seq (modNet (Net.grow p d whole))
    (Eff.when whole (Eff.opt (s.net.ejected.find? fun x => x.inp = p && x.more) freeInput))

/-- One data flit: its link word counts, and the flit is taken in order or discarded with a NAK. -/
def dataFlitRow (p : Nat) (f : Flit) : Eff :=
  let w := f.link.toNat
  .get fun s => Eff.when (portUp s p) (
    if slotCrc f.data w != bits w 31 0 then .seq (badFlit p) (wantReplay p true)
    else .seq (takeLink p w) (.get fun s =>
      let x := portOf s p
      if bits w 63 53 != x.rxSeq then wantReplay p false
      else
        let fl := if bits w 41 40 = 1 then [f.data] else x.asm ++ [f.data]
        let whole := decide (bits (fl.headD 0) 35 32 + 1 ≤ fl.length)
        Eff.all [
          incR64 .NET_PORT_RX_FLITS 6 p 1,
          modPort p fun y => { y with rxSeq := (x.rxSeq + 1) % 2048, nak := false, asm := if whole then [] else fl },
          if bits w 41 40 = 1 then receivePacket p f.data (!whole) else receiveBody p f.data whole]))
def execDataFlitReceive (p : Fin 6) (f : Flit) (s : State) : Host.Outcome State Fault Refusal := done (dataFlitRow p f) s

/-- An idle or unlisted control flit: ACK and credit ride on it. -/
def idleRow (p : Nat) (f : Flit) : Eff :=
  let w := f.link.toNat
  .get fun s => Eff.when (portUp s p) (
    if slotCrc f.data w != bits w 31 0 then badFlit p
    else .seq (takeLink p w) (Eff.when (bits w 41 40 = 3 && !(1 ≤ bits f.data 7 0 && bits f.data 7 0 ≤ 5)) (badFlit p)))
/-- What a listed control flit brings, given its bytes and link word: ACK and credit ride on it too (R340). -/
def ctrlFlit (p : Nat) (bs : List Byte) (link : Nat) (e : Eff) : Eff :=
  if slotCrc (leNat bs) link != bits link 31 0 then badFlit p
  else .get fun s => .seq (Eff.when (portUp s p) (takeLink p link)) e
def execIdleFlit (p : Fin 6) (f : Flit) (s : State) : Host.Outcome State Fault Refusal := done (idleRow p f) s

/-- A NAK: the transmitter goes back to a number; a fifth replay of one flit fails the port. -/
def nakRow (p seq link : Nat) : Eff :=
  ctrlFlit p (nakBytes seq) link <| .get fun s =>
    let x := portOf s p
    Eff.when (portUp s p && x.replay.any fun e => e.1 = seq) (
      let again := (x.replay.headD (0, 0, 0, 0)).1 = seq
      let n := if again then x.tries + 1 else 1
      if n ≥ 5 then portFail p 3
      else Eff.all [
        -- the flits before the number named are acknowledged by it
        modPort p fun y => { y with resend := some seq, tries := n, replay := y.replay.dropWhile fun e => e.1 != seq,
                                    sinceReplay := 0 },
        incR .NET_PORT_REPLAY_COUNT 6 p 1,
        Eff.when (x.sinceReplay < 1048576) (markFlights 2 (usesPort s p)),
        oncePerSecond (0x060200 + p) (emit 0x0602 6 [.num 1 p, .num 8 (frameNow s)])])
def execNakFlit (p : Fin 6) (flit : Fin 2048 × BitVec 64) (s : State) : Host.Outcome State Fault Refusal :=
  done (nakRow p flit.1 flit.2.toNat) s

/-! ## Routing (R353-R363) -/

/-- Put a routed packet before its port: `orig` as it came in. -/
def toPort (port vc : Nat) (orig y : Packet) : Eff :=
  .get fun s => .seq (modNet fun n =>
    let x := { y with waiting := 0, head0 := orig.head, since := s.cc }
    let k := (port * 4 + x.cls) * 4 + vc
    { n with outbuf := mset [] n.outbuf k (mget [] n.outbuf k ++ [x]) }) (recount port)
/-- Take room on VC 2 of a port. -/
def takeRoom (port cls n : Nat) : Eff :=
  modPort port fun y => { y with credits := mset 0 y.credits (cls * 4 + 2) (mget 0 y.credits (cls * 4 + 2) - n) }

/-- The oldest packet of an input, class and VC is routed, over the die-to-die links where it leaves by a port of the other
L-die (01 R35, R37); it waits while one of them trains. A C packet of the module's own enters the router. -/
def routeRow (inp cls vc : Nat) : Eff :=
  .get fun s =>
    match mget [] s.net.inbuf (bufKey inp cls vc) with
    | [] => .skip
    | x :: rest =>
      let pop := modNet fun n => { n with inbuf := mset [] n.inbuf (bufKey inp cls vc) rest }
      if cls = 2 then .seq pop (modNet fun n => { n with cArrive := n.cArrive ++ [x] })
      else match routeFor s x with
        | .stay => .skip
        | .eject => .seq pop (eject x)
        | .drop c => .seq pop (dropPacket c x)
        | .go p v y taken => Eff.when (openRoute s (transitRoute s x p)) (Eff.all [pop,
            crossRoute x.inner (256 * x.n) (transitRoute s x p),
            if taken then .seq (takeRoom p cls x.n) (toPort p 3 x y) else toPort p v x y])
def execPacketRoute (inp : Fin 7) (cls : Fin 4) (vc : Fin 3) (s : State) : Host.Outcome State Fault Refusal :=
  done (routeRow inp cls vc) s

/-- The detour a packet waiting for escape port `out` may take for congestion: one step along a later axis (R358). -/
def congestionPort (s : State) (x : Packet) (out : Nat) : Option Nat :=
  let e := rtEntry s x.epoch x.dst
  let later := [1, 0].filter fun a => a < axisOf out && (dirOf e a = 1 || dirOf e a = 2) && !(x.ret && a = axisOf x.retPort)
  if x.cls != 2 && !x.ordered && !x.det && bit e 23 && rbit s .NET_CTRL 6 0 0 && !reproOn s && !rbit s .NET_CTRL 6 0 1 then
    (later.map fun a => portFor a (dirOf e a)).find? fun p => portUp s p && detourRoom s x p
  else none

/-- A packet of an input, class and VC that has waited ADAPT_WAIT cc for credit goes one hop aside. -/
def detourRow (inp cls vc : Nat) : Eff :=
  .get fun s =>
    let found := (List.range 6).findSome? fun p => [0, 1].findSome? fun v =>
      ((mget [] s.net.outbuf ((p * 4 + cls) * 4 + v)).find? fun x => x.inp = inp && x.vc = vc && x.waiting != 0).map fun x => (p, v, x)
    Eff.opt found fun (out, v, x) =>
      .seq (advanceTo (x.waiting - 1 + rfld s .NET_CTRL 6 0 15 8)) (.get fun s =>
        Eff.opt (congestionPort s x out) fun p =>
          let r := x.restored
          let y := (vc2Hop r (r.inp < 6 && axisOf r.inp = axisOf out)).setH 47 47 1
          Eff.all [
            modNet fun n =>
              let k := (out * 4 + cls) * 4 + v
              { n with outbuf := mset [] n.outbuf k ((mget [] n.outbuf k).erase x) },
            takeRoom p cls x.n,
            toPort p 3 r y])
def execCongestionDetour (inp : Fin 7) (cls : Fin 4) (vc : Fin 3) (s : State) : Host.Outcome State Fault Refusal :=
  done (detourRow inp cls vc) s

/-! ## Slot tables (R365-R368) -/

def slotEntry (s : State) (p bank i : Nat) : Nat := rget s .NET_SLOT 6 (16384 * p + 8192 * bank + i)
def activeBank (s : State) (p : Nat) : Nat := rfld s .NET_SLOT_CTRL 6 p 30 30
/-- Entries of a table that are not 0. -/
def tableEntries (s : State) (p bank : Nat) : List Nat :=
  let lo := regKey .NET_SLOT 6 (16384 * p + 8192 * bank)
  (s.regs.filter fun e => lo ≤ e.1 && e.1 < lo + 8192).map (·.2)
def reservedSlots (s : State) (p bank : Nat) : Nat := ((tableEntries s p bank).filter fun e => bit e 31).length
/-- Whether an entry reserves its slot for an input and a partition. -/
def reserves (e inp part : Nat) : Bool := bit e 31 && bits e 30 28 = inp && bits e 7 0 = part

/-- Flits in the C buffer of an input. -/
def cHeld (s : State) (inp : Nat) : Nat :=
  ((s.net.cbuf.filter fun (k, _) => k / 8 = inp).flatMap fun (_, xs) => xs.map Packet.n).foldl (· + ·) 0

/-- A C packet goes on by a port, in the slots its input and partition hold there, or is dropped. -/
def cForward (x : Packet) (port : Nat) (y : Packet) : Eff :=
  .get fun s =>
    if !((tableEntries s port (activeBank s port)).any fun e => reserves e x.inp x.part) then dropPacket 8 x
    else if x.inp < 6 && decide (2048 < cHeld s x.inp + x.n) then dropPacket 9 x
    else modNet fun n =>
      let k := x.inp * 8 + port
      { n with cbuf := mset [] n.cbuf k (mget [] n.cbuf k ++ [{ y with head0 := x.head }]) }

/-- The oldest C packet just received is ejected, forwarded, or both (R363), or dropped. -/
def cArriveRow : Eff :=
  .get fun s =>
    match s.net.cArrive with
    | [] => .skip
    | x :: rest =>
      let r := match routeFor s x with
        | .go p _ _ _ => transitRoute s x p
        | _ => []
      Eff.when (openRoute s r) <| Eff.all [modNet fun n => { n with cArrive := rest }, crossRoute clTen (256 * x.n) r,
        (match routeFor s x with
        | .stay => .skip
        | .eject => eject x
        | .drop c => dropPacket (if x.mcast && c = 3 then 7 else c) x
        | .go p _ y _ =>
          if x.mcast && x.inp < 6 && x.inp ^^^ 1 != p then dropPacket 7 x
          else .seq (Eff.when (x.mcast && x.inp < 6) (eject x)) (cForward x p y))]
def execCFlitArrive (s : State) : Host.Outcome State Fault Refusal := done cArriveRow s

/-- A write to NET_SLOT_CTRL: SWAP asks for an exchange; REFUSED clears when written 1. -/
def slotSwapWrite (p v : Nat) : Eff :=
  .seq (Eff.when (bit v 28) (putR .NET_SLOT_CTRL 6 p 28 28 0))
    (Eff.when (bit v 31) (.seq (putR .NET_SLOT_CTRL 6 p 31 31 1) (putR .NET_SLOT_CTRL 6 p 29 29 1)))
def execSlotSwapRequest (p : Fin 6) (v : BitVec 32) (s : State) : Host.Outcome State Fault Refusal :=
  done (slotSwapWrite p v.toNat) s

/-- Time passes to the start of a frame, or of the next one if it has begun. -/
def toFrame (n : Nat) : Eff :=
  .get fun s =>
    let first := slotStart (8192 * n)
    advanceDt (if s.sync.dt ≤ first then first else slotStart (8192 * (frameNow s + 1)))

/-- The tables of a port exchange roles at the frame named, or the exchange is refused. -/
def slotSwapRow (p : Nat) : Eff :=
  .get fun s => Eff.when (rbit s .NET_SLOT_CTRL 6 p 29)
    (.seq (toFrame (rfld s .NET_SLOT_SWAP_FRAME 6 p 50 0)) (.get fun s =>
      let bank := activeBank s p
      let bad := decide (7168 < reservedSlots s p (1 - bank)) ||
        (tableEntries s p (1 - bank)).any fun e => bit e 31 && bits e 30 28 = 7
      Eff.all [
        putR .NET_SLOT_CTRL 6 p 31 31 0,
        putR .NET_SLOT_CTRL 6 p 29 29 0,
        if bad then Eff.all [
          putR .NET_SLOT_CTRL 6 p 28 28 1, setFault .NET_FAULT 6 6, emit 0x0606 6 [.num 1 p, .num 8 (frameNow s)]]
        else putR .NET_SLOT_CTRL 6 p 30 30 (1 - bank)]))
def execSlotTableSwap (p : Fin 6) (s : State) : Host.Outcome State Fault Refusal := done (slotSwapRow p) s

def execRtSwapRequest (v : BitVec 32) (s : State) : Host.Outcome State Fault Refusal :=
  done (Eff.when (bit v.toNat 31) (putR .NET_RT_CTRL 6 0 31 31 1)) s

/-- Injection changes epoch at the frame named (R370). -/
def rtSwapRow : Eff :=
  .get fun s => Eff.when (rbit s .NET_RT_CTRL 6 0 31)
    (.seq (toFrame (rfld s .NET_RT_SWAP_FRAME 6 0 50 0)) (.get fun s => Eff.all [
      putR .NET_RT_CTRL 6 0 31 31 0,
      putR .NET_RT_CTRL 6 0 30 30 (1 - rtEpoch s),
      emit 0x0607 6 [.num 8 (frameNow s)]]))
def execNetRtSwap (s : State) : Host.Outcome State Fault Refusal := done rtSwapRow s

/-- Every 625 frames the slot count meets a SYNC_REF edge again (R364). The count derives from DT, so it is
already aligned when the moment comes. -/
def execFrameRealign (s : State) : Host.Outcome State Fault Refusal :=
  done (.get fun s => advanceDt ((s.sync.dt / 5734400 + 1) * 5734400)) s

/-! ## Slots sent (R352, R367) -/

/-- C packet a slot of table entry `e` serves. -/
def servedC (s : State) (p e : Nat) : Option Packet :=
  if bit e 31 then (mget [] s.net.cbuf (bits e 30 28 * 8 + p)).find? fun x => x.part = bits e 7 0 else none
/-- Whether a lent packet of n flits ends before the next reserved slot whose C flit waits. -/
def lentFits (s : State) (p i n : Nat) : Bool :=
  (rangeFrom 1 n).all fun j => (servedC s p (slotEntry s p (activeBank s p) ((i + j) % 8192))).isNone
/-- The packets of a class before a port that may leave on a VC (3 a detour, whose room on VC 2 is taken): they pass a test, have
credit for the whole packet, and no older packet of the same flow is before them (R361). -/
def readyPackets (s : State) (p c v : Nat) (ok : Packet → Bool) : List (Nat × Packet) :=
  let k := (p * 4 + c) * 4 + v
  let l := mget [] s.net.outbuf k
  l.zipIdx.filterMap fun (x, i) =>
    if ok x && (v = 3 || decide (x.n ≤ creditOf s p c v)) && !(l.take i).any (fun y => y.src = x.src && y.dst = x.dst)
    then some (k, x) else none
/-- The packet that has been before its port longest. -/
def oldest : List (Nat × Packet) → Option (Nat × Packet)
  | [] => none
  | e :: rest => some (rest.foldl (fun a b => if b.2.since < a.2.since then b else a) e)
/-- The next Q, P or M packet by the order of R352, among those a test passes. -/
def nextPacket (s : State) (p : Nat) (ok : Packet → Bool) : Option (Nat × Packet) :=
  [3, 1, 0].findSome? fun c => [[3, 2], [1], [0]].findSome? fun vs => oldest (vs.flatMap fun v => readyPackets s p c v ok)

/-- Send one data flit and keep it for replay. -/
def sendFlit (p kind data hdr use : Nat) : Eff :=
  .get fun s =>
    let x := portOf s p
    Eff.all [
      sendSlot p x.txSeq kind data use,
      incR64 .NET_PORT_TX_FLITS 6 p 1,
      modPort p fun y => { y with txSeq := (x.txSeq + 1) % 2048, replay := y.replay ++ [(x.txSeq, kind, data, hdr)],
                                  sinceReplay := min 1048576 (x.sinceReplay + 1) }]

/-- Once the last flit of the packet being sent has left, its input's room is free (R351). -/
def endPacket (p : Nat) : Eff :=
  .get fun s =>
    let y := portOf s p
    Eff.opt y.now fun x => Eff.when (y.tail.isEmpty && !x.more) (.seq (modPort p fun z => { z with now := none }) (freeInput x))
/-- A packet begins: its head flit leaves, and its other flits follow. -/
def startPacket (p : Nat) (x : Packet) (use : Nat) : Eff :=
  Eff.all [
    sendFlit p 1 x.head (bits x.head 127 0) use,
    modPort p fun y => { y with tail := x.flits.drop 1, now := some { x with flits := [x.head] } },
    endPacket p]

def idleSlot (p : Nat) : Eff := .get fun s => sendSlot p (portOf s p).nextSeq 0 0 3

/-- What an UP port grants slot `n` to: a replay, the packet in progress, a reserved C flit, lent traffic, or M, P
and Q. -/
def grant (p n : Nat) : Eff :=
  .get fun s =>
    let x := portOf s p
    let e := slotEntry s p (activeBank s p) (n % 8192)
    let res := bit e 31
    let useOf (c : Nat) : Nat := if res then (if c = 2 then 0 else 1) else 2
    match x.resend with
    | some q =>
      match x.replay.find? fun r => r.1 = q with
      | some (_, kind, data, hdr) => Eff.all [
          sendSlot p q kind data (useOf (bits hdr 39 38)),
          incR64 .NET_PORT_TX_FLITS 6 p 1,
          modPort p fun y => { y with resend := (y.replay.dropWhile fun r => r.1 != q).drop 1 |>.head? |>.map (·.1) }]
      | none => .seq (modPort p fun y => { y with resend := none }) (idleSlot p)
    | none =>
      if 1024 ≤ x.replay.length then idleSlot p
      else match x.now with
        | some y =>
          -- a C packet goes on in its own slots, and a packet whose next flit has not come leaves the slot idle
          match x.tail with
          | [] => idleSlot p
          | d :: rest =>
            if y.cls = 2 && !reserves e y.inp y.part then idleSlot p
            else Eff.all [sendFlit p 2 d (bits y.head 127 0) (useOf y.cls), modPort p fun z => { z with tail := rest }, endPacket p]
        | none =>
          match servedC s p e with
          | some c => .seq (modNet fun m =>
                let k := bits e 30 28 * 8 + p
                { m with cbuf := mset [] m.cbuf k ((mget [] m.cbuf k).erase c) }) (startPacket p c 0)
          | none =>
            match nextPacket s p fun y => !res || (y.part = bits e 7 0 && lentFits s p (n % 8192) y.n) with
            | none => idleSlot p
            | some (k, y) => Eff.all [
                modNet fun m => { m with outbuf := mset [] m.outbuf k ((mget [] m.outbuf k).erase y) },
                Eff.when (k % 4 != 3) (modPort p fun z => { z with credits := mset 0 z.credits (k % 16) (mget 0 z.credits (k % 16) - y.n) }),
                startPacket p y (useOf y.cls),
                recount p]

/-- A control flit as it leaves: a PROBE and an ECHO carry the count of their slot. -/
def stampCtrl (d n : Nat) : Nat :=
  if bits d 7 0 = 4 then putBits d 71 8 n else if bits d 7 0 = 5 then putBits d 135 72 n else d

/-- One slot of a port, the next one if it has sent this one. A port that is not UP sends control and idle flits; one
in reset sends nothing. -/
def flitSlotRow (p : Nat) : Eff :=
  .get fun s => Eff.when (alive s (6 + p % 2)) (
    let n0 := slotNow s
    .seq (Eff.when ((portOf s p).sentAt > n0) (advanceDt (slotStart (portOf s p).sentAt))) (.get fun s =>
      let n := slotNow s
      let x := portOf s p
      match x.ctrl.find? fun c => c / 2 ^ 2048 ≤ n with
      | some c => Eff.all [
          modPort p fun y => { y with ctrl := y.ctrl.erase c },
          Eff.when (bits c 7 0 = 4) (modSync fun y => { y with probeSlot := some n }),
          sendSlot p x.nextSeq 3 (stampCtrl (c % 2 ^ 2048) n) 3]
      | none => if portUp s p then grant p n else idleSlot p))
def execFlitSlot (p : Fin 6) (s : State) : Host.Outcome State Fault Refusal := done (flitSlotRow p) s

/-! ## Q and P packets (R344-R346) -/

/-- The die that holds an address of memory. -/
def memDie (s : State) (a : Nat) : Nat := if a < homeSize s 0 then 4 else 5
/-- The way of a Q packet to the memory it names, and of a P packet to where its data goes. -/
def qpRoute (s : State) (x : Packet) : List Nat :=
  if x.cls = 0 then ejectRoute x (memDie s (256 * x.line))
  else match s.net.tags.find? fun e => e.1 = x.tag with
    | some (_, r) => ejectRoute x (memDie s r.dest)
    | none => []
/-- Memory a Q or P packet reaches. -/
def qpSpan (s : State) (p : Packet) : Nat × Nat :=
  if p.cls = 0 then (256 * p.line, 256 * p.nlines)
  else match s.net.tags.find? fun e => e.1 = p.tag with
    | some (_, r) => (r.dest, 256 * p.nlines)
    | none => (0, 0)
/-- Take the first Q or P packet delivered whose way is open and whose lines are not on a channel under test (08 R326); it
crosses as MEM. -/
def takeQp (cls : Nat) (k : Packet → Eff) : Eff :=
  .get fun s => takeEjected (fun p => p.cls = cls && openRoute s (qpRoute s p) &&
      !underTest s (qpSpan s p).1 (qpSpan s p).2) fun x =>
    .seq (crossRoute clMem (256 * x.n) (qpRoute s x)) (k x)

/-- Send a reply: the header's tag, a status, data or zeros. -/
def replyQ (x : Packet) (op status : Nat) (data : List Byte) : Eff :=
  .get fun s => .seq (crossRoute clMem (16 + data.length) (qpRoute s x).reverse)
    (sendPacket x.src 1 (nodePart s) false (bodyP op x.nlines x.tag status) data)

/-- A Q packet at its target: read or write whole lines, with a STATUS. -/
def qRow : Eff :=
  takeQp 0 fun x => .get fun s =>
    let a := 256 * x.line
    let n := 256 * x.nlines
    let op := if x.op = 1 then 1 else 0
    let fail (st : Nat) : Eff := replyQ x op st (if op = 1 then [] else List.replicate n 0#8)
    if s.rst.phase = .entry || endpointsDown s then fail 4
    else if 2 ≤ x.op || x.nlines = 0 then fail 5
    else if !inMemory s a (a + n) then fail 2
    else if x.op = 1 then .seq (writeBytes a (x.payload.take n)) (replyQ x 1 0 [])
    else .seq (demand [(a, n)]) (match firstMarked s [(a, n)] with
      | some l => .seq (ueLine l (.command 6 0 0)) (fail 3)
      | none => replyQ x 0 0 (rdBytes s.mem a n))
def execQRequest (s : State) : Host.Outcome State Fault Refusal := done qRow s

/-- A request of a command for lines of another module's memory (R346): it takes the lowest free tag, with which the room for its
reply is reserved, and the Q packet leaves; while every tag is out it does not. No command of the opcode table makes one
(assumption 24). -/
def issueQ (r : QReq) (node : Nat) (write : Option (List Byte)) : Eff :=
  .get fun s => Eff.opt ((List.range 4096).find? fun t => !s.net.tags.any (·.1 = t)) fun t => .seq
    (modNet fun n => { n with tags := n.tags ++ [(t, { r with at_ := s.cc })] })
    (sendPacket node 0 (nodePart s) false (bodyP (b2n write.isSome) r.nlines t 0 + r.line) (write.getD []))

/-- The command of a Q request is skipped under HARD_FAULT, no unit fenced. -/
def failQ (t : Nat) (r : QReq) : Eff :=
  .seq (modNet fun n => { n with tags := n.tags.filter fun e => e.1 != t })
    (.get fun s => Eff.opt (findFlight s r.die r.q r.pos) fun f => skipFlight f skHardFault)

/-- A reply at its requester: data delivered, the tag freed; or the command skipped; a reply without a tag is late. -/
def pRow : Eff :=
  takeQp 1 fun x => .get fun s =>
    match s.net.tags.find? fun e => e.1 = x.tag with
    | none => dropHeader 12 x.inp (bits x.head 127 0)
    | some (t, r) =>
      if 2 ≤ x.status then failQ t r
      else Eff.all [
        modNet fun n => { n with tags := n.tags.filter fun e => e.1 != t },
        Eff.when (x.op = 0) (writeBytes r.dest (x.payload.take (256 * x.nlines))),
        Eff.when (x.status = 1) (Eff.opt (findFlight s r.die r.q r.pos) fun f =>
          putFlight { f with poisonIn := some (f.poisonIn.getD 0) })]
def execPReply (s : State) : Host.Outcome State Fault Refusal := done pRow s

/-- No reply in NET_Q_TIMEOUT. -/
def qTimeoutRow (tag : Nat) : Eff :=
  .get fun s =>
    match s.net.tags.find? fun e => e.1 = tag with
    | none => .skip
    | some (t, r) => .seq (advanceTo (r.at_ + 1750 * rfld s .NET_Q_TIMEOUT 6 0 31 0)) (.get fun s => Eff.all [
        failQ t r, setFault .NET_FAULT 6 4, emit 0x0608 6 [.num 8 (frameNow s)]])
def execNetQTimeout (tag : Fin 4096) (s : State) : Host.Outcome State Fault Refusal := done (qTimeoutRow tag) s

/-- A NOTICE: a lost Q packet of this module fails its command, a lost C packet abandons its collective (R374, 10 R410). -/
def noticeRow : Eff :=
  takeEjected (fun p => p.cls = 3 && p.mtype = 2) fun x => .get fun s =>
    let h : Packet := { flits := [leNat (x.payload.take 16)], inp := x.inp }
    if h.cls = 0 then Eff.opt (s.net.tags.find? fun e => e.1 = h.tag) fun (t, r) => failQ t r
    else if h.cls = 2 then Eff.opt (opOfStream s h.stream) fun o => abandon o 1
    else .skip
def execNoticePkt (s : State) : Host.Outcome State Fault Refusal := done noticeRow s

/-- A TRACE packet, or one of a reserved MTYPE, at its endpoint: accepted, or dropped as TRACE_FULL. -/
def traceRow (full : Bool) : Eff :=
  takeEjected (fun p => p.cls = 3 && p.mtype != 1 && p.mtype != 2) fun x =>
    Eff.when (full || x.mtype != 3) (dropHeader 13 x.inp (bits x.head 127 0))
def execTracePkt (full : Bool) (s : State) : Host.Outcome State Fault Refusal := done (traceRow full) s

/-! ## Congestion maps (R379) -/

/-- Bin of a number of waiting flits. -/
def congBin (n : Nat) : Nat :=
  if n = 0 then 0 else if n < 16 then 1 else if n < 64 then 2 else if n < 256 then 3 else if n < 512 then 4
  else if n < 1024 then 5 else if n < 2048 then 6 else 7
/-- Flits waiting for a port in a class, those of the packet being sent included. -/
def waitingFlits (s : State) (p cls : Nat) : Nat :=
  ((s.net.outbuf.filter fun (k, _) => k / 4 = p * 4 + cls).flatMap fun (_, xs) => xs.map fun x => x.flits.length).foldl (· + ·) 0 +
    if (portOf s p).now.any fun x => x.cls = cls then (portOf s p).tail.length else 0

/-- Every 250 SYNC_REF periods each port and class adds one sample to its histogram. -/
def sampleRow : Eff :=
  .get fun s => .seq (advanceDt ((s.sync.dt / 17500 + 1) * 17500)) (Eff.each (List.range 6) fun p =>
    Eff.each [(0, 0), (1, 1), (2, 3)] fun (c, cls) => .get fun s =>
      incR .NET_CONG_HIST 6 ((p * 3 + c) * 8 + congBin (waitingFlits s p cls)) 1)
def execCongestionSample (s : State) : Host.Outcome State Fault Refusal := done sampleRow s

end Sys2Proof.Machine
end

