-- ==== Sys2Proof/Machine/Reset.lean ====
section
/-!
DEFINITION. Resets: scopes (12 R473, R474), what a reset returns to its reset values and what survives (R15, R301, R463,
R515), refusals (R475), failed starts (R481), and the release of domains row by row (R478).
-/
namespace Sys2Proof.Machine

/-! ## Scopes -/

/-- Domains a reset of a scope acts on (R474). -/
def scopeDomains (scope : Nat) : List Nat :=
  match scope with
  | 0 => List.range 30
  | 1 => rangeFrom 1 30
  | 2 => rangeFrom 4 30
  | 3 => rangeFrom 4 14 ++ rangeFrom 18 30
  | 4 => rangeFrom 10 14 ++ rangeFrom 18 30
  | 5 => [2]
  | _ => [3]

/-- Domain of a row of R478, and its minimum gap in control-clock cycles. -/
def rowDomain (r : Nat) : Nat :=
  [0, 1, 2, 3, 4, 5, 14, 15, 16, 17, 12, 13, 10, 11, 18, 19, 20, 21, 26, 27, 28, 29, 22, 23, 24, 25, 6, 7, 8, 9].getD r 0
def minGap (d : Nat) : Nat :=
  if d = 4 then 1024 else if 14 ≤ d && d < 18 then 4096 else if d = 12 || d = 13 then 1024 else if 22 ≤ d && d < 26 then 1024
  else if 26 ≤ d then 512 else 256
/-- Gap of a domain in force (RST_GAP): the image's where it states one. -/
def gapOf (s : State) (d : Nat) : Nat := if 4 ≤ d then max (minGap d) (s.img.content.gaps.getD (d - 4) 0) else minGap d
/-- Rows of a scope, in order. -/
def scopeRows (scope : Nat) : List Nat := (rangeFrom 1 30).filter fun r => (scopeDomains scope).contains (rowDomain r)

/-! ## What a reset does to registers (R15) -/

/-- Domain that holds a register: the block's, by its place in the control space. -/
def regDomain (r : RegName) (die : Nat) : Nat :=
  let o := r.info.off
  match r.info.space with
  | .cdie => if o < 0x200000 then 18 + die else if o < 0x300000 then 22 + die else 26 + die
  | .mdie => 10 + (die - 4)
  | .ldie => if 0xF00000 ≤ o then 8 + (die - 6) else 4 + (die - 6)
  | .l0 => if 0xE00000 ≤ o then 3 else 4
  | .mgmt => if 0x300000 ≤ o && o < 0x400000 then 0 else 2

/-- Registers the image sets: they read the same until the image is replaced (R463). -/
def imageRegs : List RegName :=
  [.ROW_STAT_CFG, .MEM_LOAM_CFG, .MEM_PARTITION, .MEM_MAP, .MEM_HOME, .MEM_HOME_SIZE, .CMD_DMA_RATE, .UPD_RATE,
    .UPD_LS_CFG, .UPD_LS_INTERVAL]

/-- The value of a register after a reset of a scope: kept outside the scope; fields marked AON kept unless it is an AON
power-on reset; the image in force kept by a management reset. -/
def regAfter (gradeS : Bool) (scope : Nat) (r : RegName) (die v : Nat) : Nat :=
  let fresh := if r = .PWR_CAP then r.resetIn gradeS else r.info.fields.foldl (fun w f => putBits w f.hi f.lo (if f.aon && scope != 0 then bits v f.hi f.lo else f.reset)) 0
  if (imageRegs.contains r && r != .ROW_STAT_CFG) || (r = .ROW_STAT_CFG && !(scopeDomains scope).contains (regDomain r die)) || r = .RST_STATUS || r = .RST_DOMAINS then v
  else if scope = 5 && [RegName.IMG_STATUS, .IMG_SVN, .IMG_DIGEST, .SEC_STATUS, .THM_GATED_CC].contains r then v
  else if r = .ROW_STAT_CFG then v % 2 ^ 11
  else if r = .THM_GATED_CC then (if scope ≤ 4 then 0 else v)
  else if r = .MEM_CH_STATUS && (scopeDomains scope).contains (regDomain r die) then v / 2 ^ 29 * 2 ^ 29
  else if (scopeDomains scope).contains (regDomain r die) then fresh else v

/-- Every register after a reset. -/
def regsAfter (gradeS : Bool) (scope : Nat) (regs : List (Nat × Nat)) : List (Nat × Nat) :=
  regs.filterMap fun (k, v) =>
    let r := RegName.ofNat (k / 2 ^ 26)
    let v' := regAfter gradeS scope r (k / 2 ^ 22 % 16) v
    if v' = r.resetIn gradeS then none else some (k, v')

/-! ## What a reset does to the rest -/

/-- Bytes of memory proper; the stores and windows above it are lost by every reset of their dies. -/
def keepMemory (s : State) (mem : List (Nat × Byte)) : List (Nat × Byte) := mem.filter fun e => e.1 < memTop s

/-- The state a reset of a scope leaves, before its release begins. `lost`: memory is not kept in self refresh. -/
def wipe (scope : Nat) (lost : Bool) (s : State) : State :=
  let dies := scope ≤ 4
  let links := scope ≤ 3
  let host := scope ≤ 1 || scope = 6
  let mgmt := scope ≤ 1 || scope = 5
  { s with
    regs := regsAfter s.fuses.gradeS scope s.regs
    flags := if dies then [] else s.flags
    flagOld := if dies then [] else s.flagOld
    tensors := if dies then [] else s.tensors
    mem := if !dies then s.mem else if lost then [] else keepMemory s s.mem
    fab := if links then {} else if dies then { links := mkeep (fun k => k / 2 = 18) s.fab.links } else s.fab
    cp := if dies then {} else s.cp
    upd := if dies then { staging := if host then 0 else s.upd.staging } else if host then { s.upd with staging := 0 } else s.upd
    ms := if dies then { poison := if lost then [] else s.ms.poison, odd := if lost then [] else s.ms.odd, drift := s.ms.drift, ceLimit := s.ms.ceLimit } else s.ms
    net := if links then {} else s.net
    col := if dies then {} else s.col
    sync := if links then {} else s.sync
    dig := if links then {} else if dies then { s.dig with slots := [] } else s.dig
    img := if mgmt then { s.img with stage := [], verified := false, busy := 0 } else s.img
    host := if host then { eid := if mgmt then 0 else s.host.eid } else if mgmt then { s.host with eid := 0 } else s.host
    eth := if links then {} else s.eth
    recd := if scope = 0 then {} else s.recd
    pow := { s.pow with
      failed := if scope ≤ 2 then 0 else s.pow.failed
      pLevel := if mgmt then 0 else s.pow.pLevel, capRun := if mgmt then 0 else s.pow.capRun
      capOver := s.pow.capOver && !mgmt, holdEnd := if mgmt then 0 else s.pow.holdEnd
      coolRun := if mgmt then 0 else s.pow.coolRun, warned := s.pow.warned && !mgmt
      hot := if mgmt then 0 else s.pow.hot, gate := if mgmt then 0 else s.pow.gate
      gateAt := if links then 0 else s.pow.gateAt } }

/-- Bits of the domains of a scope. -/
def domainMask (scope : Nat) : Nat := ((scopeDomains scope).map fun d => 2 ^ d).foldl (· + ·) 0

/-- DOWN leaves every port of an L-die that is running (R376, R477). -/
def sendDowns : Eff :=
  .get fun s => Eff.each ((List.range 6).filter fun p => alive s (6 + p % 2)) fun p =>
    sendSlot p (portOf s p).nextSeq 3 (leNat downBytes) 3

/-- A reset of scope 0-5 asserts: DOWN on the ports it drops while power remains, its domains in reset, causes counted,
its record written, the release to follow. -/
def assertReset (scope cause : Nat) (lost entered : Bool) (s : State) : State :=
  let s1 := (Eff.when (1 ≤ scope && scope ≤ 3 && s.pow.vin = .inRange) sendDowns).run s
  let aborted := s.img.busy = 2 && (scopeDomains scope).contains 2
  let s2 := wipe scope lost s1
  (Eff.all [
    modR .RST_DOMAINS 8 0 fun w => (w &&& (2 ^ 30 - 1 - domainMask scope)) ||| 1,
    modR .RST_STATUS 8 0 fun w =>
      let w := putBits (putBits w 27 24 scope) 23 16 cause
      if scope ≤ 4 then putBits (putBits w 31 31 0) 29 29 0 else w,
    Eff.when (scope != 0) (incR .RST_CAUSE_COUNT 8 cause 1),
    Eff.when (scope = 0) (modPow fun p => { p with aonAt := s.cc }),
    Eff.when aborted (.seq
      (modImg fun i =>
        let slot := if rbit s .IMG_STATUS 8 0 31 then 1 - rfld s .IMG_STATUS 8 0 30 30 else 1 - i.active
        { i with invalid := if i.invalid.contains slot then i.invalid else slot :: i.invalid })
      (setR .IMG_CMD_STATUS 8 0 (2 ^ 30 + 0x13 * 2 ^ 16))),
    Eff.when (scope ≤ 1) (modPow fun p => { p with rootLock := false }),
    Eff.when (!entered) (emit 0x0100 8 [.num 1 cause, .num 1 scope]),
    modRst fun r => { r with
      phase := .releasing, scope := scope, rows := scopeRows scope, first := true, rowAt := s.cc, hostAt := 0,
      firstCc := if scope ≤ 4 then 0 else r.firstCc,
      imageOk := if scope ≤ 2 then false else r.imageOk,
      keyDone := if scope ≤ 3 then false else r.keyDone,
      d2dDone := if scope ≤ 3 then [] else if scope = 4 then r.d2dDone.filter (· = 18) else r.d2dDone,
      lost := if scope ≤ 4 then lost else r.lost,
      failedMs := if scope ≤ 4 then 0 else r.failedMs }]).run s2

/-! ## Starts (R481) -/

def starting (s : State) : Bool := rbit s .RST_STATUS 8 0 29
def stepReady (s : State) : Bool := rbit s .RST_STATUS 8 0 31
def inRecovery (s : State) : Bool := rbit s .RST_STATUS 8 0 30
def failCount (s : State) : Nat := rfld s .RST_AON 8 0 2 0

/-- A start fails under a code. -/
def failNow (code : Nat) : Eff :=
  .get fun s => Eff.all [
    incFld .RST_AON 8 0 2 0 1,
    putR .RST_AON 8 0 23 16 code,
    putR .RST_STATUS 8 0 29 29 0,
    modRst fun r => { r with phase := .idle, rows := [], failedMs := nowMs s + 1 },
    emit 0x0106 8 [.num 1 code, .num 4 (min 7 (failCount s + 1))]]
/-- The start in progress, if there is one, fails. -/
def failStart (code : Nat) : Eff := .get fun s => Eff.when (starting s) (failNow code)

/-! ## Requests (R475) -/

/-- A reset command is refused. -/
def refuseReset : Eff := Eff.all [putR .RST_STATUS 8 0 28 28 1, raiseVec 11, emit 0x010E 8 []]

/-- Begin the entry sequence of a link or core reset (R479): issue stops, commands are abandoned without a signal. -/
def beginEntry (scope cause : Nat) : Eff :=
  Eff.all [
    emit 0x0100 8 [.num 1 cause, .num 1 scope],
    modCp fun c => { c with flights := [], queues := [], slots := [] },
    modCol fun c => { c with ops := [], early := [] },
    modRst fun r => { r with phase := .entry, scope := scope }]

/-- A reset of scope 1-5 from a source. A command is refused while a reset of an equal or lower code acts, and in
recovery mode but for scope 1; from another source the lower code takes over and absorbs the rest; a structural
fault during a start ends it. -/
def requestReset (scope cause : Nat) (command : Bool) (s : State) : State :=
  let busy := s.rst.phase != .idle
  let interrupted := (Eff.when (scope ≤ 4) (failStart 7)).run s
  if command && ((inRecovery s && scope != 1) || (busy && s.rst.scope ≤ scope)) then refuseReset.run s
  else if cause = 5 && starting s then (failStart 3).run s
  else if busy && s.rst.scope < scope && scope != 1 then s
  else if (scope = 3 || scope = 4) && s.rst.phase != .entry && !(starting s) then (beginEntry scope cause).run s
  else assertReset scope cause (decide (scope ≤ 2) || s.rst.phase = .entry || s.rst.lost && !(stepReady s)) false interrupted

/-- A structural fault of a link (R25, R28, R41): a structural reset with its record, or the end of a start. -/
def structuralFault (link : Nat) (s : State) : State :=
  if starting s then requestReset 2 5 false s else requestReset 2 5 false ((emit 0x010B 8 [.num 1 link]).run s)

/-- A host reset acts on domain 3 alone (R474, R490, R497). -/
def hostReset (cause : Nat) (s : State) : State :=
  if !alive s 3 then s
  else (Eff.all [
    modR .RST_DOMAINS 8 0 fun w => w &&& (2 ^ 30 - 1 - 2 ^ 3),
    modR .RST_STATUS 8 0 fun w => putBits (putBits w 27 24 6) 23 16 cause,
    incR .RST_CAUSE_COUNT 8 cause 1,
    emit 0x0100 8 [.num 1 cause, .num 1 6],
    modRst fun r => { r with hostAt := s.cc + 4 * 1024 + 1 }]).run (wipe 6 false s)

/-! ## Release (R478, R485) -/

/-- A domain leaves reset: domain time starts with domain 4, an M-die's patrol scrub begins its pass with the die's logic, and the ports of a torus domain begin to train. -/
def releaseDomain (d : Nat) : Eff :=
  .get fun s => Eff.all [
    modR .RST_DOMAINS 8 0 fun w => w ||| 2 ^ d,
    Eff.when (d = 1) (modRst fun r => { r with straps := s.pow.straps }),
    Eff.when (d = 4) (modSync fun y => { y with dt := 0 }),
    Eff.when (d = 10 || d = 11) (modMs fun x => { x with scrub := mset {} x.scrub (d - 10) { start := nowMs s } }),
    Eff.when (d = 6 || d = 7) (Eff.each ([0, 2, 4].map (· + (d - 6))) fun p =>
      .seq (putR .NET_PORT_STATUS 6 p 31 29 1) (sendCtrl p (helloBytes s p)))]

/-- What a row waits for besides its gap. -/
def rowWaits (s : State) (r : Nat) : Bool :=
  (r = 1 && (s.rst.resetN || s.pow.vin != .inRange || s.pow.tripped)) || (r = 2 && s.rst.scope ≤ 1 && !s.pow.rootLock) ||
    (r = 4 && s.rst.scope ≤ 2 && !s.rst.imageOk)
/-- cc of a row's gap: 64 AON ticks for row 1, and at least 1,024 control-clock cycles for the first row of a reset that
counts from assertion. -/
def rowGap (s : State) (r : Nat) : Nat :=
  if r = 1 then 3417969
  else 4 * (if s.rst.first && s.rst.scope ≥ 2 then max 1024 (gapOf s (rowDomain r)) else gapOf s (rowDomain r))

/-- Whether the start to come enters recovery mode (R485). -/
def recoveryDue (s : State) : Bool := decide (4 ≤ failCount s) || rbit s .RST_AON 8 0 31

/-- The first release of a start begins it: recovery mode when FAIL_COUNT is 4 or more or FORCE_RECOVERY is set, with
rows 1-3 alone. -/
def beginStart : Eff :=
  .get fun s =>
    if 5 ≤ s.rst.scope || s.rst.firstCc != 0 then .skip
    else if recoveryDue s then Eff.all [
      putR .RST_AON 8 0 31 31 0, putR .RST_STATUS 8 0 30 30 1, emit 0x0107 8 [],
      modRst fun r => { r with firstCc := s.cc + 1, rows := r.rows.filter (· ≤ 3) }]
    else Eff.all [
      putR .RST_STATUS 8 0 30 30 0, putR .RST_STATUS 8 0 29 29 1,
      modRst fun r => { r with firstCc := s.cc + 1 }]

/-- After the last row of a start its record is written; the sequencer rests. -/
def endRelease : Eff :=
  .get fun s => Eff.when (s.rst.phase = .releasing && s.rst.rows.isEmpty) (.seq
    (modRst fun r => { r with phase := .idle })
    (Eff.when (s.rst.scope ≤ 4 && !inRecovery s) (emit 0x0101 8 [.num 8 (s.cc + 1 - s.rst.firstCc)])))

/-- The next row releases its domain after its gap; a row 3 held by PERST# is passed over and follows by itself. -/
def releaseRow : Eff :=
  .get fun s =>
    match s.rst.rows with
    | r :: rest =>
      Eff.when (s.rst.phase = .releasing && (!rowWaits s r || (4 ≤ r && s.rst.firstCc = 0 && recoveryDue s))) (.seq (advanceTo (s.rst.rowAt + rowGap s r)) (.seq beginStart (.get fun s =>
        if !s.rst.rows.contains r then endRelease
        else if r = 3 && s.rst.perst then .seq (modRst fun x => { x with rows := rest.filter x.rows.contains, first := false, hostAt := s.cc + 1 }) endRelease
        else Eff.all [
          releaseDomain (rowDomain r),
          modRst fun x => { x with rows := rest.filter x.rows.contains, first := false, rowAt := s.cc },
          endRelease])))
    | [] => Eff.when (s.rst.hostAt != 0 && !s.rst.perst && !alive s 3) (.seq (advanceTo (s.rst.hostAt - 1))
        (.seq (releaseDomain 3) (modRst fun x => { x with hostAt := 0 })))

end Sys2Proof.Machine
end

