-- ==== Sys2Proof/Machine/ExecMemory.lean ====
section
/-!
DEFINITION. The memory system's commands (08 R314-R329): refresh, temperature polls, patrol scrub, errors, prefetch,
traffic tests; mandatory background items (06 R239-R241); die-to-die links (01 R25, R42).
-/
namespace Sys2Proof.Machine

/-- Resource number of the package of a channel. -/
def pkgRes (m c : Nat) : Nat := m * 8 + c / 8
/-- A resource falls due for recalibration. -/
def recalDue (res : Nat) : Eff := modMs fun x => { x with recal := if x.recal.contains res then x.recal else x.recal ++ [res] }

/-! ## Refresh (R316-R318) -/

def debtOf (s : State) (m c : Nat) : Nat := mget 0 s.ms.debt (chKey m c)
def setDebt (m c n : Nat) : Eff := modMs fun x => { x with debt := mset 0 x.debt (chKey m c) n }

/-- Commands whose units an item on a resource affects. -/
def resFlights (s : State) (res : Nat) (f : Flight) : Bool := resAffects s f.die f.desc res

/-- The debt that per-bank refresh in the reserve leaves of d intervals; how much the foreground leaves of the reserve is open.
At ×1 and ×2 the reserve covers all refresh, and the debt does not grow. -/
def debtLeft (mult d free : Nat) : Nat := if mult < 2 then d - 1 - free % d else d - free % (d + 1)
/-- One t_REFI of a channel: refresh in the reserve, then in an open window; at 8 the channel refreshes at once. -/
def refreshRow (m c : Nat) : Eff :=
  .get fun s => Eff.when (chActive s m c) (
    let d := debtOf s m c + 1
    let res := pkgRes m c
    .seq (modR .MEM_PKG_STATUS (4 + m) (c / 8) fun w => putBits w 15 8 (max (bits w 15 8) d))
      (if shadeOpen s res then setDebt m c 0
       else drawFree 32 fun x =>
         let left := debtLeft (mget 0 s.ms.mult (m * 8 + c / 8)) d x
         if left < 8 then setDebt m c left
         else Eff.all [
           setDebt m c 0,
           incR .MEM_FORCED_REFRESH_COUNT (4 + m) 0 1,
           setFault .MEM_FAULT (4 + m) 4,
           emit 0x0505 (4 + m) [],
           markFlights 4 (resFlights s res)]))
def execRefreshInterval (m : Fin 2) (c : Fin 64) (s : State) : Host.Outcome State Fault Refusal := done (refreshRow m c) s

/-- Multiplier code of a temperature. -/
def multOf (t : Int) : Nat := if t > 95 then 2 else if t > 85 then 1 else 0

/-- A poll of the packages' temperatures; above 105 °C a package reports hot (14 R530 acts on it), until it no longer is. -/
def pollRow (m : Nat) (temps : List (BitVec 8)) : Eff :=
  Eff.each (temps.zipIdx.filter fun e => e.2 < 8) fun (t, p) => .get fun s =>
    let mu := multOf t.toInt
    let hot := decide (t.toInt > 105)
    Eff.all [
      modR .MEM_PKG_STATUS (4 + m) p fun w => putBits (putBits (putBits w 23 16 t.toNat) 29 29 (b2n hot)) 31 30 mu,
      modPow fun x => { x with hot := if hot then x.hot else x.hot &&& (2 ^ 16 - 1 - 2 ^ (m * 8 + p)) },
      Eff.when (mu != mget 0 s.ms.mult (m * 8 + p)) (.seq
        (modMs fun x => { x with mult := mset 0 x.mult (m * 8 + p) mu }) (emit 0x0506 (4 + m) []))]
def execRefreshRatePoll (m : Fin 2) (temps : List (BitVec 8)) (s : State) : Host.Outcome State Fault Refusal :=
  done (pollRow m temps) s

/-! ## Patrol scrub (R321, R322) -/

/-- Data lines of a pass over an M-die. -/
def passLines (s : State) (m : Nat) : Nat := chanLines * (activeChans s m).length
/-- Active channels of a package. -/
def pkgChans (s : State) (m p : Nat) : List Nat := (activeChans s m).filter fun c => c / 8 = p

/-- The next line of a package is scrubbed, in an open window and not on a channel under test: read, with the errors that strike
its reads, and rewritten corrected or marked; the last one ends the pass. -/
def scrubRow (m p : Nat) (e1 e2 : LineError) : Eff :=
  .get fun s =>
    let cs := pkgChans s m p
    let pos := mget 0 s.ms.scrubPos (m * 8 + p)
    let a := (lineAddr s m (cs.getD (pos / chanLines) 0) (pos % chanLines)).getD 0
    Eff.when (shadeOpen s (m * 8 + p) && decide (pos < cs.length * chanLines) && !underTest s a 256) (
      let sc := mget {} s.ms.scrub m
      Eff.all [
        (match readTwice s (a / 256) e1 e2 with
         | some (e, f) => Eff.when (metError s (a / 256) e1 f) (rewriteLine (a / 256) e f)
         | none => .seq (ueLine a .scrub) (emit 0x0502 (4 + m) [])),
        if sc.done + 1 < passLines s m then
          modMs fun x => { x with scrub := mset {} x.scrub m { sc with done := sc.done + 1 },
                                  scrubPos := mset 0 x.scrubPos (m * 8 + p) (pos + 1) }
        else Eff.all [
          emit 0x0503 (4 + m) [.num 8 (nowMs s - sc.start)],
          putR .MEM_SCRUB_STATUS (4 + m) 0 63 32 ((nowMs s - sc.start) / 1000),
          modMs fun x => { x with scrub := mset {} x.scrub m { start := nowMs s },
                                  scrubPos := mkeep (fun k => k / 8 != m) x.scrubPos }]])
def execPatrolScrubLine (m : Fin 2) (pkg : Fin 8) (e1 e2 : List (Nat × Nat)) (s : State) : Host.Outcome State Fault Refusal :=
  done (scrubRow m pkg e1 e2) s

/-- A pass has taken 24 h and goes on. -/
def scrubLateRow (m : Nat) : Eff :=
  .get fun s =>
    let sc := mget {} s.ms.scrub m
    Eff.when (alive s (10 + m) && !sc.late) (Eff.all [
      advanceTo (s.pow.aonAt + (sc.start + 86400000) * 1750000),
      modMs fun x => { x with scrub := mset {} x.scrub m { sc with late := true } },
      setFault .MEM_FAULT (4 + m) 3,
      emit 0x0504 (4 + m) []])
def execMemScrubLate (m : Fin 2) (s : State) : Host.Outcome State Fault Refusal := done (scrubLateRow m) s

/-! ## Errors (R313, R320, R323-R325) -/

/-- cc of 1 s. -/
def secondCc : Nat := 1750000000

/-- A corrected error at an address: counted, recorded once per channel and second, and among those of the channel in the 1 s
up to now. More of these than the drift threshold, on more than one line, call for a recalibration (R320); more than the
image's threshold in the 1 s after a recalibration make the channel suspect. -/
def ceLine (a : Nat) : Eff :=
  .get fun s =>
    match homeOf s a with
    | none => .skip
    | some m =>
      let (c, line) := placeOf s m a
      let k := chKey m c
      let sec := nowMs s / 1000 + 1
      let near := ((mget [] s.ms.ces k).filter fun e => s.cc < e.1 + secondCc) ++ [(s.cc, line)]
      let past := decide (s.ms.drift < near.length) && near.any fun e => e.2 != line
      let r := mget 0 s.ms.recaled k
      let worn := r != 0 && decide (s.cc + 1 < r + secondCc) && decide (s.ms.ceLimit < (near.filter fun e => r ≤ e.1 + 1).length)
      Eff.all [
        setFault .MEM_FAULT (4 + m) 0,
        incR .MEM_CE_COUNT (4 + m) 0 1,
        Eff.when (mget 0 s.ms.ceSec k != sec) (emit 0x0500 (4 + m) []),
        modMs fun x => { x with ceSec := mset 0 x.ceSec k sec, ces := mset [] x.ces k near,
                                drifted := if past && !x.drifted.contains k then k :: x.drifted else x.drifted },
        Eff.when worn (makeSuspect m c)]
/-- A demand read at an address corrects an error, and the line is rewritten. -/
def corrected (a : Nat) (e f : LineError) : Eff := .seq (rewriteLine (a / 256) e f) (ceLine a)

/-- What a client receives of an uncorrectable line. -/
def ueClient (a : Nat) (cl : Client) : Eff :=
  match cl with
  | .command d q pos => .get fun s =>
    match findFlight s d q pos with
    | some f => ueCommand f a
    | none => ueLine a cl
  | .scrub => .get fun s => .seq (ueLine a cl) (emit 0x0502 (4 + (homeOf s a).getD 0) [])
  | _ => ueLine a cl

/-- A read that finds an uncorrectable error or a marker reads again, each read with the error that strikes it: right one time,
it met a corrected error or none; else the line is uncorrectable. -/
def ueRow (a : Nat) (cl : Client) (e1 e2 : LineError) : Eff :=
  .get fun s => Eff.when (homeOf s a).isSome (
    match readTwice s (a / 256) e1 e2 with
    | some (e, f) => Eff.when (metError s (a / 256) e1 f) (corrected a e f)
    | none => ueClient a cl)
def execMemUe (addr : BitVec 48) (client : Client) (errs : List (Nat × Nat) × List (Nat × Nat)) (s : State) :
    Host.Outcome State Fault Refusal :=
  done (ueRow addr.toNat client errs.1 errs.2) s
/-- A demand read corrects the error that strikes it, if it can. -/
def ceRow (a : Nat) (e : LineError) : Eff :=
  .get fun s => Eff.when (homeOf s a).isSome (
    match readFound s (a / 256) e with
    | some f => Eff.when (!f.isEmpty) (corrected a e f)
    | none => .skip)
def execMemCe (read : BitVec 48 × List (Nat × Nat)) (s : State) : Host.Outcome State Fault Refusal :=
  done (ceRow read.1.toNat read.2) s

/-- A channel whose corrected errors have passed the drift threshold falls due for recalibration. -/
def memRecalRow (m c : Nat) : Eff :=
  .get fun s =>
    let k := chKey m c
    Eff.when (s.ms.drifted.contains k)
      (.seq (modMs fun x => { x with drifted := x.drifted.filter (· != k) }) (recalDue (pkgRes m c)))
def execMemRecalibration (m : Fin 2) (c : Fin 64) (s : State) : Host.Outcome State Fault Refusal := done (memRecalRow m c) s

/-- ZQ calibration falls due every 64 ms (R297). -/
def execZqCalibration (m : Fin 2) (c : Fin 64) (s : State) : Host.Outcome State Fault Refusal :=
  done (Eff.when (chActive s m c) (recalDue (pkgRes m c))) s

/-- An error in a word of a line that the loam cache holds: of one bit, it is corrected; else a clean line is read again from
memory, and a dirty one is lost: it is written back marked, and the access that found it meets an uncorrectable line. -/
def loamRow (a : Nat) (one : Bool) (cl : Client) : Eff :=
  .get fun s =>
    match homeOf s a, s.ms.loam.lines.find? (·.1 = a / 256) with
    | some m, some (_, dirty) =>
      if one || !dirty then incR .MEM_LOAM_CE_COUNT (4 + m) 0 1
      else Eff.all [
        modMs fun x => { x with loam := x.loam.drop (a / 256) },
        setFault .MEM_FAULT (4 + m) 2,
        emit 0x050A (4 + m) [],
        ueClient a cl]
    | _, _ => .skip
def execMemLoamUe (addr : BitVec 48) (one : Bool) (client : Client) (s : State) : Host.Outcome State Fault Refusal :=
  done (loamRow addr.toNat one client) s

/-! ## Stream prefetchers (R314) -/

def pfOf (s : State) (m n : Nat) : Prefetch := mget {} s.ms.prefetch (m * 64 + n)
def putPf (m n : Nat) (p : Prefetch) : Eff := modMs fun x => { x with prefetch := mset {} x.prefetch (m * 64 + n) p }

/-- Lines of a tensor's outer row homed on M-die m, ascending within its data, then within its scales. -/
def pfLines (s : State) (m : Nat) (t : TDesc) (i : Nat) : List Nat :=
  (t.rows.filter fun r => i < r.n).flatMap fun r =>
    let a := r.base + i * r.stride
    (rangeFrom (a / 256) ((a + r.len + 255) / 256)).filter fun l => homeOf s (256 * l) = some m
/-- Primed lines of a stream. -/
def primedOf (s : State) (m n : Nat) : List (Nat × Nat × Nat) := s.ms.loam.primed.filter (·.1 = m * 64 + n)
/-- Primed lines in a line's set. -/
def primedIn (s : State) (m l : Nat) : Nat := (s.ms.loam.primed.filter fun p => inSetOf s m l p.2.1).length
/-- Whether a prefetcher waits at its limit, or at the limit of the next line's set: 8 primed lines, or every way. -/
def pfWaiting (s : State) (m n : Nat) : Bool :=
  let p := pfOf s m n
  p.active && (decide (p.limit * 4096 ≤ (primedOf s m n).length) ||
    match (pfLines s m p.tensor p.row)[p.line]? with
    | some l => decide (min 8 (loamWays s m) ≤ primedIn s m l)
    | none => false)

/-- A line is fetched into the loam cache for a stream, and marked primed. -/
def pfInstall (m n l : Nat) : Eff :=
  .get fun s =>
    let x := s.ms.loam
    let y := if x.lines.any (·.1 = l) then x else x.install (inSetOf s m l) (loamWays s m) l false
    modMs fun z => { z with loam := { y with primed := (y.primed.filter fun p => p.2.1 != l) ++ [(m * 64 + n, l, s.cc)] } }
/-- The next line of a stream is fetched, once it is not on a channel under test (R326), with the errors that strike its reads;
one with an uncorrectable error is not installed. -/
def pfFillRow (m n : Nat) (e1 e2 : LineError) : Eff :=
  .get fun s =>
    let p := pfOf s m n
    let ls := pfLines s m p.tensor p.row
    Eff.when (p.active && !pfWaiting s m n && !(ls[p.line]?.any fun l => underTest s (256 * l) 256)) (.seq
      (Eff.opt ls[p.line]? fun l =>
        match readTwice s l e1 e2 with
        | some (e, f) => .seq (Eff.when (metError s l e1 f) (rewriteLine l e f)) (pfInstall m n l)
        | none => ueLine (256 * l) .prefetch)
      (putPf m n (if p.line + 1 < ls.length then { p with line := p.line + 1 }
        else if p.row + 1 < p.last then { p with line := 0, row := p.row + 1 }
        else { p with active := false, line := 0, row := p.row + 1 })))
def execPrefetchLineFill (m : Fin 2) (n : Fin 64) (errs : List (Nat × Nat) × List (Nat × Nat)) (s : State) :
    Host.Outcome State Fault Refusal :=
  done (pfFillRow m n errs.1 errs.2) s

/-- The oldest primed line of a stream loses its mark 2^20 cc after its fill. -/
def pfExpireRow (m n : Nat) : Eff :=
  .get fun s =>
    match primedOf s m n with
    | [] => .skip
    | p :: _ => .seq (advanceTo (p.2.2 + 2 ^ 20))
        (modMs fun x => { x with loam := { x.loam with primed := x.loam.primed.erase p } })
def execPrimedLineExpire (m : Fin 2) (n : Fin 64) (s : State) : Host.Outcome State Fault Refusal := done (pfExpireRow m n) s

/-! ## Traffic tests (R326, R327) -/

/-- A write to MEM_TG_CTRL: its stored fields, then GO and STOP. A running test whose channel leaves test state stops too. -/
def tgWrite (m c v : Nat) : Eff :=
  .get fun s =>
    let allowed := !chActive s m c || (!progLoaded s && bit v 29)
    Eff.all [
      setR .MEM_TG_CTRL (4 + m) c (v / 2 ^ 22 % 2 ^ 8 * 2 ^ 22),
      Eff.when (bit v 31 && testOf s m c = 0) (
        if !allowed then putR .MEM_TG_STATUS (4 + m) c 28 28 1
        else if 8 ≤ bits v 27 24 then .skip
        else Eff.all [
          setTest m c 1,
          putR .MEM_TG_STATUS (4 + m) c 31 31 1,
          putR .MEM_TG_STATUS (4 + m) c 29 29 0,
          putR .MEM_CH_STATUS (4 + m) c 27 27 1,
          setR .MEM_TG_FIRST_FAIL (4 + m) c 0]),
      Eff.when (bit v 30 || !allowed) (.get fun s => Eff.when (testOf s m c != 0) (setTest m c 2))]
def execTgGo (m : Fin 2) (c : Fin 64) (v : BitVec 32) (s : State) : Host.Outcome State Fault Refusal :=
  done (tgWrite m c v.toNat) s
def execTgStop (m : Fin 2) (c : Fin 64) (v : BitVec 32) (s : State) : Host.Outcome State Fault Refusal :=
  done (tgWrite m c v.toNat) s

/-- Bit n of the PRBS31 stream x^31 + x^28 + 1 that starts from SEED. -/
def prbsState (seed : Nat) : Nat → Nat
  | 0 => seed % 2 ^ 31
  | n + 1 => let x := prbsState seed n; x * 2 % 2 ^ 31 + b2n (x.testBit 30 != x.testBit 27)
def prbsBit (seed n : Nat) : Bool := (prbsState seed n).testBit 30
/-- The 256 bytes of a line from its 2,048 bits. -/
def bitLine (f : Nat → Bool) : List Byte :=
  (List.range 256).map fun i => BitVec.ofNat 8 ((List.range 8).foldl (fun a j => a + b2n (f (8 * i + j)) * 2 ^ j) 0)

/-- The 256 bytes of a line under a pattern. -/
def tgData (pat seed c line : Nat) : List Byte :=
  if pat = 0 then List.replicate 256 0#8
  else if pat = 1 then List.replicate 256 0xFF#8
  else if pat = 2 then List.replicate 256 (if line % 2 = 0 then 0x55#8 else 0xAA#8)
  else if pat = 3 then bitLine fun i => Config.linePin i % 24 = (line + Config.lineBurst i) % 24
  else if pat = 4 then (List.range 32).flatMap fun _ => leBytes 8 (64 * line + c)
  else if pat = 5 then bitLine fun i => prbsBit seed (2048 * line + Config.lineOrder i % 2048)
  else (List.range 32).flatMap fun w =>
    leBytes 8 (mixfold (BitVec.ofNat 64 seed ^^^ BitVec.ofNat 64 (32 * line + w))).toNat

/-! ### The stored bytes of a channel (R298-R300) -/

/-- First byte of a channel's raw line among the bytes of channels that hold no address. -/
def cellAt (m c raw : Nat) : Nat := chKey m c * 2 ^ 34 + 256 * raw
/-- Raw line of a data line. -/
def rawOf (line : Nat) : Nat := 16 * (line / 15) + line % 15
/-- The 16 bytes of the marker word of a check group whose markers are given. -/
def markerBytes (marks : Nat → Bool) : List Byte :=
  leBytes 16 (Config.markerCode ((List.range 15).foldl (fun a i => a + b2n (marks i) * 2 ^ i) 0))

/-- The 256 bytes stored at a raw line: a data line, or the check bytes of 15 data lines and their marker word. -/
def rawLine (s : State) (m c raw : Nat) : List Byte :=
  if !chActive s m c then rdBytes s.ms.cells (cellAt m c raw) 256
  else
    let at_ (line : Nat) : Nat := (lineAddr s m c line).getD 0
    let data (line : Nat) : List Byte := rdBytes s.mem (at_ line) 256
    let err (line : Nat) : LineError := mget [] s.ms.odd (at_ line / 256)
    let g := 15 * (raw / 16)
    if raw % 16 < 15 then flipped 0 (data (g + raw % 16)) (err (g + raw % 16))
    else ((List.range 15).flatMap fun i => flipped 256 (lineCheck c (g + i) (data (g + i))) (err (g + i))) ++
      markerBytes fun i => s.ms.poison.contains (at_ (g + i) / 256)

/-- How stored check bytes differ from those of the stored data. -/
def checkDiff (c line : Nat) (data check : List Byte) : LineError :=
  (List.range 16).filterMap fun i =>
    let d := ((lineCheck c line data).getD i 0#8 ^^^ check.getD i 0#8).toNat
    if d = 0 then none else some (256 + i, d)
/-- What a data line of a channel reads as, if it can be read. -/
def lineRead (s : State) (m c line : Nat) : Option (List Byte) :=
  if chActive s m c then
    let a := (lineAddr s m c line).getD 0
    if badLine s (a / 256) then none else some (rdBytes s.mem a 256)
  else
    let g := rawLine s m c (16 * (line / 15) + 15)
    let d := rawLine s m c (rawOf line)
    if (Config.markerRead (leNat (g.drop 240))).testBit (line % 15) then none
    else (decodeLine (checkDiff c line d ((g.drop (16 * (line % 15))).take 16))).map (flipped 0 d)

/-- A data line of an active channel is left with the given stored bytes: its contents are what a read would return, and
the stored bytes' difference from their codeword is kept. -/
def storeRaw (a c line : Nat) (data check : List Byte) : Eff :=
  let e := checkDiff c line data check
  let f := (decodeLine e).getD []
  .seq (putLine (a / 256) (flipped 0 data f)) (modMs fun x => { x with
    loam := x.loam.drop (a / 256), odd := mset [] x.odd (a / 256) (if (decodeLine e).isSome then f else e) })
/-- A raw line is written with the check code bypassed (R327). -/
def rawWrite (m c raw : Nat) (bs : List Byte) : Eff :=
  .get fun s =>
    if !chActive s m c then modMs fun x => { x with cells := applyWr x.cells (byteWrs (cellAt m c raw) bs) }
    else
      let g := 15 * (raw / 16)
      let check := rawLine s m c (16 * (raw / 16) + 15)
      let put (i : Nat) (data check : List Byte) : Eff :=
        Eff.opt (lineAddr s m c (g + i)) fun a => storeRaw a c (g + i) data ((check.drop (16 * i)).take 16)
      if raw % 16 < 15 then put (raw % 16) bs check
      else
        let marks := Config.markerRead (leNat (bs.drop 240))
        let ls := (List.range 15).map fun i => ((lineAddr s m c (g + i)).getD 0 / 256, marks.testBit i)
        .seq (Eff.each (List.range 15) fun i => put i (rawLine s m c (16 * (raw / 16) + i)) bs)
          (.seq (modMs fun x => { x with poison := x.poison.filter fun l => !ls.any (·.1 = l) })
            (Eff.each (ls.filter (·.2)) fun l => .act (.mark l.1)))
/-- A data line is written whole, with its check bytes and its marker cleared. -/
def testWrite (m c line : Nat) (bs : List Byte) : Eff :=
  .get fun s =>
    match lineAddr s m c line with
    | some a => .seq (writeBytes a bs) (modMs fun x => { x with loam := s.ms.loam.drop (a / 256) })
    | none =>
      let g := rawLine s m c (16 * (line / 15) + 15)
      let marks := Config.markerRead (leNat (g.drop 240))
      let g1 := ((g.take 240).take (16 * (line % 15)) ++ lineCheck c line bs ++ (g.take 240).drop (16 * (line % 15) + 16)) ++
        markerBytes fun i => i != line % 15 && marks.testBit i
      .seq (rawWrite m c (rawOf line) bs) (rawWrite m c (16 * (line / 15) + 15) g1)

/-- A test's writes over its lines. -/
def tgWrites (m c pat seed : Nat) (raw : Bool) (n : Nat) : Eff :=
  Eff.each (List.range n) fun l => (if raw then rawWrite m c l else testWrite m c l) (tgData pat seed c l)
/-- Whether a line fails a test's comparison or check. -/
def tgFails (s : State) (m c op pat seed : Nat) (raw : Bool) (l : Nat) : Bool :=
  if raw then op != 3 && rawLine s m c l != tgData pat seed c l
  else match lineRead s m c l with
    | none => true
    | some bs => op != 3 && bs != tgData pat seed c l

/-- A test ends: the lines it wrote, DONE, its failures and its record. The lines that fail are those whose contents differ or
do not decode and those where its reads met an error, which the command brings. After STOP it has covered a number of lines
the spec leaves open. -/
def tgDoneRow (m c : Nat) (fails : List Nat) : Eff :=
  .get fun s => Eff.when (testOf s m c != 0) (
    let ctl := rget s .MEM_TG_CTRL (4 + m) c
    let raw := bit ctl 28
    let all := if raw then 67108864 else chanLines
    let want := rget s .MEM_TG_LINES (4 + m) c
    let seed := rget s .MEM_TG_SEED (4 + m) c
    let whole := if want = 0 then all else min want all
    let op := bits ctl 23 22
    let pat := bits ctl 27 24
    let finish (n : Nat) : Eff :=
      .seq (Eff.when (op = 0 || op = 2) (tgWrites m c pat seed raw n)) (.get fun t =>
        let bad := if op = 0 then [] else (List.range n).filter fun l => fails.contains l || tgFails t m c op pat seed raw l
        Eff.all [
          setTest m c 0,
          putR .MEM_CH_STATUS (4 + m) c 27 27 0,
          modR .MEM_TG_STATUS (4 + m) c fun w => putBits (putBits w 31 30 1) 29 29 (b2n !bad.isEmpty),
          incR .MEM_TG_ERRORS (4 + m) c bad.length,
          Eff.opt bad.head? fun l =>
            setR .MEM_TG_FIRST_FAIL (4 + m) c (2 ^ 63 + if raw then 256 * l else 4096 * (l / 15) + 256 * (l % 15)),
          emit 0x050B (4 + m) [.num 4 n, .num 4 bad.length]])
    if testOf s m c = 2 then drawFree 32 fun x => finish (x % (whole + 1)) else finish whole)

/-! ## Mandatory items (06 R239, R241) -/

/-- Code of an item, in the order of R239's table. -/
def itemCode : BgItem → Nat
  | .refresh => 0
  | .boost => 1
  | .scrub => 2
  | .recal => 3
  | .periodic => 4
  | .telemetry => 5
  | .snapshot => 6

/-- Whether a mandatory item has reached its deadline on a resource. The drift of a torus port is measured outside the
machine, and the command brings it: an UP port may fall due at any time (DESIGN CHOICE, assumption 43). The optional items
(refresh boost, scrub, calibration, telemetry, snapshot streaming) have no deadline and never preempt. -/
def itemDue (s : State) (item : BgItem) (res : Nat) : Bool :=
  match item with
  | .refresh => decide (res < 16) && (pkgChans s (res / 8) (res % 8)).any fun c => decide (4 ≤ debtOf s (res / 8) c)
  | .recal => s.ms.recal.contains res || (64 ≤ res && res < 70 && portUp s (res - 64))
  | _ => false

/-- Links of a resource number, and whether a direction of one trains again. -/
def resLinks (res : Nat) : List Nat := if 16 ≤ res && res < 35 then [2 * (res - 16), 2 * (res - 16) + 1] else []
/-- The item takes its resource: a link's recalibration trains both its directions again (01 R40, R42). -/
def beginItem (item : BgItem) (res : Nat) : Eff :=
  Eff.each (if item = .recal then resLinks res else []) fun k => modLink k fun h => { h with retrain := true }
/-- What the item does once it runs. -/
def runItem (item : BgItem) (res : Nat) : Eff :=
  .get fun s =>
    let cs := if res < 16 then (pkgChans s (res / 8) (res % 8)).map fun c => chKey (res / 8) c else []
    match item with
    | .refresh => modMs fun x => { x with debt := mkeep (fun k => !cs.contains k) x.debt }
    | .recal => modMs fun x => { x with recal := x.recal.filter (· != res), recaled := cs.foldl (fun l k => mset 0 l k (s.cc + 1)) x.recaled }
    | _ => .skip

/-- The C-dies whose units an item on a resource preempts: for channels every one, whose movers reach them all; for a
die-to-die link those whose traffic may cross it; for the other ports every one, since each may use them. -/
def preemptedDies (res : Nat) : List Nat :=
  (List.range 4).filter fun d => res < 16 || 64 ≤ res || (List.range 8).any fun e => e != d &&
    (linkBetween d e (res - 16) || linkBetween e d (res - 16))

/-- A mandatory item at its deadline runs in an open window, or preempts: its units take no new command until it is
done. -/
def preemptRow (item : BgItem) (res : Nat) : Eff :=
  .get fun s => Eff.when (itemDue s item res && !(s.cp.holds.any fun h => h.item = item && h.res = res)) (
    if shadeOpen s res then .seq (beginItem item res) (runItem item res)
    else Eff.all [
      beginItem item res,
      modCp fun c => { c with holds := c.holds ++ [⟨item, res, s.cc⟩] },
      Eff.each (preemptedDies res) fun d => .seq (incR .CMD_PREEMPT_COUNT d 0 1) (setFault .CMD_FAULT d 4)])
def execMandatoryItemPreempt (item : BgItem) (res : Nat) (s : State) : Host.Outcome State Fault Refusal :=
  done (preemptRow item res) s

/-- The item is done, which it cannot be before the commands in flight on its units have reached their end (R241): its units
are released and its record is written. -/
def itemDoneRow (item : BgItem) (res : Nat) : Eff :=
  .get fun s =>
    match s.cp.holds.find? fun h => h.item = item && h.res = res with
    | none => .skip
    | some h => Eff.when (!s.cp.flights.any (resFlights s res) && (resLinks res).all fun k => !(linkDir s k).retrain) <| Eff.all [
        runItem item res,
        modCp fun c => { c with holds := c.holds.filter fun x => x != h },
        emit 0x0303 0 [.num 1 (itemCode item), .num 1 res, .num 8 (s.cc - h.since)]]
def execMandatoryItemDone (item : BgItem) (res : Nat) (s : State) : Host.Outcome State Fault Refusal :=
  done (itemDoneRow item res) s

/-! ## Die-to-die links (01 R24-R27, R42) -/

/-- A beat of a wide port or a frame of a narrow link arrives. A good one, corrected or not, is taken; a bad one and what
follows it are discarded and sent again, which delays the commands whose traffic crosses the link, beyond the allowance of one
replay in 2^20; one that needs a fifth replay is a structural fault. -/
def d2dBeat (l : D2D) (raw : Nat) (s : State) : State :=
  let h := linkDir s l.key
  if !h.trained || h.retrain then s
  else match received l.narrow raw with
    | some ws => (modLink l.key fun h => h.take raw ws).run s
    | none =>
      if 4 ≤ h.tries then structuralFault (linkNo l) s
      else (Eff.seq
        (modLink l.key fun h => { h with tries := h.tries + 1, replays := h.replays + 1, replayAt := s.cc + 1 })
        (Eff.when (h.excess l.narrow s.cc) (markFlights 2 fun f => linkUsed s f.die f.desc (linkNo l)))).run s
def execD2dReplay (l : D2D) (raw : Nat) (s : State) : Host.Outcome State Fault Refusal := .next (d2dBeat l raw s)

/-- A wire of the direction shows more corrected errors since its training than the image's threshold: a recalibration falls
due. -/
def d2dRecal (l : D2D) : Eff :=
  .get fun s => Eff.when ((linkDir s l.key).corr.any fun e => s.img.content.d2dDrift < e.2) (recalDue (16 + linkNo l))
def execD2dRecalibration (l : D2D) (s : State) : Host.Outcome State Fault Refusal := done (d2dRecal l) s

end Sys2Proof.Machine
end

