-- ==== Sys2Proof/Machine/Image.lean ====
section
/-!
DEFINITION. Strata images (12 R459-R468): layout, digest, the checks of R466 in their order, the contents of the sections
and the registers they set.
-/
namespace Sys2Proof.Config

/-- What the sections of an image hold, by their identifiers and bytes: the spec states the contents of the sections and
not how they are spelled (12 R461; assumption 12). -/
opaque imageContent : List (Nat × List Sys2Proof.Byte) → Sys2Proof.Machine.ImageContent

/-- Whether a kernel build is one that Culeorn has released for this generation (12 R461). -/
opaque kernelReleased : List Sys2Proof.Byte → Bool

end Sys2Proof.Config

namespace Sys2Proof.Machine

/-! ## Layout (R459, R460) -/

/-- An image's bytes: a sparse byte map, the place of byte 0, and the bytes there are. -/
structure ImgSrc where
  mem : List (Nat × Byte)
  base : Nat
  len : Nat

def ImgSrc.num (i : ImgSrc) (off n : Nat) : Nat := rdNat i.mem (i.base + off) n
def ImgSrc.bytes (i : ImgSrc) (off n : Nat) : List Byte := rdBytes i.mem (i.base + off) n
def ImgSrc.length (i : ImgSrc) : Nat := i.num 8 4
def ImgSrc.svn (i : ImgSrc) : Nat := i.num 0xC 1
def ImgSrc.count (i : ImgSrc) : Nat := i.num 0xD 1

/-- Section-table entry n: identifier, offset, length. -/
def ImgSrc.entry (i : ImgSrc) (n : Nat) : Nat × Nat × Nat :=
  (i.num (0x40 + 16 * n) 1, i.num (0x44 + 16 * n) 4, i.num (0x48 + 16 * n) 4)
def ImgSrc.entries (i : ImgSrc) : List (Nat × Nat × Nat) := (List.range i.count).map i.entry
/-- Bytes of a section. -/
def ImgSrc.sect (i : ImgSrc) (id : Nat) : List Byte :=
  match i.entries.find? fun e => e.1 = id with
  | some (_, o, n) => i.bytes o n
  | none => []

def requiredSections : List Nat := [1, 2, 3, 4, 5, 6, 8, 9, 0xB, 0xC]

/-- Whether the layout rules hold (code FORMAT). -/
def ImgSrc.formatOk (i : ImgSrc) : Bool :=
  let es := i.entries
  i.num 0 4 = 0x5A535449 && i.num 4 2 = 1 && i.length ≤ 16777216 && i.length = i.len &&
    i.num 7 1 < 4 && i.svn < 64 && 1 ≤ i.count && i.count ≤ 32 && i.num 0xE 50 = 0 &&
    (List.range i.count).all (fun n => i.num (0x41 + 16 * n) 3 = 0 && i.num (0x4C + 16 * n) 4 = 0) &&
    es.all (fun (id, o, n) => 1 ≤ id && id ≤ 0xC && o % 64 = 0 && 0x40 + 16 * i.count ≤ o && o + n + 2560 ≤ i.length) &&
    es.zipIdx.all (fun (a, x) => es.zipIdx.all fun (b, y) =>
      x = y || (a.1 != b.1 && (a.2.1 + a.2.2 ≤ b.2.1 || b.2.1 + b.2.2 ≤ a.2.1))) &&
    requiredSections.all fun id => es.any fun e => e.1 = id

/-- The image digest (R462). -/
def ImgSrc.digest (i : ImgSrc) : List Byte := shake256 (ascii "ZARIUS-S" ++ i.bytes 0 (i.length - 2560)) 32

/-! ## Contents (R461) -/

/-- Whether an operation word of a row program is legal (05 R174, R175); `scalar` for one after a pass. Every operand field
holds a selector that is not reserved, and one in use a selector that such an operation may use. -/
def opWordOk (scalar : Bool) (w : Nat) : Bool :=
  let fn := bits w 31 24
  let src (x : Nat) : Bool := x ≤ 34 && (if scalar then 12 ≤ x else x < 28 || 30 ≤ x)
  match ewArity fn with
  | none => false
  | some n => fn != 0x30 && (if scalar then 12 ≤ bits w 23 18 && bits w 23 18 ≤ 27 else bits w 23 18 ≤ 7) &&
      [bits w 17 12, bits w 11 6, bits w 5 0].all (· ≤ 34) && ([bits w 17 12, bits w 11 6, bits w 5 0].take n).all src
/-- Selectors of a lane's values: for operands of folds and column folds. -/
def laneSel (x : Nat) : Bool := x < 28 || (30 ≤ x && x ≤ 34)
/-- Whether a row program is legal. -/
def programOk (ps : List ProgPass) : Bool :=
  1 ≤ ps.length && ps.length ≤ 8 && ((ps.filter (·.stat)).length ≤ 2) && !((ps.dropWhile (·.stat)).any (·.stat)) &&
    ps.all fun p => p.ops.length ≤ 32 && p.ops.all (opWordOk false) && p.scal.length ≤ 16 && p.scal.all (opWordOk true) &&
      p.folds.length ≤ 2 && p.folds.all (fun (fn, dst, a, b) => fn ≤ 5 && 12 ≤ dst && dst ≤ 27 && laneSel a && laneSel b) &&
      p.writes.length ≤ 2 && p.writes.all (fun (o, v) => o ≤ 2 && v ≤ 7) &&
      p.cols.length ≤ 2 && p.cols.all (fun (o, fn, a, b) => o ≤ 2 && (fn = 0 || fn = 3) && laneSel a && laneSel b) &&
      (!p.stat || (12 ≤ p.statA && p.statA ≤ 27 && 12 ≤ p.statB && p.statB ≤ 27))

/-- Set channels of M-die m in a map-out mask. -/
def maskOf (mask m : Nat) : Nat := bits mask (64 * m + 63) (64 * m)

/-- Whether every section keeps the rule of R461 for it (code CONTENT). -/
def contentOk (i : ImgSrc) (c : ImageContent) : Bool :=
  let distinct (l : List Nat) : Bool := l.eraseDups.length = l.length
  let used (n lo hi : Nat) : List Nat := ((List.range 24).filterMap fun j =>
    if lo ≤ j && j < hi then ((c.engMap.getD n []).getD j none) else none)
  (c.statGranules.length = 4 && c.statGranules.all fun g => 1 ≤ g && g ≤ 1024) && c.scratchWays ≤ 16 && c.hintPf ≤ 16 &&
    16 ≤ c.scrubRate && c.scrubRate ≤ 512 && 16 ≤ c.dmaRate && c.dmaRate ≤ 384 && 16 ≤ c.updRate && c.updRate ≤ 384 &&
    c.maxMapout ≤ 8 && 32 * c.dmaRate + 9 * c.updRate + c.colShare + c.hostShare ≤ 21 * (64 - c.maxMapout) &&
    (List.range 4).all (fun n => distinct (used n 0 8) && distinct (used n 8 24) &&
      (used n 0 8).all (· < 8) && (used n 8 24).all fun p => 8 ≤ p && p < 24) &&
    [0, 1].all (fun m => (setBits (maskOf c.mapOut m) 64).length ≤ c.maxMapout) &&
    c.paths.length = 16 && c.paths.all (· ≤ 2) &&
    decide (-126 ≤ c.lsMin) && decide (c.lsMin ≤ c.lsInit) && decide (c.lsInit ≤ c.lsMax) && decide (c.lsMax ≤ 127) &&
    1 ≤ c.lsDown && c.lsDown ≤ 8 && 1 ≤ c.lsInterval && c.lsInterval ≤ 65535 &&
    (c.gaps.length = 26 && c.gaps.zipIdx.all fun (g, d) => minGap (d + 4) ≤ g && g ≤ 2 ^ 20) &&
    c.rowPrograms.length ≤ 64 && distinct (c.rowPrograms.map (·.1)) && c.rowPrograms.all (fun p => p.1 < 64 && programOk p.2) &&
    Config.kernelReleased (i.sect 8) && Config.kernelReleased (i.sect 9) &&
    c.filters.all (fun f => !protectedType f.1) && (i.sect 0xB).length ≤ 4194304 &&
    ((i.sect 0xC).length = 1793 || (i.sect 0xC).length = 3586)

/-! ## The checks (R464, R466) -/

def ownerHash (key : List Byte) : Nat := leNat (shake256 (ascii "ZARIUS-O" ++ key) 32)
def unowned (s : State) : Bool := s.fuses.owners.all (·.isNone)
/-- The enrolled, unrevoked slot of a key. -/
def ownerSlot (s : State) (h : Nat) : Option Nat :=
  (List.range 4).find? fun n => s.fuses.owners.getD n none = some h && !s.fuses.revoked.testBit n

/-- The contents of an image. -/
def ImgSrc.content (i : ImgSrc) : ImageContent := Config.imageContent (i.entries.map fun e => (e.1, i.sect e.1))

/-- The code of the first check an image fails; none if it is accepted. -/
def imgReject (s : State) (i : ImgSrc) : Option Nat :=
  let key := (i.sect 0xC).take 1793
  if !i.formatOk then some 1
  else if i.num 6 1 != 1 then some 2
  else if !(i.num 7 1).testBit (b2n s.fuses.gradeS) then some 3
  else if !Config.falconVerify Config.culeornKey i.digest (i.bytes (i.length - 2560) 1280) then some 4
  else if !unowned s && (ownerSlot s (ownerHash key)).isNone then some 5
  else if !Config.falconVerify key i.digest (i.bytes (i.length - 1280) 1280) then some 6
  else if i.svn < s.fuses.svnFloor then some 7
  else if !contentOk i i.content then some 8
  else none

/-- The image in a flash slot: the bytes LENGTH names, at most a slot. -/
def slotImage (s : State) (slot : Nat) : ImgSrc :=
  let b := 0x1000000 * slot
  ⟨s.img.flash, b, min 16777216 (rdNat s.img.flash (b + 8) 4)⟩
/-- The staged image. -/
def stagedImage (s : State) : ImgSrc := ⟨s.img.stage, 0, rget s .IMG_STAGE_LEN 8 0⟩

/-! ## Registers the image sets -/

/-- Homes of both M-dies from the channels that hold addresses (08 R302). -/
def setHomes : Eff :=
  .get fun s =>
    let size (m : Nat) : Nat := 15 * 2 ^ 30 * (activeChans s m).length
    Eff.all [setR .MEM_HOME 4 0 0, setR .MEM_HOME_SIZE 4 0 (size 0), setR .MEM_HOME 5 0 (size 0), setR .MEM_HOME_SIZE 5 0 (size 1)]

/-- A channel is mapped out: `auto` when it failed training. -/
def mapOutChannel (m c : Nat) (auto : Bool) : Eff :=
  Eff.all [
    modR .MEM_MAP (4 + m) 0 fun w => w &&& (2 ^ 64 - 1 - 2 ^ c),
    modR .MEM_CH_STATUS (4 + m) c fun w => putBits (putBits w 31 31 0) (if auto then 29 else 30) (if auto then 29 else 30) 1]

/-- The registers of an image's contents (R461). -/
def setImageRegs (c : ImageContent) : Eff :=
  Eff.all [
    Eff.each (List.range 4) fun n => .seq
      (setR .ROW_STAT_CFG n 0 (c.statGranules.getD n 0)) (setR .CMD_DMA_RATE n 0 c.dmaRate),
    Eff.each [0, 1] fun m => Eff.all [
      setR .MEM_LOAM_CFG (4 + m) 0
        (b2n c.autoMapout * 2 ^ 24 + c.scrubRate * 2 ^ 14 + b2n c.boost * 2 ^ 13 + c.hintPf * 2 ^ 8 + c.scratchWays),
      setR .MEM_PARTITION (4 + m) 0 (c.maxMapout * 2 ^ 28 + c.colShare * 2 ^ 16 + c.hostShare * 2 ^ 4),
      setR .UPD_RATE (4 + m) 0 c.updRate,
      setR .UPD_LS_CFG (4 + m) 0 (c.lsDown * 2 ^ 28 + ofSbyte c.lsInit * 2 ^ 16 + ofSbyte c.lsMax * 2 ^ 8 + ofSbyte c.lsMin),
      setR .UPD_LS_INTERVAL (4 + m) 0 c.lsInterval,
      setR .MEM_MAP (4 + m) 0 (2 ^ 64 - 1),
      Eff.each (List.range 64) fun ch => putR .MEM_CH_STATUS (4 + m) ch 31 29 4,
      Eff.each (setBits (maskOf c.mapOut m) 64) fun ch => mapOutChannel m ch false],
    modMs fun x => { x with drift := c.drift, ceLimit := c.ceLimit },
    setHomes]

/-- An image comes into force (R463, R480). -/
def acceptImage (slot : Nat) : Eff :=
  .get fun s =>
    let i := slotImage s slot
    let c := i.content
    let sec := i.sect 0xC
    let own := ownerSlot s (ownerHash (sec.take 1793))
    Eff.all [
      modImg fun x => { x with content := c, nextKey := ownerHash (if sec.length = 3586 then sec.drop 1793 else sec.take 1793) },
      modR .IMG_STATUS 8 0 fun w => putBits (putBits (putBits w 31 31 1) 30 30 slot) 27 26 (own.getD 0),
      setR .IMG_SVN 8 0 i.svn,
      setR .IMG_DIGEST 8 0 (leNat i.digest),
      setImageRegs c,
      emit 0x0104 8 [.num 1 slot, .num 32 (leNat i.digest), .num 8 i.svn, optItem 1 own],
      modRst fun r => { r with imageOk := true, rowAt := s.cc }]

end Sys2Proof.Machine
end

