-- ==== Sys2Proof/Machine/ExecReset.lean ====
section
/-!
DEFINITION. The reset, boot, image and security commands (12 R464-R489).
-/
namespace Sys2Proof.Machine

/-! ## Reset commands and sources (R474-R476) -/

def execRstCmdFull (s : State) : Host.Outcome State Fault Refusal := .next (requestReset 1 3 true s)
def execRstCmdStructural (s : State) : Host.Outcome State Fault Refusal := .next (requestReset 2 3 true s)
def execRstCmdLink (s : State) : Host.Outcome State Fault Refusal := .next (requestReset 3 3 true s)
def execRstCmdCore (s : State) : Host.Outcome State Fault Refusal := .next (requestReset 4 3 true s)
def execRstCmdManagement (s : State) : Host.Outcome State Fault Refusal := .next (requestReset 5 3 true s)
def execOnakanWatchdog (s : State) : Host.Outcome State Fault Refusal := .next (requestReset 5 7 false s)

/-- RESET_N low for some nanoseconds, between 1 and 1.25 µs recognised or not. -/
def resetNRun (ns : Nat) (seen : Bool) (s : State) : State :=
  if ns < 1000 then (incR .RST_RESETN_FILTERED 8 0 1).run s
  else if ns < 1250 && !seen then s
  else requestReset 1 2 false ((modRst fun r => { r with resetN := true }).run s)
def execResetNAssert (ns : Nat) (seen : Bool) (s : State) : Host.Outcome State Fault Refusal := .next (resetNRun ns seen s)

/-- The count of row 1 starts now, if it has not been released. -/
def restartRowOne : Eff := .get fun s => Eff.when (s.rst.rows.head? = some 1) (modRst fun r => { r with rowAt := s.cc })
def execResetNRelease (s : State) : Host.Outcome State Fault Refusal :=
  done (.seq (modRst fun r => { r with resetN := false }) restartRowOne) s

/-- PERST# low: a host reset, which holds domain 3. -/
def execPerst (s : State) : Host.Outcome State Fault Refusal :=
  .next (hostReset 8 ((modRst fun r => { r with perst := true }).run s))
def execPcieHotReset (s : State) : Host.Outcome State Fault Refusal := .next (hostReset 9 s)
/-- PERST# high: domain 3 is released once its gap has passed. -/
def perstHigh : Eff :=
  .seq (modRst fun r => { r with perst := false })
    (.get fun s => Eff.when (s.rst.hostAt != 0 && !alive s 3) (.seq (advanceTo (s.rst.hostAt - 1))
      (.seq (releaseDomain 3) (modRst fun x => { x with hostAt := 0 }))))
def execPerstDeassert (s : State) : Host.Outcome State Fault Refusal := done perstHigh s

/-- The write-back of the entry sequence ends, the packages enter self refresh, and the reset asserts (R479). -/
def execLoamWritebackDone (s : State) : Host.Outcome State Fault Refusal :=
  .next (if s.rst.phase = .entry then assertReset s.rst.scope 3 s.rst.lost true s else s)

def execDomainRelease (s : State) : Host.Outcome State Fault Refusal := done releaseRow s

/-! ## Starts (R478, R481-R485) -/

def execRootPllLock (s : State) : Host.Outcome State Fault Refusal :=
  done (Eff.when (alive s 1 && !s.pow.rootLock) (.seq
    (modPow fun p => { p with rootLock := true }) (modRst fun r => { r with rowAt := s.cc }))) s

/-- No lock within 10 ms of the release of domain 1. -/
def pllTimeout : Eff :=
  .get fun s => Eff.when (starting s && alive s 1 && !s.pow.rootLock)
    (.seq (advanceTo (s.rst.rowAt + 10 * 1750000)) (failStart 6))
def execPllLockTimeout (s : State) : Host.Outcome State Fault Refusal := done pllTimeout s

/-- The boot ROM verifies the slot marked ACTIVE, then the other (R480). -/
def bootVerify : Eff :=
  .get fun s =>
    if !(alive s 2 && s.rst.scope ≤ 2 && !s.rst.imageOk && (starting s || s.rst.phase = .releasing) && !inRecovery s) then .skip
    else
      let a := s.img.active
      let verdict (slot : Nat) : Option Nat := if s.img.invalid.contains slot then some 1 else imgReject s (slotImage s slot)
      let reject (slot c : Nat) : Eff := .seq
        (putR .IMG_STATUS 8 0 (if slot = 0 then 23 else 15) (if slot = 0 then 16 else 8) c)
        (emit 0x0103 8 [.num 1 slot, .num 1 c])
      match verdict a with
      | none => .seq (putR .IMG_STATUS 8 0 29 29 0) (acceptImage a)
      | some c =>
        match verdict (1 - a) with
        | none => Eff.all [
            reject a c,
            modImg fun x => { x with active := 1 - a },
            putR .IMG_STATUS 8 0 29 29 1,
            acceptImage (1 - a),
            emit 0x0105 8 []]
        | some d => Eff.all [reject a c, reject (1 - a) d, putR .IMG_STATUS 8 0 31 31 0, failNow 2]
def execImageVerifyBoot (s : State) : Host.Outcome State Fault Refusal := done bootVerify s

/-- The identity key pair is derived and its public key compared with the certificate's (R467, R468). -/
def deriveKey : Eff :=
  .get fun s => Eff.when (alive s 4 && !s.rst.keyDone) (
    let pk := (Config.falconKeygen (shake256 (ascii "ZARIUS-D" ++ Config.deviceSecret) 64)).1
    if pk = (Config.identityCert.drop 17).take 1793 then .seq
      (putR .SEC_STATUS 8 0 30 30 1) (modRst fun r => { r with keyDone := true })
    else Eff.all [emit 0x010C 8 [], putR .SEC_STATUS 8 0 30 30 0, failStart 5])
def execIdentityKeyDerive (s : State) : Host.Outcome State Fault Refusal := done deriveKey s

/-- Domain whose release starts a die's links: C-die control, M-die logic, L-die core. -/
def dieDomain (d : Nat) : Nat := if d < 4 then 18 + d else if d < 6 then 10 + (d - 4) else 4 + (d - 6)

/-- A direction of a link ends its training, after a reset or for a recalibration, which waits for the commands in flight
over it (R40-R42): more than two failed wires in a clock group, or fewer than 16 lanes, fail it; else its repair map stands,
and the link has trained once both directions have. -/
def trainRun (l : D2D) (r : TrainResult) (s : State) : State :=
  let n := linkNo l
  let h := linkDir s l.key
  let worn := (List.range 8).any fun g => decide (2 < (r.repairs.filter fun e => e.1 = g).length)
  let failed := r.failed || (l.narrow && decide (r.lanes < 16)) || (!l.narrow && worn)
  let due := !h.trained || (h.retrain && !s.cp.flights.any (resFlights s (16 + n)))
  if !((linkDies n).all fun d => alive s (dieDomain d)) || !due then s
  else if failed then
    let s1 := (emit 0x0109 8 [.num 1 n]).run s
    if starting s then (failStart 3).run s1 else structuralFault n s1
  else (Eff.all [
    Eff.when (!l.narrow) (Eff.each r.repairs fun (g, w, sp) =>
      emit 0x0108 8 [.num 1 n, .num 1 l.dir, .num 1 g, .num 1 w, .num 1 sp]),
    Eff.when (l.narrow && decide (r.lanes < 32)) (emit 0x010A 8 []),
    modLink l.key fun x => { x with
      trained := true, retrain := false, width := if l.narrow && r.lanes < 32 then 16 else 32, repairs := r.repairs, corr := [],
      sent := [], tries := 0 },
    Eff.when (linkDir s (2 * n + 1 - l.dir % 2)).trained
      (modRst fun x => { x with d2dDone := if x.d2dDone.contains n then x.d2dDone else x.d2dDone ++ [n] })]).run s
def execD2dTrainingDone (l : D2D) (r : TrainResult) (s : State) : Host.Outcome State Fault Refusal := .next (trainRun l r s)

/-- Channels that have failed their training with a start that cannot map them all out: those mapped out before the first of
them, and it (08 R305). -/
def failedChannels (s : State) (m c : Nat) : List Nat :=
  (if s.ms.untrained.any fun k => k / 64 = m then [] else (rangeFrom 0 64).filter fun x => rbit s .MEM_CH_STATUS (4 + m) x 29) ++ [c]
/-- A record for each, and the start fails. -/
def mapOutFails (m c : Nat) : Eff :=
  .get fun s => Eff.all [
    Eff.each (failedChannels s m c) fun _ => emit 0x0509 (4 + m) [],
    modMs fun x => { x with untrained := chKey m c :: x.untrained },
    failStart 4]

/-- A channel ends its training (08 R304, R305, R319). -/
def channelTrained (m c : Nat) (ok : Bool) : Eff :=
  .get fun s =>
    let k := chKey m c
    Eff.when (alive s (10 + m) && alive s (12 + m) && !s.ms.trained.contains k) (Eff.all [
      modMs fun x => { x with trained := x.trained ++ [k] },
      (if ok || !chActive s m c then .skip
       else if !s.rst.lost || !rbit s .MEM_LOAM_CFG (4 + m) 0 24 then .seq (emit 0x0509 (4 + m) []) (failStart 4)
       else
         let out := 64 - (activeChans s m).length
         if out + 1 ≤ rfld s .MEM_PARTITION (4 + m) 0 31 28 then .seq (mapOutChannel m c true) setHomes
         else mapOutFails m c),
      .get fun s => Eff.when ((s.ms.trained.filter fun x => x / 64 = m).length = 64)
        (emit 0x0508 (4 + m) [.num 8 (2 ^ 64 - 1 - rget s .MEM_MAP (4 + m) 0)])])
def execChannelTrainingDone (m : Fin 2) (c : Fin 64) (ok : Bool) (s : State) : Host.Outcome State Fault Refusal :=
  done (channelTrained m c ok) s

def allTrained (s : State) : Bool := s.ms.trained.length = 128

/-- The zero fill of every active channel completes, after a reset that lost memory (08 R301). -/
def fillRun (s : State) : State :=
  if s.rst.lost && allTrained s && !s.ms.filled && !stepReady s then
    { s with mem := s.mem.filter fun e => memTop s ≤ e.1, ms := { s.ms with poison := [], odd := [], filled := true } }
  else s
def execMemoryFillDone (s : State) : Host.Outcome State Fault Refusal := .next (fillRun s)

/-- Whether every condition of a start holds (R482). -/
def readyToStep (s : State) : Bool :=
  starting s && s.rst.phase = .idle && s.rst.rows.isEmpty && (List.range 19).all s.rst.d2dDone.contains &&
    allTrained s && (s.ms.filled || !s.rst.lost) && s.rst.keyDone && !progLoaded s && !bit s.rst.straps 3
/-- STEP_READY (R481). -/
def stepReadyRow : Eff :=
  .get fun s => Eff.when (readyToStep s) (Eff.all [
    modR .RST_STATUS 8 0 fun w => putBits (putBits w 31 31 1) 29 29 0,
    setR .RST_START_MS 8 0 ((s.cc + 1 - s.rst.firstCc) / 1750000),
    putR .RST_AON 8 0 2 0 0,
    modRst fun r => { r with lost := false },
    emit 0x0102 8 []])
def execRstStepReady (s : State) : Host.Outcome State Fault Refusal := done stepReadyRow s

/-- 30 s from the first release without STEP_READY. -/
def startTimeoutRow : Eff :=
  .get fun s => Eff.when (starting s) (.seq (advanceTo (s.rst.firstCc - 1 + 30000 * 1750000)) (failStart 1))
def execStartTimeout (s : State) : Host.Outcome State Fault Refusal := done startTimeoutRow s

/-- One second after a failed start that leaves FAIL_COUNT below 4, a full reset with cause 0x04. -/
def aonRestartRun (s : State) : State :=
  if s.rst.failedMs != 0 && failCount s < 4 then
    requestReset 1 4 false ((advanceTo (s.pow.aonAt + (s.rst.failedMs - 1 + 1000) * 1750000)).run s)
  else s
def execAonRestart (s : State) : Host.Outcome State Fault Refusal := .next (aonRestartRun s)

/-- FORCE_RECOVERY is set by the host alone (R470). -/
def execForceRecovery (onakan : Bool) (s : State) : Host.Outcome State Fault Refusal :=
  done (Eff.when (!onakan) (putR .RST_AON 8 0 31 31 1)) s

/-! ## Staging and committing (R487) -/

/-- A command of IMG_CMD ends with a result. -/
def imgEnd (result : Nat) : Eff :=
  Eff.all [modImg fun x => { x with busy := 0 }, setR .IMG_CMD_STATUS 8 0 (2 ^ 30 + result * 2 ^ 16), raiseVec 11]
/-- A further command while one runs. -/
def imgBusy : Eff := .seq (setR .IMG_CMD_STATUS 8 0 (2 ^ 30 + 0x11 * 2 ^ 16)) (raiseVec 11)

def verifyRow : Eff :=
  .get fun s =>
    if !alive s 2 then .skip
    else if s.img.busy = 2 then imgBusy
    else match imgReject s (stagedImage s) with
      | some c => imgEnd c
      | none => Eff.all [
          modImg fun x => { x with verified := true },
          setR .IMG_STAGE_DIGEST 8 0 (leNat (stagedImage s).digest),
          imgEnd 0]
def execImgVerify (s : State) : Host.Outcome State Fault Refusal := done verifyRow s

/-- The slot a COMMIT writes. -/
def commitSlot (s : State) : Nat := 1 - (if rbit s .IMG_STATUS 8 0 31 then rfld s .IMG_STATUS 8 0 30 30 else s.img.active)

/-- COMMIT; `ok` when the read-back compares. -/
def commitRow (ok : Bool) : Eff :=
  .get fun s =>
    if !alive s 2 then .skip
    else if s.img.busy = 1 then imgBusy
    else if !s.img.verified then imgEnd 0x10
    else
      let slot := commitSlot s
      let i := stagedImage s
      let b := 0x1000000 * slot
      let kept := s.img.flash.filter fun e => e.1 < b || b + i.length ≤ e.1
      let flash := ((i.bytes 0 i.length).zipIdx).foldl (fun f e => mset 0#8 f (b + e.2) e.1) kept
      .seq (modImg fun x => { x with flash := if ok then flash else x.flash,
                                     invalid := if ok then x.invalid.filter (· != slot) else x.invalid })
        (if !ok then imgEnd 0x12
         else Eff.all [
           modImg fun x => { x with active := slot },
           putR .RST_AON 8 0 2 0 0,
           emit 0x0110 8 [],
           imgEnd 0])
def execImgCommit (ok : Bool) (s : State) : Host.Outcome State Fault Refusal := done (commitRow ok) s

/-! ## Fuses (R465): the one place where a fuse changes -/

def secEnd (result : Nat) : Eff := .seq (setR .SEC_CMD_STATUS 8 0 (2 ^ 30 + result * 2 ^ 16)) (raiseVec 11)
/-- A fuse command's record. -/
def fuseRecord : Eff := emit 0x010D 8 []

/-- Owner slot of the image in force. -/
def imageOwner (s : State) : Nat := rfld s .IMG_STATUS 8 0 27 26
def imageInForce (s : State) : Bool := rbit s .IMG_STATUS 8 0 31

def enrollRun (s : State) : State :=
  let mine := imageInForce s && (s.fuses.owners.getD (imageOwner s) none).isSome && !s.fuses.revoked.testBit (imageOwner s)
  if !alive s 2 then s
  else if !(unowned s || mine) || !imageInForce s then (secEnd 1).run s
  else match s.fuses.owners.findIdx? fun o => o.isNone with
    | none => (secEnd 2).run s
    | some n => (.seq fuseRecord (secEnd 0) : Eff).run
        { s with fuses := { s.fuses with owners := s.fuses.owners.set n (some s.img.nextKey) } }
def execEnroll (s : State) : Host.Outcome State Fault Refusal := .next (enrollRun s)

def revokeRun (n : Nat) (s : State) : State :=
  if !alive s 2 then s
  else if (s.fuses.owners.getD n none).isNone || (imageInForce s && !unowned s && imageOwner s = n) then (secEnd 3).run s
  else (.seq fuseRecord (secEnd 0) : Eff).run { s with fuses := { s.fuses with revoked := s.fuses.revoked ||| 2 ^ n } }
def execRevoke (slot : Fin 4) (s : State) : Host.Outcome State Fault Refusal := .next (revokeRun slot s)

def raiseSvnRun (s : State) : State :=
  let v := rget s .IMG_SVN 8 0
  if !alive s 2 then s
  else if imageInForce s && s.fuses.svnFloor < v then
    (.seq fuseRecord (secEnd 0) : Eff).run { s with fuses := { s.fuses with svnFloor := v } }
  else (secEnd 4).run s
def execRaiseSvn (s : State) : Host.Outcome State Fault Refusal := .next (raiseSvnRun s)

end Sys2Proof.Machine
end

