-- ==== Sys2Proof/Machine/ExecEth.lean ====
section
/-!
DEFINITION. Ethernet and the bulk transport, receiving side and sessions (13 R503-R509).
-/
namespace Sys2Proof.Machine

/-- Time passes until a time in µs since the AON power-on reset. -/
def advanceToUs (t : Nat) : Eff := .get fun s => advanceTo (s.pow.aonAt + t * 1750)

/-! ## Sessions (R505) -/

/-- A SEND transfer ends: 0 acknowledged, otherwise the close cause (R509). -/
def xferEnd (result : Nat) : Eff :=
  Eff.all [
    modR .ETH_XFER_STATUS 6 0 fun w => putBits (putBits w 31 30 1) 3 0 result,
    Eff.when (result != 0) (setFault .ETH_FAULT 6 3),
    raiseVec 12,
    modEth fun e => { e with xferLeft := 0 }]
def xferBusy (s : State) : Bool := rbit s .ETH_XFER_STATUS 6 0 31

/-- A session that is not CLOSED closes with a cause. The peer is told where this module decides it. -/
def closeSession (sid cause : Nat) : Eff :=
  .get fun s => Eff.when (sesState s sid != 0) (
    let kind := sesKind s sid
    Eff.all [
      Eff.when (cause != 2) (sendTransport sid 5 0 0 0 0 []),
      putR .ETH_SESSION 6 sid 125 124 0,
      putR .ETH_SESSION 6 sid 123 120 cause,
      modEth fun e => { e with sessions := mset {} e.sessions sid {} },
      emit 0x0909 6 [.num 1 cause],
      setFault .ETH_FAULT 6 1,
      Eff.when (kind = 4) (xdrLost sid),
      Eff.when (xferBusy s && s.eth.xferSession = sid) (xferEnd cause)])

/-- Sessions all of whose ports are down close (cause 6). -/
def closeUnreachable : Eff :=
  Eff.each (List.range 256) fun sid => .get fun s =>
    Eff.when (sesState s sid != 0 && (sesPort s sid 0).isNone) (closeSession sid 6)

/-- OPEN in ETH_SESSION_CTRL: a CLOSED session with a port starts to send OPEN. -/
def openSession (sid : Nat) : Eff :=
  .get fun s => Eff.when (alive s 8 && sesState s sid = 0 && sesF s sid 130 129 != 0) (Eff.all [
    putR .ETH_SESSION 6 sid 125 124 1,
    modSes sid fun _ => { openAt := nowUs s, sent := nowUs s },
    sendTransport sid 1 0 0 0 0 [],
    .get fun s => Eff.when (sesPort s sid 0).isNone (closeSession sid 6)])
def execSessionOpen (sid : Fin 256) (s : State) : Host.Outcome State Fault Refusal := done (openSession sid) s
def execSessionClose (sid : Fin 256) (s : State) : Host.Outcome State Fault Refusal := done (closeSession sid 1) s

/-- KINDs that fit each other: RECV with SEND or SNAP, and XDR with XDR. -/
def complements (a b : Nat) : Bool :=
  (a = 1 && b = 2) || (a = 2 && (b = 1 || b = 3)) || (a = 3 && b = 2) || (a = 4 && b = 4)

/-! ## Ports and frames (R503, R506) -/

def linkUp (p : Nat) (an : Bool) : Eff :=
  .get fun s => Eff.when (alive s (8 + p) && !ethUp s p) (.seq
    (modR .ETH_PORT_STATUS (6 + p) 0 fun w => putBits w 31 29 (5 + 2 * b2n an))
    (emit 0x0906 (6 + p) []))
def execEthLinkUp (p : Fin 2) (an : Bool) (s : State) : Host.Outcome State Fault Refusal := done (linkUp p an) s

def linkDown (p : Nat) : Eff :=
  .get fun s => Eff.when (ethUp s p) (Eff.all [
    putR .ETH_PORT_STATUS (6 + p) 0 31 29 0,
    emit 0x0907 (6 + p) [],
    setFault .ETH_FAULT 6 0,
    closeUnreachable])
def execEthLinkDown (p : Fin 2) (s : State) : Host.Outcome State Fault Refusal := done (linkDown p) s

/-- Fields of a received transport packet. -/
def tpF (bs : List Byte) (o w : Nat) : Nat := leNat ((bs.drop o).take w)
def tpType (bs : List Byte) : Nat := tpF bs 1 1
def tpSid (bs : List Byte) : Nat := tpF bs 4 2
def tpPsn (bs : List Byte) : Nat := tpF bs 8 8

/-- A valid header: version, type, length and CRC. -/
def tpValid (bs : List Byte) : Bool :=
  decide (32 ≤ bs.length) && tpF bs 0 1 = 1 && 1 ≤ tpType bs && tpType bs ≤ 6 && tpF bs 26 2 ≤ 8192 &&
    bs.length = 32 + tpF bs 26 2 && tpSid bs < 256 &&
    tpF bs 28 4 = crc32 (bs.take 28 ++ leBytes 4 0 ++ bs.drop 32)

/-- The port's MAC address, from fuses. -/
def macOf (p : Nat) : Nat := Config.ethMac p % 2 ^ 48

/-- Whether a frame is a transport packet for this module; a session with VLAN_EN requires its tag. -/
def frameOk (s : State) (p : Nat) (f : Frame) : Bool :=
  f.dstMac = macOf p && f.nextHdr = 17 && f.udpPort = rfld s .ETH_UDP_PORT 6 0 15 0 && tpValid f.payload &&
    (sesF s (tpSid f.payload) 131 131 = 0 || f.vlan = some (sesF s (tpSid f.payload) 143 132))

def rxDrop (p : Nat) : Eff := .seq (incR .ETH_RX_DROP_COUNT (6 + p) 0 1) (setFault .ETH_FAULT 6 2)

def frameIn (p : Nat) (f : Frame) : Eff :=
  .get fun s => Eff.when (ethUp s p) (.seq
    (incR64 .ETH_RX_BYTES (6 + p) 0 f.payload.length)
    (if frameOk s p f then modEth fun e => { e with rx := e.rx ++ [(p, f.payload)] } else rxDrop p))
def execEthFrameReceive (p : Fin 2) (f : Frame) (s : State) : Host.Outcome State Fault Refusal := done (frameIn p f) s

/-- Take the first accepted packet of a type. -/
def takeRx (typ : Nat) (k : Nat → List Byte → Eff) : Eff :=
  .get fun s =>
    let mine (e : Nat × List Byte) : Bool := tpType e.2 = typ
    match s.eth.rx.find? mine with
    | none => .skip
    | some (p, bs) => .seq (modEth fun e => { e with rx := e.rx.eraseP mine }) (k p bs)

/-- Something has been heard from the peer of a session. -/
def sesHeard (sid : Nat) : Eff := .get fun s => modSes sid fun x => { x with heard := nowUs s }

/-! ## OPEN, OPEN_ACK, CLOSE, KEEPALIVE (R505) -/

def openArrive : Eff :=
  takeRx 1 fun p bs => .get fun s =>
    let sid := tpSid bs
    if sesState s sid = 0 then rxDrop p
    else if !complements (sesKind s sid) (tpF bs 3 1) then closeSession sid 7
    else .seq (sesHeard sid) (sendTransport sid 2 0 0 0 0 [])
def execOpenPkt (s : State) : Host.Outcome State Fault Refusal := done openArrive s

def openAckArrive : Eff :=
  takeRx 2 fun p bs => .get fun s =>
    let sid := tpSid bs
    if sesState s sid = 0 then rxDrop p
    else if !complements (sesKind s sid) (tpF bs 3 1) then closeSession sid 7
    else .seq (sesHeard sid) (Eff.when (sesState s sid = 1) (Eff.all [
      putR .ETH_SESSION 6 sid 125 124 2,
      emit 0x0908 6 [],
      Eff.when (sesKind s sid = 3) (snapRestart sid)]))
def execOpenAckPkt (s : State) : Host.Outcome State Fault Refusal := done openAckArrive s

def closeArrive : Eff := takeRx 5 fun _ bs => closeSession (tpSid bs) 2
def execClosePkt (s : State) : Host.Outcome State Fault Refusal := done closeArrive s

def keepaliveArrive : Eff :=
  takeRx 6 fun p bs => .get fun s => if sesState s (tpSid bs) = 0 then rxDrop p else sesHeard (tpSid bs)
def execKeepalivePkt (s : State) : Host.Outcome State Fault Refusal := done keepaliveArrive s

/-- 1 ms after the last OPEN another follows. -/
def openRetry (sid : Nat) : Eff :=
  .get fun s => Eff.when (sesState s sid = 1) (.seq (advanceToUs ((sesLive s sid).sent + 1000)) (sendTransport sid 1 0 0 0 0 []))
def execOpenRetryTimer (sid : Fin 256) (s : State) : Host.Outcome State Fault Refusal := done (openRetry sid) s

def openTimeout (sid : Nat) : Eff :=
  .get fun s => Eff.when (sesState s sid = 1) (.seq
    (advanceToUs ((sesLive s sid).openAt + 1000 * rget s .ETH_OPEN_TIMEOUT 6 0)) (closeSession sid 3))
def execEthOpenTimeout (sid : Fin 256) (s : State) : Host.Outcome State Fault Refusal := done (openTimeout sid) s

/-- KEEPALIVE 10 ms after the last packet sent; the end 100 ms after the last one heard. -/
def keepalive (sid : Nat) : Eff :=
  .get fun s => Eff.when (sesOpen s sid) (
    let x := sesLive s sid
    if x.heard + 100000 ≤ max (x.sent + 10000) (nowUs s) then .seq (advanceToUs (x.heard + 100000)) (closeSession sid 5)
    else .seq (advanceToUs (x.sent + 10000)) (sendTransport sid 6 0 0 0 0 []))
def execKeepaliveTimer (sid : Fin 256) (s : State) : Host.Outcome State Fault Refusal := done (keepalive sid) s

/-! ## Receiving DATA (R507) -/

/-- Acknowledge what a session has received: the cumulative PSN (all ones before packet 0) and a bitmap of the 64 PSNs
after it. -/
def sendAck (sid : Nat) : Eff :=
  .get fun s =>
    let x := sesLive s sid
    let map := ((List.range 64).filter fun i => x.rxLater.contains (x.rxNext + i)).foldl (fun a i => a + 2 ^ i) 0
    .seq (modSes sid fun x => { x with sinceAck := 0, ackFrom := nowUs s })
      (sendTransport sid 4 0 ((x.rxNext + (2 ^ 64 - 1)) % 2 ^ 64) map 0 [])

/-- The packets received in order move on. -/
def rxAdvance : Nat → Nat → List Nat → Nat × List Nat
  | 0, n, l => (n, l)
  | f + 1, n, l => if l.contains n then rxAdvance f (n + 1) (l.filter (· != n)) else (n, l)

/-- A packet of an object lands; an object whose bytes up to the end of its LAST packet have all landed is whole. -/
def landPart (x : Session) (obj off : Nat) (last : Bool) (n : Nat) : Session × Bool :=
  let (parts, end0) := match x.objects.find? (·.1 = obj) with
    | some (_, l, e) => (l, e)
    | none => ([], none)
  let parts := parts ++ [(off, n)]
  let fin := if last then some (off + n) else end0
  let whole := match fin with
    | some e =>
      -- the bytes landed reach e without a gap
      decide (e ≤ parts.foldl (fun top _ => parts.foldl (fun t p => if p.1 ≤ t then max t (p.1 + p.2) else t) top) 0)
    | none => false
  let rest := x.objects.filter (·.1 != obj)
  ({ x with objects := if whole then rest else rest ++ [(obj, parts, fin)] }, whole)

/-- Bytes of the module's memories that exist; the others of a run are discarded. -/
def writeExisting (a : Nat) (bs : List Byte) : Eff :=
  .get fun s => writeMem ((byteWrs a bs).filter fun w => inStores s w.a (w.a + 1))

/-- The flag of a session's objects (R507). -/
def signalDone (sid : Nat) : Eff :=
  .get fun s =>
    let r := FlagRef.of (sesF s sid 199 184)
    Eff.when (r.en && r.inRange) (
      if r.die = 6 then addFlag 6 r.idx (sesF s sid 183 176)
      else modCp fun c => { c with signals := c.signals ++ [⟨r.die, r.idx, sesF s sid 183 176, 6⟩] })

/-- A payload lands in the window of a RECV session, or is collected for a COL.XDR in bytes kept beside the objects. -/
def landData (sid obj off : Nat) (last : Bool) (data : List Byte) : Eff :=
  .get fun s =>
    let (x, whole) := landPart (sesLive s sid) obj off last data.length
    if sesKind s sid = 2 then
      Eff.all [writeExisting (sesF s sid 287 240 + off) data, modSes sid fun _ => x, Eff.when whole (signalDone sid)]
    else
      let x := { x with bytes := x.bytes ++ [(obj, off, data)] }
      if whole then
        let mine := x.bytes.filter (·.1 = obj)
        let top := mine.foldl (fun t e => max t (e.2.1 + e.2.2.length)) 0
        let img := mine.foldl (fun m e => wrBytes m e.2.1 e.2.2) []
        .seq (modSes sid fun _ => { x with bytes := x.bytes.filter (·.1 != obj) }) (xdrObject sid obj (rdBytes img 0 top))
      else modSes sid fun _ => x

/-- Whether the first DATA packet waits: it would land on a channel under test (08 R326). -/
def dataWaits (s : State) : Bool :=
  match s.eth.rx.find? fun e => tpType e.2 = 3 with
  | some (_, bs) => sesKind s (tpSid bs) = 2 && underTest s (sesF s (tpSid bs) 287 240 + tpF bs 16 8) (bs.length - 32)
  | none => false
/-- A DATA packet: once for each PSN, acknowledged with the sixteenth. -/
def dataArrive : Eff :=
  .get fun s => Eff.when (!dataWaits s) <| takeRx 3 fun p bs => .get fun s =>
    let sid := tpSid bs
    let (psn, off, obj, data) := (tpPsn bs, tpF bs 16 8, tpF bs 24 2, bs.drop 32)
    let x := sesLive s sid
    if !(sesOpen s sid && (sesKind s sid = 2 || sesKind s sid = 4)) then rxDrop p
    else if sesKind s sid = 2 && decide (sesF s sid 239 200 < off + data.length) then .seq (rxDrop p) (closeSession sid 8)
    else
      let seen := decide (psn < x.rxNext) || x.rxLater.contains psn
      let (nx, later) := rxAdvance (x.rxLater.length + 1) x.rxNext (psn :: x.rxLater)
      Eff.all [
        sesHeard sid,
        modSes sid fun y => { y with sinceAck := y.sinceAck + 1 },
        Eff.when (!seen) (.seq (modSes sid fun y => { y with rxNext := nx, rxLater := later })
          (landData sid obj off (bit (tpF bs 2 1) 0) data)),
        .get fun s => Eff.when (decide (16 ≤ (sesLive s sid).sinceAck)) (sendAck sid),
        xdSend]
def execDataPkt (s : State) : Host.Outcome State Fault Refusal := done dataArrive s

/-- 20 µs after the last acknowledgement, with DATA received since. -/
def ackTimer (sid : Nat) : Eff :=
  .get fun s => Eff.when (sesOpen s sid && (sesLive s sid).sinceAck != 0)
    (.seq (advanceToUs ((sesLive s sid).ackFrom + 20)) (sendAck sid))
def execEthAckTimer (sid : Fin 256) (s : State) : Host.Outcome State Fault Refusal := done (ackTimer sid) s

/-! ## Acknowledgements and retransmission (R507), SEND transfers (R509) -/

/-- Packets of the running transfer leave while the session may hold more and the data is not on a channel under test; `fuel`
bounds them. -/
def xferPump : Nat → Eff
  | 0 => .skip
  | f + 1 => .get fun s =>
    let e := s.eth
    if e.xferLeft = 0 || !sesRoom s e.xferSession then .skip
    else
      let n := min 8192 e.xferLeft
      let src := rfld s .ETH_XFER_SRC 6 0 47 0
      if underTest s (src + e.xferOff) n then .skip
      else Eff.all [
        readByHost [(src + e.xferOff, n)],
        sendData e.xferSession e.xferObj e.xferOff (e.xferLeft = n) (rdBytes s.mem (src + e.xferOff) n),
        modEth fun e => { e with xferLeft := e.xferLeft - n, xferOff := e.xferOff + n },
        xferPump f]

/-- Writing GO starts a transfer by an OPEN session of kind SEND; while BUSY is set it does not. -/
def xferStart (v : Nat) : Eff :=
  .get fun s =>
    let sid := bits v 7 0
    .seq (setR .ETH_XFER_CMD 6 0 (bits v 23 0))
      (Eff.when (bit v 31 && !xferBusy s && sesOpen s sid && sesKind s sid = 1) (
        let len := rfld s .ETH_XFER_LEN 6 0 47 0
        Eff.all [
          modR .ETH_XFER_STATUS 6 0 fun w => putBits (putBits w 31 31 1) 3 0 0,
          modEth fun e => { e with xferLeft := len, xferOff := 0, xferSession := sid, xferObj := bits v 23 8 },
          if len = 0 then sendData sid (bits v 23 8) 0 true [] else xferPump 4096]))
def execXferGo (v : BitVec 32) (s : State) : Host.Outcome State Fault Refusal := done (xferStart v.toNat) s

/-- Resend one packet. -/
def resendData (sid psn : Nat) : Eff :=
  .get fun s =>
    match (sesLive s sid).unacked.find? (·.psn = psn) with
    | none => .skip
    | some d =>
      if d.tries = 16 then closeSession sid 4
      else .seq
        (modSes sid fun x => { x with unacked := x.unacked.map fun e =>
          if e.psn = psn then { e with tries := e.tries + 1, later := 0, at_ := nowUs s } else e })
        (sendTransport sid 3 (b2n d.last) psn d.off d.obj d.data)

/-- The transfer ends when every byte is acknowledged. -/
def xferCheck : Eff :=
  .get fun s => Eff.when (xferBusy s && s.eth.xferLeft = 0 && (sesLive s s.eth.xferSession).unacked.isEmpty &&
    (sesLive s s.eth.xferSession).backlog.isEmpty)
    (xferEnd 0)

/-- An ACK frees what it names; a packet with three later ones acknowledged since it left is sent again. -/
def ackArrive : Eff :=
  takeRx 4 fun p bs => .get fun s =>
    let sid := tpSid bs
    if !sesOpen s sid then rxDrop p
    else
      let cum := tpPsn bs
      let map := tpF bs 16 8
      let freed (n : Nat) : Bool := (cum != 2 ^ 64 - 1 && decide (n ≤ cum)) ||
        (List.range 64).any fun i => map.testBit i && n = (cum + 1 + i) % 2 ^ 64
      let gone := (sesLive s sid).unacked.filter fun d => freed d.psn
      let left := ((sesLive s sid).unacked.filter fun d => !freed d.psn).map fun d =>
        { d with later := d.later + (gone.filter fun g => d.psn < g.psn).length }
      Eff.all [
        sesHeard sid,
        modSes sid fun x => { x with unacked := left },
        Eff.each (left.filter fun d => decide (3 ≤ d.later)) fun d => resendData sid d.psn,
        .get fun s => sendWaiting sid (sesLive s sid).backlog,
        Eff.when (xferBusy s && s.eth.xferSession = sid) (xferPump 4096),
        xferCheck]
def execAckPkt (s : State) : Host.Outcome State Fault Refusal := done ackArrive s

/-- ETH_RTO passes for a packet. -/
def rtoExpire (sid psn : Nat) : Eff :=
  .get fun s =>
    match (sesLive s sid).unacked.find? (·.psn = psn) with
    | none => .skip
    | some d => Eff.when (sesOpen s sid) (.seq (advanceToUs (d.at_ + rget s .ETH_RTO 6 0)) (resendData sid psn))
def execEthRto (sid : Fin 256) (psn : Nat) (s : State) : Host.Outcome State Fault Refusal := done (rtoExpire sid psn) s

end Sys2Proof.Machine
end

