-- ==== Sys2Proof/Machine/ExecSync.lean ====
section
/-!
DEFINITION. Synchronisation, the barrier, STEP_SYNC and step records (11 R417-R436, R449-R454; 07 R258-R260).
-/
namespace Sys2Proof.Machine

/-! ## Readiness (R427) -/

def syncMaster (s : State) : Bool := rbit s .SYNC_CTRL 6 0 31
/-- LOCKED: of the domain's time master as soon as its PLL reports lock, of the others under R423. -/
def syncLocked (s : State) : Bool :=
  if syncMaster s then s.pow.rootLock && s.pow.syncRef else rbit s .SYNC_STATUS 6 0 31
/-- Queues of the program in force. -/
def liveQueues (s : State) : List (Nat × Nat) := allQueues.filter fun (d, q) => 0 < (queueOf s d q).len
/-- Whether the record of step n has been written or counted as an overrun. -/
def recordGone (s : State) (n : Nat) : Bool :=
  decide (n < s.dig.nextStep) && (match s.dig.waiting with
    | some r => decide (n < r.step)
    | none => true)
/-- The bits of NOT_READY for the next release. -/
def notReady (s : State) : Nat :=
  let n := s.cp.released
  b2n (!spbPending s) + 2 * b2n (decide (1 ≤ n) && !(stepOf s (n - 1)).left) +
    4 * b2n (decide (1 ≤ n) && !(liveQueues s).all fun (d, q) => decide (n - 1 ≤ (queueOf s d q).step)) +
    8 * b2n (decide (2 ≤ n) && !recordGone s (n - 2)) + 16 * b2n (!syncLocked s)

def syncLead (s : State) : Nat := rfld s .SYNC_LEAD 6 0 23 0
/-- The module whose STEP_SYNC input is used. -/
def ssMaster (s : State) : Bool := rbit s .SYNC_CTRL 6 0 30 && rbit s .SYNC_CTRL 6 0 29
def ssWindow (s : State) : Nat := 1750 * rfld s .SYNC_SS_WINDOW 6 0 11 0
/-- Whether some module of the job has its STEP_SYNC in use, once T is known. -/
def ssUsed (s : State) : Bool := s.sync.ready.ss = 1

/-! ## STEP_SYNC decisions (R433, R434, R436) -/

/-- The boundary is known once the RELEASE pass has run through. -/
def learnB : Eff :=
  .get fun s => Eff.when (s.sync.release.active && s.sync.release.done && s.sync.b.isNone)
    (modSync fun y => { y with b := some y.release.value, bk := y.dt })

/-- The step master sends RELEASE with the boundary. -/
def sendRelease (b : Nat) : Eff := .get fun s => .seq (startPass .release s.cp.released b 0 0 0) learnB

/-- An ignored edge counts under its cause. -/
def edgeIgnored (k : Nat) : Eff :=
  .seq (incR .SYNC_SS_COUNT 6 k 1)
    (oncePerSecond (0x0A0600 + k) (.get fun s => emit 0x0A06 6 [.num 8 s.sync.dt]))

/-- Evaluate an edge at E against a release time T: outside the window, too soon, or accepted. The first accepted one
fixes the boundary. -/
def judgeEdge (e : Nat) : Eff :=
  .get fun s =>
    match s.sync.t with
    | none => modSync fun y => { y with held := y.held ++ [e] }
    | some t =>
      if t + ssWindow s < e then modSync fun y => { y with held := y.held ++ [e] }
      else if e + ssWindow s < t then edgeIgnored 1
      else if (match s.sync.lastAccepted with
          | some l => decide (e < l + 1750 * rfld s .SYNC_SS_MIN_PERIOD 6 0 23 0)
          | none => false) then edgeIgnored 2
      else Eff.all [
        incR .SYNC_SS_COUNT 6 0 1,
        setR .SYNC_LAST_EDGE 6 0 e,
        modSync fun y => { y with lastAccepted := some e },
        Eff.when (s.sync.edge.isNone && !s.sync.release.active) (.seq
          (modSync fun y => { y with edge := some e })
          (sendRelease (max t (max e s.sync.tk + syncLead s))))]

/-- T is known once the READY pass has run through: the step master evaluates the edges that came before, and every
other module joins the RELEASE pass. -/
def learnT : Eff :=
  .get fun s => Eff.when (s.sync.ready.active && s.sync.ready.done && s.sync.t.isNone) (.seq
    (modSync fun y => { y with t := some y.ready.value, tk := y.dt })
    (Eff.when (ssUsed s) (
      if ssMaster s then .seq (modSync fun y => { y with held := [] }) (Eff.each s.sync.held judgeEdge)
      else sendRelease 0)))

/-! ## READY and RELEASE (R427, R428, R436) -/

/-- The module is ready for the next release: it proposes its time and LEAD. -/
def becomeReady : Eff :=
  .get fun s =>
    let req := b2n (rbit s .SYS_MODE 6 0 0)
    Eff.when (alive s 4 && progLoaded s && s.sync.readyAt.isNone && notReady s = 0) (Eff.all [
      modSync fun y => { y with readyAt := some y.dt },
      startPass .ready s.cp.released (s.sync.dt + syncLead s) req req (b2n (ssMaster s)),
      learnT])
def execBarrierReady (s : State) : Host.Outcome State Fault Refusal := done becomeReady s

/-- Whether a packet is one of a barrier pass: kind 1 READY, 2 RELEASE. -/
def isPass (kind : Nat) (p : Packet) : Bool := p.cls = 2 && p.stream = 0xFFFE && leNat ((p.payload.drop 1).take 1) = kind
def readyArrive : Eff := takeEjected (isPass 1) fun p => .seq (passArrive .ready p) learnT
def execReadyPacket (s : State) : Host.Outcome State Fault Refusal := done readyArrive s
def releaseArrive : Eff := takeEjected (isPass 2) fun p => .seq (passArrive .release p) learnB
def execReleasePacket (s : State) : Host.Outcome State Fault Refusal := done releaseArrive s

/-- A confirmed edge of the input: it reads asserted from now, after at least 1 µs deasserted, for 64 cc. Only the step
master looks at it. -/
def edgeRow : Eff :=
  .get fun s =>
    let e := s.sync.dt
    Eff.all [
      modSync fun y => { y with ssLevel := true, ssSince := s.cc },
      advance 64,
      Eff.when (alive s 4 && ssMaster s) (if rbit s .SYNC_STATUS 6 0 30 then edgeIgnored 3 else judgeEdge e)]
def execStepSyncEdge (s : State) : Host.Outcome State Fault Refusal := done edgeRow s

/-- The input stays asserted for 100 ms. -/
def stuckRow : Eff :=
  .get fun s =>
    let since := if s.sync.ssLevel then s.sync.ssSince else s.cc
    Eff.all [
      modSync fun y => { y with ssLevel := true, ssSince := since },
      advanceTo (since + 175000000),
      Eff.when (alive s 4 && ssMaster s && !rbit s .SYNC_STATUS 6 0 30) (Eff.all [
        putR .SYNC_STATUS 6 0 30 30 1,
        setFault .SYNC_FAULT 6 5,
        .get fun s => emit 0x0A07 6 [.num 8 s.sync.dt]])]
def execStepSyncStuck (s : State) : Host.Outcome State Fault Refusal := done stuckRow s

/-- The input goes low and stays so for 1 ms. -/
def unstuckRow : Eff :=
  Eff.all [modSync fun y => { y with ssLevel := false }, advance 1750000, putR .SYNC_STATUS 6 0 30 30 0]
def execStepSyncUnstuck (s : State) : Host.Outcome State Fault Refusal := done unstuckRow s

/-- No accepted edge by T + W. -/
def noEdgeRow : Eff :=
  .get fun s =>
    match s.sync.t with
    | none => .skip
    | some t => Eff.when (ssUsed s && ssMaster s && s.sync.edge.isNone && !s.sync.release.active) (Eff.all [
        advanceDt (t + ssWindow s),
        incR .SYNC_SS_COUNT 6 4 1,
        setFault .SYNC_FAULT 6 6,
        .get fun s => emit 0x0A08 6 [.num 8 s.sync.dt],
        sendRelease (t + ssWindow s + syncLead s)])
def execNoEdge (s : State) : Host.Outcome State Fault Refusal := done noEdgeRow s

/-! ## Release (R430, R431, R417; 07 R258-R260; 10 R388) -/

/-- The clamped fields of a block: counted, and the first 16 recorded. -/
def clampRecords (n : Nat) (cs : List (Nat × Nat × Nat)) : Eff :=
  .seq
    (Eff.when (!cs.isEmpty) (.seq (setFaultBoth .UPD_FAULT 4 5 0) (incR .UPD_CLAMP_COUNT 4 0 cs.length)))
    (Eff.each (cs.take 16) fun (off, w, e) => .get fun s =>
      emit 0x0440 4 (updItems s n none none none none ++ [.num 8 off, .num 8 w, .num 8 e]))

/-- The pending block becomes the effective block of step n. -/
def takeBlock (n : Nat) : Eff :=
  .get fun s =>
    let c := s.img.content
    let (bs, cs) := effectiveSpb (leBytes 8448 s.upd.pending) s.upd.lastStep c.lsMin c.lsMax c.lsInterval
    let step := leNat (bs.take 8)
    let ls := leNat ((bs.drop 12).take 4)
    Eff.all [
      modStep n fun t => { t with released := true, stepNo := step, spb := leNat bs },
      modUpd fun u => { u with lastStep := some step },
      setR .UPD_STEP 4 0 step,
      putR .UPD_STATUS 4 0 28 28 0,
      raiseVec 1,
      clampRecords n cs,
      Eff.when (bit ls 31) (setScale n (sbyte (bits ls 7 0)) (bits ls 23 8))]

/-- REPRO takes the value that every module of the job requests; when they differ it stays. -/
def takeRepro : Eff :=
  .get fun s =>
    let m := s.sync.ready
    if m.orv = m.andv then
      Eff.when (reproOn s != (m.orv = 1)) (.seq (putR .SYS_MODE 6 0 31 31 m.orv) (emit 0x0A09 6 [.num 8 s.sync.dt]))
    else .seq (setFault .SYNC_FAULT 6 7) (emit 0x0A0A 6 [.num 8 s.sync.dt])

/-- The banks of the group table exchange roles at the step named, or at the next one when that has passed. -/
def takeGroups (n : Nat) : Eff :=
  .get fun s => Eff.when (rbit s .COL_GROUP_CTRL 6 0 31 && decide (rget s .COL_GROUP_SWAP_STEP 6 0 ≤ (stepOf s n).stepNo)) (.seq
    (modR .COL_GROUP_CTRL 6 0 fun w => putBits (putBits w 31 31 0) 30 30 (1 - bits w 30 30))
    (emit 0x0704 6 [naItem 2, naItem 2, .num 8 (stepOf s n).stepNo, naItem 4]))

/-- Release n: everything R430 lists, in one cc. -/
def releaseStep (n : Nat) (late : Bool) : Eff :=
  Eff.all [
    takeBlock n,
    takeRepro,
    .get fun s => setR .DIG_SEED_ACTIVE 6 0 (rget s .DIG_SEED 6 0),
    takeGroups n,
    .get fun s =>
      let y := s.sync
      let aligned := ssUsed s && (match y.edge, y.b with
        | some e, some b => b = e + syncLead s
        | _, _ => false)
      .seq (setR .SYNC_LAST_RELEASE 6 0 y.dt) (modStep n fun t =>
        { t with seed := rget s .DIG_SEED 6 0, releaseDt := y.dt, repro := reproOn s, aligned := aligned, lateRelease := late }),
    Eff.when late (.seq (setFault .SYNC_FAULT 6 3) (.get fun s => emit 0x0A04 6 [.num 8 s.sync.dt])),
    modCp fun c => { c with released := n + 1, deadline := 0, firstBlock := false },
    modSync fun y =>
      { y with readyAt := none, t := none, b := none, edge := none, warned := false,
               ready := { early := y.ready.early.filter fun e => n < e.1 / 4 },
               release := { early := y.release.early.filter fun e => n < e.1 / 4 } },
    Eff.each allQueues fun (d, q) => stepProceed d q]

/-- The release at T, or at B where STEP_SYNC is in use; at once, and late, when it was learnt too late. -/
def barrierRow : Eff :=
  .get fun s =>
    match (if ssUsed s then s.sync.b else s.sync.t) with
    | none => .skip
    | some at_ =>
      Eff.when s.sync.t.isSome
        (.seq (advanceDt at_) (releaseStep s.cp.released (decide (at_ < if ssUsed s then s.sync.bk else s.sync.tk))))
def execBarrierRelease (s : State) : Host.Outcome State Fault Refusal := done barrierRow s

/-- Ready for SYNC_BARRIER_WARN µs without a release. The modules heard from are those of the mask of the present stage;
each is ready, so its NOT_READY is 0. -/
def warnRow : Eff :=
  .get fun s =>
    let us := rfld s .SYNC_BARRIER_WARN 6 0 31 0
    match s.sync.readyAt with
    | none => .skip
    | some r => Eff.when (us != 0 && !s.sync.warned) (Eff.all [
        advanceDt (r + 1750 * us),
        modSync fun y => { y with warned := true },
        setFault .SYNC_FAULT 6 4,
        .get fun s =>
          let m := s.sync.ready
          let own := (stageGroup s m.stage).pos
          emitList 0x0A05 6 [.num 8 s.sync.dt] (((setBits m.mask 64).filter (· != own)).map fun _ => leBytes 8 0)])
def execBarrierWarnExpire (s : State) : Host.Outcome State Fault Refusal := done warnRow s

/-! ## Alignment (R422, R423) -/

/-- Port toward the master of a module that follows one. -/
def parentPort (s : State) : Option Nat :=
  let p := rfld s .SYNC_CTRL 6 0 2 0
  if !syncMaster s && p < 6 && portUp s p then some p else none

/-- Every 1 ms a PROBE leaves toward the master. -/
def probeTimer : Eff :=
  .get fun s => Eff.opt (parentPort s) fun p => Eff.all [
    advanceDt s.sync.nextProbe,
    sendCtrl p (probeBytes 0),
    modSync fun y => { y with nextProbe := y.dt + 1750000 }]
def execSyncProbeTimer (s : State) : Host.Outcome State Fault Refusal := done probeTimer s

/-- A PROBE is answered in the 64th slot after the one it came in. -/
def probeRow (p count link : Nat) : Eff :=
  ctrlFlit p (probeBytes count) link <| .get fun s => Eff.when (portUp s p) (sendCtrlAt p (slotNow s + 64) (echoBytes count 0))
def execProbeFlit (p : Fin 6) (flit : BitVec 64 × BitVec 64) (s : State) : Host.Outcome State Fault Refusal :=
  done (probeRow p flit.1.toNat flit.2.toNat) s

/-- A quotient rounded to nearest, ties to even. -/
def nearestEven (a : Int) (b : Nat) : Int :=
  let q := a / b; let r := a % b
  if 2 * r < b then q else if 2 * r > b then q + 1 else if q % 2 = 0 then q else q + 1

/-- k and eps of an ECHO: twice the offset in slots is 2 (c_e - c_r) + (c_r - c_p - 64); 1.12 cc are 28/25 of one and 70 cc
a period. eps is answered in 25ths of a cc. -/
def offsetOf (cp ce cr : Nat) : Int × Int :=
  let th2 : Int := 2 * ((ce : Int) - cr) + ((cr : Int) - cp - 64)
  let k := nearestEven th2 125
  (k, 14 * th2 - 1750 * k)

/-- DT moves by whole SYNC_REF periods. -/
def moveDt (k : Int) : Eff := modSync fun y => { y with dt := (((y.dt : Int) + 70 * k) % 2 ^ 64).toNat }

/-- An ECHO from the parent: lock, realign, or report an alignment error. -/
def echoRow (p sent count link : Nat) : Eff :=
  ctrlFlit p (echoBytes sent count) link <| .get fun s => Eff.when (parentPort s = some p && s.sync.probeSlot = some sent) (
    let (k, e25) := offsetOf sent count (slotNow s)
    let eps := nearestEven e25 25
    let rec_ (t : Nat) : Eff := .get fun s =>
      emit t 6 ([.num 8 s.sync.dt] ++ if t = 0x0A00 then [.num 8 (k % 2 ^ 64).toNat, .num 8 (eps % 2 ^ 64).toNat] else [])
    Eff.all [
      modSync fun y => { y with probeSlot := none },
      putR .NET_PORT_STATUS 6 p 25 16 ((slotNow s - sent - 64) / 2),
      setR .SYNC_RESIDUAL 6 0 ((k % 2 ^ 16).toNat * 2 ^ 16 + (eps % 2 ^ 16).toNat),
      if -500 ≤ e25 ∧ e25 ≤ 500 then
        (if !rbit s .SYNC_STATUS 6 0 31 then Eff.all [moveDt k, putR .SYNC_STATUS 6 0 31 31 1, rec_ 0x0A00]
        else Eff.when (k != 0) (Eff.all [moveDt k, setFault .SYNC_FAULT 6 0, rec_ 0x0A01]))
      else Eff.all [putR .SYNC_STATUS 6 0 31 31 0, setFault .SYNC_FAULT 6 1, rec_ 0x0A02]])
def execEchoFlit (p : Fin 6) (sent : BitVec 64) (flit : BitVec 64 × BitVec 64) (s : State) : Host.Outcome State Fault Refusal :=
  done (echoRow p sent.toNat flit.1.toNat flit.2.toNat) s

/-! ## Step records (R449-R454) -/

/-- Every idle counter, in the order of R451. -/
def idleList (s : State) : List Nat :=
  countedUnits.flatMap fun k => (List.range 9).map fun c => let (r, d, i) := idleReg k c; rget s r d i

/-- Whether every command of step n has completed or been skipped; on COMMIT, with no signal on its way, so that every update
flag of the step is set (01 R47). -/
def stepOver (s : State) (n : Nat) : Bool :=
  (liveQueues s).all (fun (d, q) => let u := queueOf s d q; decide (n < u.step) || (u.step = n && u.atEnd)) &&
    (s.cp.flights.all fun f => f.sq != n) && (verdictOf s n != some 0 || s.cp.signals.isEmpty)

def skipBytes (e : SkipEnt) : List Byte :=
  leBytes 4 e.seq ++ leBytes 1 e.die ++ leBytes 1 e.q ++ leBytes 1 e.op ++ leBytes 1 e.code ++
    leBytes 4 (e.pos % 2 ^ 20 + b2n e.late * 2 ^ 31) ++ leBytes 4 e.count
def mirrorEntry (e : Mirror) : List Byte :=
  leBytes 1 e.slot ++ leBytes 1 e.group ++ leBytes 1 e.stride ++ leBytes 1 e.code ++ leBytes 8 e.mask ++
    leBytes 2 e.stream ++ leBytes 2 0
def fillTo (n : Nat) (bs : List Byte) : List Byte := bs.take n ++ List.replicate (n - bs.length) 0#8
/-- Digest slots of a step's bank with COUNT above 0, ascending. -/
def slotEntries (s : State) (n : Nat) : List (Nat × DigSlot) :=
  (List.range 256).filterMap fun i =>
    let x : DigSlot := mget {} s.dig.slots (digKey n i)
    if 0 < x.count then some (i, x) else none
def slotBytes (e : Nat × DigSlot) : List Byte :=
  leBytes 1 e.1 ++ leBytes 1 (b2n e.2.poison) ++ leBytes 2 0 ++ leBytes 4 e.2.count ++ leBytes 32 e.2.sum

/-- The identity key pair (12 R467). -/
def identityPair : List Byte × List Byte := Config.falconKeygen (shake256 (ascii "ZARIUS-D" ++ Config.deviceSecret) 64)

/-- FLAGS of the record of step n. -/
def recordFlags (s : State) (n : Nat) (unsigned : Bool) : Nat :=
  let t := stepOf s n
  b2n t.repro + 2 * b2n t.aligned + 4 * b2n (s.dig.seq = 0) + 8 * b2n unsigned +
    16 * b2n ((t.skips.map (·.count)).foldl (· + ·) 0 < t.skipTotal) + 32 * b2n t.lateRelease + 64 * b2n s.dig.lost +
    128 * b2n t.mirrorFull

/-- The record of step n before its signature (R450). -/
def recordBody (s : State) (n : Nat) (unsigned : Bool) : List Byte :=
  let t := stepOf s n
  let slots := slotEntries s n
  let idle := (idleList s).zipIdx.map fun (v, i) => (v + 2 ^ 48 - s.dig.idle.getD i 0) % 2 ^ 48
  leBytes 4 0x5A535243 ++ leBytes 2 1 ++ leBytes 2 slots.length ++ leBytes 4 (21112 + 40 * slots.length) ++
    leBytes 4 (recordFlags s n unsigned) ++ leBytes 32 s.dig.prev ++ leBytes 8 s.dig.seq ++ leBytes 8 t.stepNo ++
    shake256 (ascii "ZARIUS-I" ++ identityPair.1) 32 ++ leBytes 32 (rget s .IMG_DIGEST 8 0) ++
    leBytes 32 s.cp.progDigest ++ leBytes 8 t.seed ++ leBytes 8 t.releaseDt ++ leBytes 8 s.sync.dt ++
    leBytes 1 (t.verdict.getD 0) ++ leBytes 1 t.contrib ++ leBytes 1 (ofSbyte t.lsExp) ++ leBytes 1 t.mirrors.length ++
    leBytes 4 t.skipTotal ++ leBytes 2 (nodeId s) ++ leBytes 1 (nodePart s) ++ leBytes 1 (b2n s.fuses.gradeS) ++
    List.replicate (0x200 - 0xC4) 0#8 ++ leBytes 8448 t.spb ++
    fillTo 1024 (t.skips.flatMap skipBytes) ++ fillTo 128 (t.mirrors.flatMap mirrorEntry) ++
    idle.flatMap (leBytes 6) ++ slots.flatMap slotBytes

/-- RD of R452. -/
def recordDigest (body : List Byte) : List Byte := shake256 (ascii "ZARIUS-R" ++ body) 32

/-- Compose, sign and verify the record of the next step; a signature that fails twice leaves it unsigned. -/
def composeRecord : Eff :=
  .get fun s =>
    let n := s.dig.nextStep
    let t := stepOf s n
    Eff.when (progLoaded s && t.verdict.isSome && stepOver s n && s.dig.waiting.isNone) (
      let body := recordBody s n false
      let rd := recordDigest body
      let sig1 := Config.falconSign identityPair.2 rd s.freeCtr
      let sig2 := Config.falconSign identityPair.2 rd (s.freeCtr + 1)
      let ok (g : List Byte) : Bool := Config.falconVerify identityPair.1 rd g
      let bad := !ok sig1 && !ok sig2
      let body' := if bad then recordBody s n true else body
      let rd' := if bad then recordDigest body' else rd
      let sig := if ok sig1 then sig1 else if ok sig2 then sig2 else List.replicate 1280 0#8
      Eff.all [
        .act .free, .act .free,
        Eff.when bad (.seq (setFault .DIG_FAULT 6 2) (emit 0x0803 6 [])),
        setR .DIG_LAST_DIGEST 6 0 (leNat rd'),
        modDig fun d =>
          { d with waiting := some ⟨n, d.seq, t.stepNo, body' ++ fillTo 1280 sig⟩, nextStep := n + 1, seq := d.seq + 1,
                   prev := leNat rd', idle := idleList s,
                   slots := mkeep (fun k => k / 256 != n % 2) d.slots }])
def execStepRecordCompose (s : State) : Host.Outcome State Fault Refusal := done composeRecord s

/-- A record that cannot be written is lost. -/
def recordLost : Eff :=
  Eff.all [
    modDig fun d => { d with waiting := none, lost := true },
    incR .DIG_OVERRUN_COUNT 6 0 1, setFault .DIG_FAULT 6 1, emit 0x0802 6 []]

/-- The waiting record goes to its ring entry once HOLD permits. -/
def ringWrite : Eff :=
  .get fun s =>
    match s.dig.waiting with
    | none => .skip
    | some r =>
      let n := rfld s .DIG_RING_CTRL 6 0 10 0
      let base := rfld s .DIG_RING_BASE 6 0 47 15 * 32768
      let ack := rget s .DIG_RING_ACK 6 0
      -- ACK + 1, where all ones stand for -1
      let acked := (ack + 1) % 2 ^ 64
      if n = 0 || !inMemory s base (base + 32768 * n) then recordLost
      else Eff.when (!rbit s .DIG_RING_CTRL 6 0 31 || decide (r.seq < acked + n)) (Eff.all [
        writeBytes (base + 32768 * (r.seq % n)) r.bytes,
        setR .DIG_RING_HEAD 6 0 r.seq,
        emit 0x0800 6 [.num 8 r.seq, .num 8 r.stepNo, .num 8 (r.seq % n)],
        raiseVec 10,
        modDig fun d => { d with waiting := none, lost := false }])
def execRecordRingWrite (s : State) : Host.Outcome State Fault Refusal := done ringWrite s

end Sys2Proof.Machine
end

