-- ==== Sys2Proof/Machine/ExecPower.lean ====
section
/-!
DEFINITION. Power, thermal control, the gate and clocks (14 R518-R541).
-/
namespace Sys2Proof.Machine

/-! ## Supplies (R518-R525) -/

/-- VIN_44 leaves its range: a full reset that holds, its fault bit and record. -/
def inputFault (lvl : Vin) (mv : Nat) (s : State) : State :=
  let s1 := (modPow fun p => { p with vinMv := mv }).run s
  if lvl = .inRange then s1
  else if s.pow.vin != .inRange then (modPow fun p => { p with vin := lvl }).run s1
  else
    let s2 := (modPow fun p => { p with vin := lvl, aonLost := decide (p.vbakMv < 2500) }).run s1
    (Eff.all [
      setFault .PWR_FAULT 8 (if lvl = .under then 0 else 1),
      emit 0x0200 8 [.num 8 mv, .num 8 (if lvl = .under then 38500 else 52000)]]).run (requestReset 1 1 false s2)
def execPwrInputFault (lvl : Vin) (mv : Nat) (s : State) : Host.Outcome State Fault Refusal := .next (inputFault lvl mv s)

/-- VIN_44 is back: the held reset counts its first row. -/
def inputBack (mv : Nat) : Eff :=
  .get fun s => Eff.when (s.pow.vin != .inRange && !s.pow.aonLost)
    (.seq (modPow fun p => { p with vin := .inRange, vinMv := mv }) restartRowOne)
def execInputBackInRange (mv : Nat) (s : State) : Host.Outcome State Fault Refusal := done (inputBack mv) s

/-- VBAK_LOW, once for each fall. -/
def vbakFall : Eff := Eff.all [
  modPow fun p => { p with vbakLow := true }, setFault .PWR_FAULT 8 2, emit 0x0202 8 []]
def vbakRow (mv : Nat) : Eff :=
  .get fun s => Eff.all [
    modPow fun p => { p with vbakMv := mv, aonLost := p.aonLost || (decide (mv < 2500) && p.vin != .inRange),
                             vbakLow := p.vbakLow && decide (mv < 2700) },
    Eff.when (decide (mv < 2700) && !s.pow.vbakLow) vbakFall]
def execPwrVbakLow (mv : Nat) (s : State) : Host.Outcome State Fault Refusal := done (vbakRow mv) s

/-- Neither supply holds the AON domain any more. -/
def execAonSupplyLost (s : State) : Host.Outcome State Fault Refusal :=
  done (Eff.when (s.pow.vin != .inRange) (modPow fun p => { p with aonLost := true })) s

/-- A supply returns after both were absent: the AON power-on reset. -/
def aonReset (vin : Bool) (mv : Nat) (s : State) : State :=
  if !s.pow.aonLost then s
  else
    let p := s.pow
    let fresh : Pow := { vin := if vin then .inRange else .under, vinMv := p.vinMv, vbakMv := mv, straps := p.straps,
                         syncRef := p.syncRef, refclk := p.refclk, xtal := true, temps := p.temps }
    (Eff.when (decide (mv < 2700)) vbakFall).run (assertReset 0 1 true false ((modPow fun _ => fresh).run s))
def execAonPowerOnReset (vin : Bool) (mv : Nat) (s : State) : Host.Outcome State Fault Refusal := .next (aonReset vin mv s)

/-- A rail fault: a full reset, power off and on again, the fault latched and recorded; the first one latched stands
until RAIL is cleared. -/
def railFault (d rail kind : Nat) (s : State) : State :=
  (Eff.all [
    setFault .PWR_FAULT 8 3,
    modR .PWR_RAIL_FAULT 8 0 fun w => if bit w 31 then w else 2 ^ 31 + kind * 2 ^ 8 + d,
    modRst fun r => { r with badRail := d + 1 },
    emit 0x0201 8 [.num 8 d, .num 8 rail, .num 1 kind]]).run (requestReset 1 1 false s)
def execPwrRailFault (d : Fin 30) (rail kind : Fin 4) (s : State) : Host.Outcome State Fault Refusal :=
  .next (railFault d rail kind s)

/-- Domains that report power good (PWR_DOMAINS): every one; the AON domain alone while the input is out of range or a
trip cools; domains 0-3 in recovery mode with the rail of a higher domain faulty. -/
def poweredDomains (s : State) : Nat :=
  if s.pow.aonLost then 0
  else if s.pow.vin != .inRange || s.pow.tripped then 1
  else if inRecovery s && 5 ≤ s.rst.badRail then 0xF
  else 2 ^ 30 - 1

/-! ## The gate level (R533, R535) -/

def thermalLevel (s : State) : Nat := rfld s .THM_STATUS 8 0 19 16
def powerLevel (s : State) : Nat := if s.pow.holdEnd != 0 then 15 else s.pow.pLevel
def gateLevel (s : State) : Nat := rfld s .THM_STATUS 8 0 23 20

/-- The gate level follows the two levels; its first change in each second is recorded, and GATING set when it rises
above 0. -/
def regate : Eff :=
  .get fun s =>
    let l := max (thermalLevel s) (powerLevel s)
    .seq (putR .PWR_STATUS 8 0 3 0 (powerLevel s)) (Eff.when (l != gateLevel s) (Eff.all [
      putR .THM_STATUS 8 0 23 20 l,
      Eff.when (gateLevel s = 0) (setFault .THM_FAULT 8 1),
      oncePerSecond 0x0209 (emit 0x0209 8 [.num 1 (thermalLevel s), .num 1 (powerLevel s)])]))

/-! ## Input power (R526) -/

def powerCap (s : State) : Nat := rfld s .PWR_CAP 8 0 15 0

/-- The level of the power controller after a window. -/
def levelAfter (w cap run level : Nat) : Nat × Nat :=
  if cap < w then (min 15 (level + 1), 0)
  else if 100 * w < 95 * cap then (if 9 ≤ run then level - 1 else level, min 10 (run + 1))
  else (level, 0)

/-- A 1 ms window ends. -/
def windowRow (w : Nat) : Eff :=
  .get fun s =>
    let ms := max (s.pow.windowAt + 1) (ceilDiv (s.cc - s.pow.aonAt) 1750000)
    Eff.all [
      advanceTo (s.pow.aonAt + ms * 1750000),
      incR64 .PWR_ENERGY 8 0 w,
      modPow fun p => { p with windowAt := ms },
      Eff.when (alive s 2) (
        let (l, run) := levelAfter w (powerCap s) s.pow.capRun s.pow.pLevel
        Eff.all [
          putR .PWR_POWER 8 0 31 16 w, putR .PWR_POWER 8 0 15 0 w,
          Eff.when (decide (powerCap s < w) && !s.pow.capOver) (.seq
            (setFault .PWR_FAULT 8 4) (emit 0x0203 8 [.num 8 w, .num 8 (powerCap s)])),
          modPow fun p => { p with pLevel := l, capRun := run, capOver := decide (powerCap s < w) },
          regate])]
def execPowerWindow (w : Nat) (s : State) : Host.Outcome State Fault Refusal := done (windowRow w) s

/-- Input current in A above the hard limit of the grade: level 15 for 10 ms. -/
def hardLimit (amps : Nat) : Eff :=
  .get fun s => .seq (modPow fun p => { p with current := 100 * amps })
    (Eff.when (alive s 2 && decide ((if s.fuses.gradeS then 58 else 70) < amps)) (Eff.all [
      modPow fun p => { p with holdEnd := nowUs s + 10001 },
      setFault .PWR_FAULT 8 5,
      regate]))
def execHardCurrentLimit (amps : Nat) (s : State) : Host.Outcome State Fault Refusal := done (hardLimit amps) s

/-- The hold ends: the level is the controller's own again. -/
def holdEndRow : Eff :=
  .get fun s => Eff.when (s.pow.holdEnd != 0)
    (Eff.all [advanceToUs (s.pow.holdEnd - 1), modPow fun p => { p with holdEnd := 0 }, regate])
def execCurrentLimitHoldEnd (s : State) : Host.Outcome State Fault Refusal := done holdEndRow s

/-! ## Sensors and the thermal controller (R527-R532) -/

def thmTarget (s : State) : Int := rfld s .THM_TARGET 8 0 7 0
def thmWarn (s : State) : Int := rfld s .THM_WARN 8 0 7 0
/-- A reading in units of 0.125 °C. -/
def rawTemp (v : Nat) : Int := if v < 2048 then v else (v : Int) - 4096
/-- What sensor i counts as. -/
def sensorTemp (s : State) (i : Nat) : Int :=
  if s.pow.failed.testBit i then 8 * (thmTarget s + 1) else rawTemp (s.pow.temps.getD i 0 % 4096)
/-- T_j and the sensor that gives it. -/
def junction (s : State) : Int × Nat :=
  (rangeFrom 1 24).foldl (fun a i => if a.1 < sensorTemp s i then (sensorTemp s i, i) else a) (sensorTemp s 0, 0)

/-- Signed temperature of a record. -/
def tempItem (t : Int) : Item := .num 2 (t % 65536).toNat

/-- WARN, once T_j has reached THM_WARN, and again only after it has fallen 3 °C below. -/
def warnCheck : Eff :=
  .get fun s =>
    let (t, i) := junction s
    if 8 * thmWarn s ≤ t ∧ !s.pow.warned then Eff.all [
      modPow fun p => { p with warned := true }, setFault .THM_FAULT 8 0, emit 0x0208 8 [.num 1 i, tempItem t]]
    else Eff.when (t < 8 * (thmWarn s - 3)) (modPow fun p => { p with warned := false })

/-- The sensors are read. -/
def sampleSensors (temps : List (BitVec 12)) : Eff :=
  .get fun s => .seq (modPow fun p => { p with temps := temps.map (·.toNat) }) (Eff.when (alive s 2) warnCheck)
def execSensorSample (temps : List (BitVec 12)) (s : State) : Host.Outcome State Fault Refusal := done (sampleSensors temps) s

/-- 1 ms of the thermal controller. -/
def thermalRow : Eff :=
  .get fun s => Eff.when (alive s 2) (
    let (t, _) := junction s
    let l := thermalLevel s
    let cool := decide (t < 8 * (thmTarget s - 3))
    let l1 := if 8 * thmTarget s < t then min 15 (l + 1) else if cool && decide (9 ≤ s.pow.coolRun) then l - 1 else l
    Eff.all [
      modPow fun p => { p with coolRun := if cool then min 10 (p.coolRun + 1) else 0 },
      putR .THM_STATUS 8 0 19 16 (if s.pow.hot != 0 then max 8 l1 else l1),
      regate])
def execThermalTick (s : State) : Host.Outcome State Fault Refusal := done thermalRow s

/-- A package that reports hot raises memory-hot. -/
def memHot (pkg : Nat) : Eff :=
  .get fun s => Eff.when (rbit s .MEM_PKG_STATUS (4 + pkg / 8) (pkg % 8) 29 && !s.pow.hot.testBit pkg) (Eff.all [
    modPow fun p => { p with hot := p.hot ||| 2 ^ pkg },
    setFault .THM_FAULT 8 2,
    emit 0x020A 8 [.num 1 pkg],
    putR .THM_STATUS 8 0 19 16 (max 8 (thermalLevel s)),
    regate])
def execThmMemHot (pkg : Fin 16) (s : State) : Host.Outcome State Fault Refusal := done (memHot pkg) s

/-- A sensor fails until the next reset of scope 0-2. -/
def sensorFail (i : Nat) : Eff :=
  .get fun s => Eff.when (!s.pow.failed.testBit i) (Eff.all [
    modPow fun p => { p with failed := p.failed ||| 2 ^ i },
    setFault .THM_FAULT 8 4,
    emit 0x020C 8 [],
    Eff.when (alive s 2) warnCheck])
def execThmSensorFail (i : Fin 28) (s : State) : Host.Outcome State Fault Refusal := done (sensorFail i) s

/-- A trip: full reset with cause 0x06, power off, TRIP held in the AON domain. -/
def tripRun (i : Nat) (v : Nat) (s : State) : State :=
  let t := rawTemp v
  if t < (if i < 24 then 115 * 8 else 125 * 8) then s
  else
    (Eff.all [
      modPow fun p => { p with tripped := true },
      setFault .THM_FAULT 8 3,
      setR .THM_TRIP_INFO 8 0 ((t / 8 % 256).toNat * 256 + i),
      emit 0x020B 8 [.num 1 i, tempItem t]]).run (requestReset 1 6 false s)
def execThmTrip (i : Fin 28) (t : BitVec 12) (s : State) : Host.Outcome State Fault Refusal := .next (tripRun i t.toNat s)

/-- A poll while cooling: sensors 20 and 24, then all, below THM_RESUME (85 °C), and the release begins. -/
def cooldownPoll (temps : List (BitVec 12)) : Eff :=
  let cool (i : Nat) : Bool := decide (rawTemp ((temps.getD i 0).toNat) < 85 * 8)
  .get fun s => Eff.when (s.pow.tripped && cool 20 && cool 24 && (List.range 28).all cool) (Eff.all [
    modPow fun p => { p with tripped := false, temps := temps.map (·.toNat) }, restartRowOne])
def execTripCooldownPoll (temps : List (BitVec 12)) (s : State) : Host.Outcome State Fault Refusal := done (cooldownPoll temps) s

/-! ## Gate windows (R534) -/

/-- Whether a command has a part that the gate acts on and that still has work; that of a mover has until it completes. -/
def gatedWork (f : Flight) : Bool := f.units.any fun u => gated u.key && (isMover u.key || decide (u.n < u.total || !u.work.isEmpty))

/-- A window starts: the level takes effect, and the units held in the last one go on. -/
def windowStart : Eff :=
  .get fun s => Eff.when (alive s 4) (
    let next := if s.sync.dt % 65536 = 0 && s.pow.gateAt != s.sync.dt + 1 then s.sync.dt else (s.sync.dt / 65536 + 1) * 65536
    Eff.all [
      advanceDt next,
      .get fun s => modPow fun p => { p with gate := gateLevel s, gateAt := s.sync.dt + 1 },
      .get fun s => Eff.each s.cp.flights fun f => Eff.each (f.units.filter fun u => gated u.key) fun u =>
        .seq (startUnit u.key) (beginStarted u.key)])
def execGateWindowStart (s : State) : Host.Outcome State Fault Refusal := done windowStart s

/-- The held part begins: units with work left start none of it, and their commands carry THROTTLE. -/
def holdStart : Eff :=
  .get fun s => Eff.when (alive s 4 && 0 < s.pow.gate) (.seq
    (advanceDt (s.sync.dt / 65536 * 65536 + 65536 - 4096 * s.pow.gate))
    (modCp fun c => { c with flights := c.flights.map fun f => if gatedWork f then { f with marks := f.marks ||| 2 } else f }))
def execGateHoldStart (s : State) : Host.Outcome State Fault Refusal := done holdStart s

/-! ## Clocks (R538-R540, R549) -/

def refLost : Eff :=
  .get fun s => Eff.when s.pow.syncRef (Eff.all [
    modPow fun p => { p with syncRef := false, holdoverAt := nowUs s },
    putR .CLK_STATUS 8 0 29 29 1,
    setFault .CLK_FAULT 8 0,
    incR .CLK_SYNC_LOSS_COUNT 8 0 1,
    emit 0x0204 8 [],
    Eff.when (alive s 4) (Eff.all [
      putR .SYNC_STATUS 6 0 31 31 0, setFault .SYNC_FAULT 6 2, emit 0x0A03 6 [.num 8 s.sync.dt]])])
def execClkSyncRefLost (s : State) : Host.Outcome State Fault Refusal := done refLost s

def refBack : Eff :=
  .get fun s => Eff.when (!s.pow.syncRef) (Eff.all [
    modPow fun p => { p with syncRef := true },
    putR .CLK_STATUS 8 0 29 29 0,
    setR .CLK_HOLDOVER_US 8 0 (min (2 ^ 32 - 1) (nowUs s - s.pow.holdoverAt)),
    emit 0x0205 8 [.num 8 (nowUs s - s.pow.holdoverAt)]])
def execClkSyncRefBack (s : State) : Host.Outcome State Fault Refusal := done refBack s

/-- The root PLL loses lock with SYNC_REF present. -/
def rootUnlock (s : State) : State :=
  if !(s.pow.rootLock && s.pow.syncRef) then s
  else
    let s1 := (modPow fun p => { p with rootLock := false }).run s
    if starting s then (failStart 6).run s1
    else (.seq (setFault .CLK_FAULT 8 1) (emit 0x0206 8 []) : Eff).run (requestReset 1 4 false s1)
def execClkRootUnlock (s : State) : Host.Outcome State Fault Refusal := .next (rootUnlock s)

/-- A SerDes PLL loses lock: its torus ports fail, its Ethernet port goes down. -/
def serdesLost (l : Nat) : Eff :=
  .get fun s => Eff.when (s.pow.serdes.testBit l) (Eff.all [
    modPow fun p => { p with serdes := p.serdes - 2 ^ l },
    setFault .CLK_FAULT 8 3,
    Eff.each ([0, 2, 4].map (· + l)) fun p => portFail p 1,
    linkDown l])
def execSerdesUnlock (l : Fin 2) (s : State) : Host.Outcome State Fault Refusal := done (serdesLost l) s

/-- It locks again, and its failed ports begin to train. -/
def serdesBack (l : Nat) : Eff :=
  .get fun s => Eff.when (!s.pow.serdes.testBit l) (.seq
    (modPow fun p => { p with serdes := p.serdes ||| 2 ^ l })
    (Eff.each (([0, 2, 4].map (· + l)).filter fun p => portState s p = 4 && alive s (6 + l)) fun p => .seq
      (putR .NET_PORT_STATUS 6 p 31 29 1) (sendCtrl p (helloBytes s p))))
def execSerdesRelock (l : Fin 2) (s : State) : Host.Outcome State Fault Refusal := done (serdesBack l) s

/-- The PCIe link goes down: its record, and a host reset (13 R492). -/
def pcieDown (s : State) : State :=
  if rbit s .HST_LINK 6 0 31 then hostReset 9 ((emit 0x0904 9 []).run s) else s

def refclkLost (s : State) : State :=
  if !s.pow.refclk then s
  else pcieDown ((Eff.all [
    modPow fun p => { p with refclk := false }, setFault .CLK_FAULT 8 2, emit 0x0207 8 []]).run s)
def execClkRefclkLost (s : State) : Host.Outcome State Fault Refusal := .next (refclkLost s)

def execXtalFail (s : State) : Host.Outcome State Fault Refusal :=
  done (Eff.when s.pow.xtal (.seq (modPow fun p => { p with xtal := false }) (setFault .CLK_FAULT 8 4))) s

/-! ## Output pins (R541): true for driven low -/

def thermWarnLow (s : State) : Bool := decide (8 * thmWarn s ≤ (junction s).1) || 0 < gateLevel s
def thermTripLow (s : State) : Bool := s.pow.tripped
def alarmLow (s : State) : Bool :=
  inRecovery s || [(RegName.PWR_FAULT, RegName.PWR_FAULT_IRQ_EN), (.CLK_FAULT, .CLK_FAULT_IRQ_EN), (.THM_FAULT, .THM_FAULT_IRQ_EN)].any
    fun (f, e) => rget s f 8 0 &&& rget s e 8 0 != 0

end Sys2Proof.Machine
end

