-- ==== Sys2Proof/Machine/RegOps.lean ====
section
/-!
DEFINITION. Register accesses by address (00 R8-R15): which register an address names, what a read returns, the
computed views of hardware state, and what a write does.
-/
namespace Sys2Proof.Machine

/-! ## Addresses (00 R8, R9, 01 R21) -/

/-- Die and offset of an address of the control space. -/
def ctlAddr (a : Nat) : Option (Nat × Nat) :=
  let o := a - 0x700000000000
  if a < 0x700000000000 then none
  else if o < 0x10000000 then some (o / 0x4000000, o % 0x4000000)
  else if 0x10000000 ≤ o && o < 0x18000000 then some (4 + (o - 0x10000000) / 0x4000000, o % 0x4000000)
  else if 0x20000000 ≤ o && o < 0x28000000 then some (6 + (o - 0x20000000) / 0x4000000, o % 0x4000000)
  else if 0x30000000 ≤ o && o < 0x34000000 then some (8, o - 0x30000000)
  else none

/-- Words of 4 bytes of a register. -/
def RegName.words (r : RegName) : Nat := ceilDiv r.info.width 32

/-- Entry and byte within it of an offset from a register's first entry. -/
def entryIn (bytes : Nat) : List (Nat × Nat) → Nat → Option (Nat × Nat)
  | [], o => if o < bytes then some (0, o) else none
  | (st, n) :: rest, o =>
    if o / st < n then (entryIn bytes rest (o % st)).map fun (i, b) => (o / st * (rest.map (·.2)).foldl (· * ·) 1 + i, b)
    else none

/-- Whether a block of the table stands in a die's control space; a port's registers stand in the die that holds the
port (09 R382), CMD_LOAD and CMD_PROG_BASE in C0 alone, CMD_FLAG in every die (06 R246). -/
def regInDie (r : RegName) (die idx : Nat) : Bool :=
  if r = .CMD_FLAG then decide (idx < flagCount die) && die < 8
  else if r = .CMD_LOAD || r = .CMD_PROG_BASE then die = 0
  else if r = .RST_GAP then die = 8 && 4 ≤ idx
  else match r.info.space with
    | .cdie => die < 4
    | .mdie => die = 4 || die = 5
    | .ldie => (die = 6 || die = 7) && (match r.info.dims with
      | (256, 6) :: rest => decide (idx / (rest.map (·.2)).foldl (· * ·) 1 % 2 = die - 6)
      | _ => true)
    | .l0 => die = 6
    | .mgmt => die = 8

/-- The register an address names: register, die of the block, entry, byte within it. -/
def regAt (a : Nat) : Option (RegName × Nat × Nat × Nat) :=
  match ctlAddr a with
  | none => none
  | some (die, o) => RegName.all.findSome? fun r =>
    if r.info.off ≤ o then
      match entryIn (4 * r.words) r.info.dims (o - r.info.off) with
      | some (i, b) => if regInDie r die i then some (r, die, i, b) else none
      | none => none
    else none

/-- Whether the block of a register is out of reset. -/
def blockAlive (s : State) (r : RegName) (die : Nat) : Bool :=
  alive s (if r = .CMD_FLAG then dieDomain die else regDomain r die)

/-- Die under which a register is kept: shared registers stand once (06 R231, R246, 07 R294, 09 R382, 10 R414, 13 R517). -/
def keptAt (r : RegName) (die : Nat) : Nat :=
  match r with
  | .CMD_STATUS | .CMD_SKIP_SEQ | .CMD_UMBRA_CFG => 0
  | .UPD_STATUS | .UPD_STEP | .UPD_SPB_DEADLINE | .UPD_LOSS_SCALE | .UPD_LS_CFG | .UPD_LS_INTERVAL | .UPD_CLAMP_COUNT
  | .UPD_SNAP_STATUS => 4
  | .COL_TIMEOUT | .COL_VERDICT_CFG | .COL_VERDICT_SESSION | .COL_VERDICT_TIMEOUT | .COL_GROUP_CTRL | .COL_GROUP_SWAP_STEP
  | .COL_GROUP | .COL_ABORT_COUNT | .COL_MISMATCH_COUNT | .COL_A2A_DROP_COUNT => 6
  | .ETH_PORT_STATUS | .ETH_MAC | .ETH_IP6 | .ETH_TX_BYTES | .ETH_RX_BYTES | .ETH_FEC_CORR | .ETH_RX_DROP_COUNT => die
  | _ =>
    let o := r.info.off
    if r.info.space = .ldie && ((0x800000 ≤ o && o < 0xB00000) || 0xF00000 ≤ o) then 6 else die

/-! ## Views (the fields the tables mark RO that show hardware state) -/

/-- A unit has work of a command in hand; a matrix engine, a tile in one of its stages (03 R120). -/
def unitBusy (s : State) (k : Nat) : Bool := if isEngine k then 0 < tilesIn s k else s.cp.flights.any fun f => f.units.any fun u => u.key = k && !UW.finished f.desc u
/-- Status of a unit: FENCED and BUSY over its stored last kind and retries. -/
def unitStatus (s : State) (r : RegName) (die i k : Nat) : Nat :=
  bits (rget s r die i) 25 0 + b2n (unitBusy s k) * 2 ^ 29 + b2n (unitFenced s k) * 2 ^ 30

/-- CMD_QUEUE_STATUS. -/
def queueStatus (s : State) (die q : Nat) : Nat :=
  let u := queueOf s die q
  let state :=
    if !progLoaded s || u.len = 0 then 0
    else if atBarrier s die q then 4
    else match atHead s die q with
      | some d =>
        if !(openWaits (flagSeen s) d u.step).isEmpty then 2
        else if canStart s die d && !heldBack s die d then 1 else 3
      | none => 1
  u.step % 2 ^ 32 * 2 ^ 32 + state * 2 ^ 29 + b2n u.grouped * 2 ^ 28 + u.group * 2 ^ 24 + u.head % 2 ^ 20

def statSlotView (x : StatSlot) : Nat :=
  x.state * 2 ^ 62 + x.base * 2 ^ 52 + x.rows * 2 ^ 32 + x.cls * 2 ^ 29 + x.xid * 2 ^ 16 + x.xtag

def pfView (s : State) (m n : Nat) : Nat :=
  let p : Prefetch := mget {} s.ms.prefetch (m * 64 + n)
  b2n p.active * 2 ^ 63 + b2n (decide (64 - s.img.content.hintPf ≤ n)) * 2 ^ 62 + b2n (pfWaiting s m n) * 2 ^ 61 +
    p.row % 2 ^ 24 * 2 ^ 24 + (primedOf s m n).length / 4 % 2 ^ 24

/-- Set or clear a field of a stored value. -/
def shown (w hi lo v : Nat) : Nat := putBits w hi lo v

/-- The value a register shows. -/
def readReg (s : State) (r : RegName) (die idx : Nat) : Nat :=
  let w := rget s r (keptAt r die) idx
  match r with
  | .MME_PRESENT => s.fuses.present.getD die 0
  | .MME_ENG_STATUS => unitStatus s r die idx (die * 64 + idx) + b2n ((s.fuses.present.getD die 0).testBit idx) * 2 ^ 31
  | .VEC_UNIT_STATUS => unitStatus s r die idx (die * 64 + 24 + idx)
  | .ROW_ENG_STATUS => unitStatus s r die idx (die * 64 + 28 + idx)
  | .UPD_ENG_STATUS =>
    let k := die * 64 + idx
    let held := s.cp.flights.any fun f => f.units.any fun u => u.key = k && !UW.finished f.desc u && (heldForVerdict s f || u.waits)
    unitStatus s r die idx k + b2n held * 2 ^ 28
  | .ROW_STAT_SLOT => statSlotView (statSlot s die idx)
  | .ROW_STAT_CFG => shown w 26 16 (max (bits w 26 16) (granulesUsed s die))
  | .CMD_QUEUE_STATUS => queueStatus s die idx
  | .CMD_ENG_MAP => match engMap s die idx with
    | some i => 2 ^ 31 + i
    | none => if s.cp.engMode = 1 then ((s.img.content.engMap.getD die []).getD idx none).getD 0 else idx
  | .CMD_FLAG => mget 0 s.flags (die * 4096 + idx)
  | .CMD_TENSOR => (tget s die idx).toNat
  | .MEM_SCRUB_STATUS => shown w 31 0 (passLines s (die - 4) - (mget {} s.ms.scrub (die - 4)).done)
  | .MEM_LOAM_HITS => min (2 ^ 64 - 1) (mget 0 s.ms.loam.hits (die - 4))
  | .MEM_LOAM_MISSES => min (2 ^ 64 - 1) (mget 0 s.ms.loam.misses (die - 4))
  | .NET_PORT_FEC_CORR | .ETH_FEC_CORR =>
    Config.liveCount r.ctorIdx (die * 8 + idx) s.cc % 2 ^ 64
  | .MEM_PF_STATUS => pfView s (die - 4) idx
  | .NET_CTRL => if reproOn s then shown w 0 0 0 else w
  | .NET_FRAME => slotNow s
  | .NET_SLOT_CTRL => shown w 13 0 (reservedSlots s idx (1 - activeBank s idx))
  | .COL_STATUS =>
    b2n (jobHalt s) * 2 ^ 31 + b2n (reproOn s) * 2 ^ 30 + groupBank s * 2 ^ 29 + b2n (unitFenced s (die * 64)) * 2 ^ 28 +
      s.col.ops.length % 2 ^ 16
  | .COL_SEQ_STATUS => shown w 29 29 (b2n (s.col.ops.any fun o => o.started && !o.finished))
  | .SYNC_STATUS =>
    b2n (syncLocked s) * 2 ^ 31 + bits w 30 30 * 2 ^ 30 + b2n s.sync.ssLevel * 2 ^ 29 + notReady s * 2 ^ 16
  | .SYNC_DT => s.sync.dt
  | .RST_GAP => gapOf s idx
  | .IMG_STATUS => shown w 28 28 (b2n (unowned s))
  | .IMG_CMD_STATUS => shown w 31 31 (b2n (s.img.busy != 0))
  | .IMG_STAGE => rdNat s.img.stage (4 * idx) 4
  | .SEC_STATUS =>
    b2n (unowned s) * 2 ^ 31 + bits w 30 30 * 2 ^ 30 + s.fuses.svnFloor % 64 * 2 ^ 16 + s.fuses.revoked % 16 * 2 ^ 8 +
      ((List.range 4).map fun n => b2n (s.fuses.owners.getD n none).isSome * 2 ^ n).foldl (· + ·) 0
  | .SEC_OWNER_HASH => ((s.fuses.owners.getD idx none).getD 0) % 2 ^ 256
  | .SEC_SERIAL => leNat (Config.serial.take 16)
  | .SEC_IDENTITY_CERT => leNat (Config.identityCert.take 3104)
  | .ETH_PORT_STATUS => shown w 28 28 (b2n (s.rst.straps.testBit (die - 6)))
  | .ETH_MAC => macOf (die - 6)
  | .PWR_STATUS =>
    b2n (s.pow.vin = .inRange) * 2 ^ 31 + b2n (decide (2700 ≤ s.pow.vbakMv)) * 2 ^ 30 + b2n (s.pow.vin != .inRange) * 2 ^ 29 + bits w 3 0
  | .PWR_INPUT => s.pow.vinMv % 2 ^ 16 * 2 ^ 16 + s.pow.current % 2 ^ 16
  | .PWR_DOMAINS => poweredDomains s
  | .PWR_VBAK => s.pow.vbakMv % 2 ^ 16
  | .CLK_STATUS =>
    b2n s.pow.rootLock * 2 ^ 31 + b2n s.pow.syncRef * 2 ^ 30 + b2n (!s.pow.syncRef) * 2 ^ 29 + b2n s.pow.refclk * 2 ^ 28 +
      b2n (s.pow.serdes.testBit 0) * 2 ^ 27 + b2n (s.pow.serdes.testBit 1) * 2 ^ 26 + b2n s.pow.xtal * 2 ^ 25
  | .CLK_HOLDOVER_US => if s.pow.syncRef then w else min (2 ^ 32 - 1) (nowUs s - s.pow.holdoverAt)
  | .THM_STATUS =>
    let (t, i) := junction s
    (t / 8 % 256).toNat * 2 ^ 24 + bits w 23 16 * 2 ^ 16 + b2n (s.pow.hot != 0) * 2 ^ 15 + b2n (thermWarnLow s) * 2 ^ 14 + i
  | .THM_SENSOR => b2n (s.pow.failed.testBit idx) * 2 ^ 31 + s.pow.temps.getD idx 0 % 2 ^ 12
  | _ => w

/-! ## Reads (R10, R11, R13) -/

/-- RC fields within the words read clear. -/
def readClear (r : RegName) (die idx mask : Nat) : Eff :=
  let rc := (r.info.fields.filter fun f => f.acc = .RC).foldl (fun m f => m ||| ((2 ^ (f.hi + 1 - f.lo) - 1) * 2 ^ f.lo)) 0 &&& mask
  Eff.when (rc != 0) (modR r (keptAt r die) idx fun w => w - (w &&& rc))

/-- One word: the low word of a two-word register latches the high word, which the next read of the high word returns. -/
def readWord (a : Nat) (k : Nat → Eff) : Eff :=
  .get fun s =>
    match regAt a with
    | none => k 0
    | some (r, die, i, b) =>
      if !blockAlive s r die then k 0
      else
        let v := readReg s r die i
        let w := v / 2 ^ (8 * b) % 2 ^ 32
        .seq (readClear r die i ((2 ^ 32 - 1) * 2 ^ (8 * b))) (
          if r.words = 2 && b = 0 then
            .seq (modHost fun h => { h with shadow := mset 0 h.shadow (a + 4) (v / 2 ^ 32 % 2 ^ 32 + 1) }) (k w)
          else if r.words = 2 && mget 0 s.host.shadow a != 0 then
            .seq (modHost fun h => { h with shadow := mset 0 h.shadow a 0 }) (k (mget 0 s.host.shadow a - 1))
          else k w)

/-- An aligned read of 4 or 8 bytes; 8 bytes of a wider register are read together. -/
def readCtl (a size : Nat) (k : Nat → Eff) : Eff :=
  if size = 8 then .get fun s =>
    match regAt a with
    | some (r, die, i, b) =>
      if b + 8 ≤ 4 * r.words then
        (if blockAlive s r die then .seq (readClear r die i ((2 ^ 64 - 1) * 2 ^ (8 * b))) (k (readReg s r die i / 2 ^ (8 * b) % 2 ^ 64))
         else k 0)
      else readWord a fun lo => readWord (a + 4) fun hi => k (lo + hi * 2 ^ 32)
    | none => readWord a fun lo => readWord (a + 4) fun hi => k (lo + hi * 2 ^ 32)
  else readWord a k

/-! ## Writes (R10, R11) -/

def fieldMask (f : Field) : Nat := (2 ^ (f.hi + 1 - f.lo) - 1) * 2 ^ f.lo
/-- A register after a write of v to the bits of a mask: RW takes the value, W1C clears, W1S sets, the others stay. -/
def writeFields (r : RegName) (w v mask : Nat) : Nat :=
  r.info.fields.foldl (fun w f =>
    let m := fieldMask f &&& mask
    match f.acc with
    | .RW => (w - (w &&& m)) ||| (v &&& m)
    | .W1C => w - (w &&& (v &&& m))
    | .W1S => w ||| (v &&& m)
    | _ => w) w

def clampTo (lo hi v : Nat) : Nat := max lo (min hi v)
/-- Limits that a written value is moved to. -/
def clampReg (s : State) (r : RegName) (w : Nat) : Nat :=
  let atLeastOne (hi lo : Nat) : Nat := if bits w hi lo = 0 then putBits w hi lo 1 else w
  match r with
  | .NET_NODE => if bits w 31 24 = 0xFF then putBits w 31 24 0 else w
  | .NET_CTRL => atLeastOne 15 8
  | .NET_Q_TIMEOUT | .COL_TIMEOUT | .COL_VERDICT_TIMEOUT | .ETH_RTO | .ETH_OPEN_TIMEOUT => atLeastOne 31 0
  | .REC_IRQ_THRESH => atLeastOne 15 0
  | .SYNC_CTRL => if bits w 2 0 = 6 then putBits w 2 0 7 else w
  | .SYNC_LEAD => max 4096 w
  | .SYNC_SS_WINDOW => clampTo 1 4000 w
  | .SYNC_SS_MIN_PERIOD => clampTo 1000 10000000 w
  | .DIG_RING_CTRL => if bits w 10 0 = 1 then putBits w 10 0 2 else if 1024 < bits w 10 0 then putBits w 10 0 1024 else w
  | .IMG_STAGE_LEN => min 16777216 w
  | .PWR_CAP => clampTo 1000 (RegName.PWR_CAP.resetIn s.fuses.gradeS) w
  | .THM_TARGET => clampTo 80 104 w
  | .THM_WARN => clampTo 70 (rget s .THM_TARGET 8 0) w
  | _ => w

/-- A plain write: fields by their access types, then the limits. -/
def plainWrite (r : RegName) (die idx v mask : Nat) : Eff :=
  .get fun s => setR r (keptAt r die) idx (clampReg s r (writeFields r (rget s r (keptAt r die) idx) v mask))

/-- A write to a register (of a value at the bits of a mask), with the action some registers take. `host` is false for
the Onakan core, whose writes to the host-only registers are ignored (12 R470). -/
def writeReg (r : RegName) (die idx v mask : Nat) (host : Bool) (s : State) : State :=
  let plain := plainWrite r die idx v mask
  let given := v &&& mask
  match r with
  | .CMD_LOAD => if bit given 0 then loadRun s else s
  | .CMD_UMBRA_CFG => (umbraWrite given).run s
  | .NET_PORT_CFG => (portWrite idx given).run s
  | .NET_SLOT_CTRL => (slotSwapWrite idx given).run s
  | .NET_RT => if idx / 65536 = rtEpoch s then s else plain.run s
  | .COL_GROUP => if idx / 64 = groupBank s then s else plain.run s
  | .NET_SLOT => if idx / 8192 % 2 = activeBank s (idx / 16384) then s else plain.run s
  | .MEM_TG_CTRL => (tgWrite (die - 4) idx given).run s
  | .RST_CMD =>
    let scope := bits given 2 0
    if bits given 31 16 = 0xA5A5 && 1 ≤ scope && scope ≤ 5 then requestReset scope 3 true s else s
  | .RST_AON => if host then plain.run s else s
  | .IMG_CMD =>
    let op := bits given 3 0
    if host && bits given 31 16 = 0xA5A5 && (op = 1 || op = 2) then
      (if s.img.busy != 0 then imgBusy else modImg fun x => { x with busy := op } : Eff).run s
    else s
  | .SEC_CMD =>
    let op := bits given 3 0
    if !host || bits given 31 16 != 0xA5A5 then s
    else if op = 1 then enrollRun s
    else if op = 2 then revokeRun (bits given 5 4) s
    else if op = 3 then raiseSvnRun s
    else s
  | .IMG_STAGE =>
    if host && s.img.busy = 0 then
      (modImg fun x => { x with stage := wrBytes x.stage (4 * idx) (leBytes 4 given), verified := false }).run s
    else s
  | .IMG_STAGE_LEN =>
    if host && s.img.busy = 0 then (.seq plain (modImg fun x => { x with verified := false }) : Eff).run s else s
  | .ETH_XFER_CMD => (xferStart given).run s
  | .ETH_SESSION_CTRL =>
    let sid := bits given 7 0
    if bits given 31 30 = 1 then (openSession sid).run s else if bits given 31 30 = 2 then (closeSession sid 1).run s else s
  | .ETH_SESSION => if sesState s idx = 0 then plain.run s else s
  | .PWR_FAULT => (Eff.seq plain (Eff.when (bit given 3) (putR .PWR_RAIL_FAULT 8 0 31 31 0))).run s
  | .MEM_FAULT => (Eff.seq plain (Eff.when (bit given 1) (putR .MEM_UE_ADDR die 0 63 63 0))).run s
  | .UPD_FAULT => (Eff.seq plain (modR r (9 - die) 0 fun w => w - (w &&& (given &&& 0x47)))).run s
  | .COL_FAULT => (Eff.seq plain (modR r (13 - die) 0 fun w => w - (w &&& (given &&& 0x7C)))).run s
  | _ => plain.run s

/-- One word: the low word of a two-word register is held until its high word is written; a high word with none held
leaves the low word as it is. -/
def writeWord (a v : Nat) (host : Bool) (s : State) : State :=
  match regAt a with
  | none => s
  | some (r, die, i, b) =>
    if !blockAlive s r die then s
    else if r.words = 2 && b = 0 then
      (modHost fun h => { h with heldLow := mset 0 h.heldLow a (v % 2 ^ 32 + 1) }).run s
    else if r.words = 2 then
      let held := mget 0 s.host.heldLow (a - 4)
      writeReg r die i (held - 1 + v % 2 ^ 32 * 2 ^ 32) (if held = 0 then (2 ^ 32 - 1) * 2 ^ 32 else 2 ^ 64 - 1) host
        ((modHost fun h => { h with heldLow := mset 0 h.heldLow (a - 4) 0 }).run s)
    else writeReg r die i (v % 2 ^ 32 * 2 ^ (8 * b)) ((2 ^ 32 - 1) * 2 ^ (8 * b)) host s

/-- An aligned write of 4 or 8 bytes. -/
def writeCtl (a size v : Nat) (host : Bool) (s : State) : State :=
  if size = 8 then
    match regAt a with
    | some (r, die, i, b) =>
      if b + 8 ≤ 4 * r.words then
        (if blockAlive s r die then writeReg r die i (v % 2 ^ 64 * 2 ^ (8 * b)) ((2 ^ 64 - 1) * 2 ^ (8 * b)) host s else s)
      else writeWord (a + 4) (v / 2 ^ 32) host (writeWord a v host s)
    | none => writeWord (a + 4) (v / 2 ^ 32) host (writeWord a v host s)
  else writeWord a v host s

end Sys2Proof.Machine
end

