-- ==== Sys2Proof/Machine/ExecHost.lean ====
section
/-!
DEFINITION. The host interface, MCTP, the recorder and register accesses (00 R10, R11; 09 R344; 13 R490-R502, R511-R515).
-/
namespace Sys2Proof.Machine

/-! ## The PCIe link (R492) -/

/-- The link comes up at a rate (1-6) and a width; it takes REFCLK, which is there then (assumption 21). -/
def pcieUp (rate width : Nat) (flit : Bool) : Eff :=
  let less := decide (rate < 6) || decide (width < 16)
  .get fun s => Eff.when (alive s 3 && decide (1 ≤ rate ∧ rate ≤ 6) && [1, 2, 4, 8, 16].contains width) (Eff.all [
    Eff.when (!s.pow.refclk) (modPow fun p => { p with refclk := true }),
    setR .HST_LINK 6 0 (2 ^ 31 + b2n flit * 2 ^ 30 + b2n less * 2 ^ 29 + rate * 2 ^ 8 + width),
    emit 0x0900 9 [.num 8 rate, .num 8 width],
    Eff.when less (.seq (setFault .HST_FAULT 6 3) (emit 0x0901 9 []))])
def execHstLinkUp (rate : Fin 8) (width : Fin 32) (flit : Bool) (s : State) : Host.Outcome State Fault Refusal :=
  done (pcieUp rate width flit) s
def execHstLinkDown (s : State) : Host.Outcome State Fault Refusal := .next (pcieDown s)

/-! ## MSI-X (R496) -/

/-- A table entry: address, data (bits 95:64), vector control with its mask bit (96), which stands after a reset. -/
def msixEntry (s : State) (v : Nat) : Nat := mget (2 ^ 96) s.host.msix v
def msixMasked (s : State) (v : Nat) : Bool := (msixEntry s v).testBit 96
/-- Whether a vector is within its holdoff. -/
def heldOff (s : State) (v : Nat) : Bool := decide (nowUs s + 1 < mget 0 s.host.holdoff v)

/-- Write a vector's message and begin its holdoff. -/
def msixWrite (v : Nat) : Eff :=
  .get fun s =>
    let e := msixEntry s v
    let us := rfld s .HST_IRQ_HOLDOFF 6 0 15 0
    .seq (.act (.out (.msix v (e % 2 ^ 64) (bits e 95 64))))
      (modHost fun h => { h with
        holdoff := mset 0 h.holdoff v (if us = 0 then 0 else nowUs s + us + 1)
        pba := if h.pba.testBit v then h.pba - 2 ^ v else h.pba })

/-- A raised vector is sent, or left pending while it is masked or within its holdoff. -/
def sendVec (v : Nat) : Eff :=
  .get fun s => Eff.when (alive s 3 && s.host.raised.testBit v) (.seq
    (modHost fun h => { h with raised := h.raised - 2 ^ v })
    (if msixMasked s v || heldOff s v then modHost fun h => { h with pba := h.pba ||| 2 ^ v } else msixWrite v))
def execMsixSend (vec : Fin 16) (s : State) : Host.Outcome State Fault Refusal := done (sendVec vec) s

/-- The mask or the holdoff of a pending vector has ended. -/
def holdoffEnd (v : Nat) : Eff :=
  .get fun s => Eff.when (alive s 3 && s.host.pba.testBit v && !msixMasked s v) (.seq
    (Eff.when (heldOff s v) (advanceToUs (mget 0 s.host.holdoff v - 1))) (msixWrite v))
def execMsixHoldoffEnd (vec : Fin 16) (s : State) : Host.Outcome State Fault Refusal := done (holdoffEnd vec) s

/-! ## Window A (R494, R495) -/

/-- Bytes a request writes. -/
def Access.bytes (x : Access) : List Byte := (x.data.getD []).take x.size
/-- Answer a host read. -/
def answer (bs : List Byte) (poisoned : Bool) : Eff := .act (.out (.read bs poisoned))

/-- Replace bytes of a list from an offset on; bytes past its end are lost. -/
def splice (l : List Byte) (o : Nat) (bs : List Byte) : List Byte :=
  l.zipIdx.map fun (b, i) => if o ≤ i then bs.getD (i - o) b else b

/-- The MSI-X table as its 256 bytes. -/
def msixBytes (s : State) : List Byte := (List.range 16).flatMap fun v => leBytes 16 (msixEntry s v)
/-- The table from 256 bytes. -/
def msixOf (bs : List Byte) : List (Nat × Nat) :=
  (List.range 16).foldl (fun m v => mset (2 ^ 96) m v (leNat ((bs.drop (16 * v)).take 16) % 2 ^ 97)) []

/-- Bytes of a plain area: a read returns them, 0 past the end. -/
def readArea (l : List Byte) (o n : Nat) : List Byte := (List.range n).map fun i => l.getD (o + i) 0#8

/-- An aligned access of 4 or 8 bytes to a module address of the control space. -/
def regAccess (a : Nat) (x : Access) (s : State) : State :=
  match x.data with
  | none => (readCtl a x.size fun v => answer (leBytes x.size v) false).run s
  | some _ => writeCtl a x.size (leNat x.bytes) true s
def regSized (a size : Nat) : Bool := (size = 4 || size = 8) && a % size = 0

/-- Bytes of the step parameter block are written; a write that reaches SEAL seals it. -/
def stageWrite (o : Nat) (bs : List Byte) : Eff :=
  let n := min bs.length (8448 - o)
  .seq (modUpd fun u => { u with staging := putBits u.staging (8 * (o + n) - 1) (8 * o) (leNat (bs.take n)) })
    (Eff.when (decide (o < 0x100) && decide (0xFC < o + n)) sealSpb)

/-- A request to window A acts. -/
def windowANow (x : Access) (s : State) : State :=
  let o := x.off
  let n := x.size
  let zeros := match x.data with
    | none => (answer (List.replicate n 0#8) false).run s
    | some _ => s
  if !alive s 3 || n = 0 then s
  else if o < 0x10000 then (if regSized o n then regAccess (0x700020E00000 + o) x s else zeros)
  else if o < 0x10000 + 8448 then
    match x.data with
    | none => (answer (leBytes n (s.upd.staging / 2 ^ (8 * (o - 0x10000)))) false).run s
    | some _ => (stageWrite (o - 0x10000) x.bytes).run s
  else if 0x20000 ≤ o && o < 0x20100 then
    match x.data with
    | none => (answer (readArea (msixBytes s) (o - 0x20000) n) false).run s
    | some _ => (modHost fun h => { h with msix := msixOf (splice (msixBytes s) (o - 0x20000) x.bytes) }).run s
  else if 0x20800 ≤ o && o < 0x20808 then
    match x.data with
    | none => (answer (leBytes n (s.host.pba / 2 ^ (8 * (o - 0x20800)))) false).run s
    | some _ => s
  else if 0x100000 ≤ o && o < 0x200000 then
    match x.data with
    | none => (answer (rdBytes s.recd.ring (o - 0x100000) n) false).run s
    | some _ => s
  else if 0x2000000 ≤ o && o < 0x4000000 then
    if regSized o n then
      regAccess (0x700000000000 + rfld s .HST_CTL_WIN 6 0 4 0 * 0x2000000 + (o - 0x2000000)) x s
    else (setFault .HST_FAULT 6 2).run zeros
  else zeros

/-! ## Window B (R498, R499) -/

/-- Some byte of a request lies outside. -/
def outsideAccess (t : Nat) : Eff := Eff.all [
  setFault .HST_FAULT 6 0, incR .HST_OUTSIDE_COUNT 6 0 1, oncePerSecond 0x0902 (emit 0x0902 9 [.num 8 t])]

/-- A read met marked lines: the memory system records each, the host interface the read. -/
def poisonedRead (lines : List Nat) : Eff := Eff.all [
  Eff.each lines fun l => ueLine (256 * l) .host,
  setFault .HST_FAULT 6 1, incR .HST_POISON_COUNT 6 0 1, oncePerSecond 0x0903 (emit 0x0903 9 [])]

/-- Address that a request to window B reaches. -/
def winB (s : State) (x : Access) : Nat := rfld s .HST_WINB_BASE 6 0 47 30 * 2 ^ 30 + x.off
/-- A request to window B reaches T on. -/
def windowBNow (x : Access) : Eff :=
  .get fun s =>
    let t := winB s x
    let inside (i : Nat) : Bool := inStores s (t + i) (t + i + 1)
    let out (n : Nat) : Eff := Eff.when ((List.range n).any fun i => !inside i) (outsideAccess t)
    Eff.when (alive s 3) (
      match x.data with
      | some _ =>
        let bs := x.bytes
        Eff.all [
          writeMem ((byteWrs t bs).zipIdx.filterMap fun (w, i) => if inside i then some w else none),
          incR64 .HST_WINB_WR_BYTES 6 0 bs.length,
          out bs.length]
      | none =>
        let lines := ((List.range (x.size / 256 + 2)).map fun i => t / 256 + i).filter fun l =>
          badLine s l && decide (256 * l < t + x.size) && decide (t < 256 * l + 256)
        Eff.all [
          demand [(t, x.size)],
          answer ((List.range x.size).map fun i => if inside i then rdByte s.mem (t + i) else 0xFF#8) (!lines.isEmpty),
          incR64 .HST_WINB_RD_BYTES 6 0 x.size,
          out x.size,
          Eff.when (!lines.isEmpty) (poisonedRead lines)])
/-- The requests that waited act in their order, up to the first that still waits (R493). -/
def hostGo : List (Bool × Access) → State → State
  | [], s => s
  | (a, x) :: rest, s =>
    if s.host.waiting != (a, x) :: rest || (!a && underTest s (winB s x) x.size) then s
    else
      let s1 := { s with host := { s.host with waiting := rest } }
      hostGo rest (if a then windowANow x s1 else (windowBNow x).run s1)
/-- A request joins those that wait. -/
def hostWait (a : Bool) (x : Access) (s : State) : State :=
  let q := s.host.waiting ++ [(a, x)]
  hostGo q { s with host := { s.host with waiting := q } }
/-- A request to window A; one behind a request that waits waits with it (R493). -/
def windowA (x : Access) (s : State) : State :=
  if alive s 3 && !s.host.waiting.isEmpty then hostWait true x s else windowANow x s
def execHostWindowAAccess (a : Access) (s : State) : Host.Outcome State Fault Refusal := .next (windowA a s)
/-- A request that reaches a channel under test waits until the test ends (08 R326), and the later ones behind it. -/
def windowB (x : Access) (s : State) : State :=
  if alive s 3 && (!s.host.waiting.isEmpty || underTest s (winB s x) x.size) then hostWait false x s else (windowBNow x).run s
def execHostWindowBAccess (a : Access) (s : State) : Host.Outcome State Fault Refusal := .next (windowB a s)

/-- A traffic test ends (08 R327), and what waited for its channel goes on. -/
def testDone (m c : Nat) (fails : List Nat) (s : State) : State :=
  let s1 := (tgDoneRow m c fails).run s
  (xferPump 4096).run (hostGo s1.host.waiting s1)
def execMemTgDone (m : Fin 2) (c : Fin 64) (fails : List Nat) (s : State) : Host.Outcome State Fault Refusal :=
  .next (testDone m c fails s)

/-! ## MCTP (R501, R502) -/

/-- The Onakan core serves MCTP under the image's firmware or in recovery mode. -/
def mctpServed (s : State) : Bool := alive s 2 && alive s 3 && (inRecovery s || imageInForce s)
/-- Answer a request of an endpoint. -/
def reply (src : BitVec 8) (bs : List Byte) : Eff := .act (.out (.mctp src.toNat bs))
/-- A request that is served. -/
def serve (e : Eff) : Eff := .get fun s => Eff.when (mctpServed s) e

def setEid (src eid : BitVec 8) : Eff :=
  serve (if eid = 0 || eid = 0xFF then reply src [0x02#8]
    else .seq (modHost fun h => { h with eid := eid.toNat }) (reply src [0#8, 0#8, eid, 0#8]))
def execSetEndpointId (src eid : BitVec 8) (s : State) : Host.Outcome State Fault Refusal := done (setEid src eid) s

def getEid (src : BitVec 8) : Eff := serve (.get fun s => reply src [0#8, BitVec.ofNat 8 s.host.eid, 0#8, 0#8])
def execGetEndpointId (src : BitVec 8) (s : State) : Host.Outcome State Fault Refusal := done (getEid src) s

/-- The first 16 bytes of SHAKE256 of the serial number. -/
def moduleUuid : List Byte := shake256 (ascii "ZARIUS-U" ++ Config.serial) 16
def getUuid (src : BitVec 8) : Eff := serve (reply src (0#8 :: moduleUuid))
def execGetEndpointUuid (src : BitVec 8) (s : State) : Host.Outcome State Fault Refusal := done (getUuid src) s

/-- Version 1.3 of the base and control messages; that of the vendor messages is open. -/
def getVersion (src msg : BitVec 8) : Eff :=
  serve (if msg = 0xFF || msg = 0 then reply src [0#8, 1#8, 0xF1#8, 0xF3#8, 0xFF#8, 0#8]
    else if msg = 0x7E then drawFree 32 fun v => reply src ([0#8, 1#8] ++ leBytes 4 v)
    else reply src [0x80#8])
def execGetMctpVersionSupport (src msg : BitVec 8) (s : State) : Host.Outcome State Fault Refusal := done (getVersion src msg) s

/-- The message types beside control: 0x7E. -/
def getTypes (src : BitVec 8) : Eff := serve (reply src [0#8, 1#8, 0x7E#8])
def execGetMessageTypeSupport (src : BitVec 8) (s : State) : Host.Outcome State Fault Refusal := done (getTypes src) s

/-- Culeorn's Vendor ID in the one entry, numbered 0; the version of its command set is open. -/
def getVendor (src sel : BitVec 8) : Eff :=
  serve (if sel = 0 then drawFree 16 fun v => reply src ([0#8, 0xFF#8, 0#8, 0x1F#8, 0x7A#8] ++ leBytes 2 v) else reply src [0x02#8])
def execGetVendorDefinedMsgSupport (src sel : BitVec 8) (s : State) : Host.Outcome State Fault Refusal := done (getVendor src sel) s

/-- ERROR_UNSUPPORTED_CMD. -/
def unsupported (src : BitVec 8) : Eff := serve (reply src [0x05#8])
def execMctpUnsupportedCmd (src _cmd : BitVec 8) (s : State) : Host.Outcome State Fault Refusal := done (unsupported src) s

/-- A further request of an endpoint whose request is outstanding. -/
def mctpDrop : Eff :=
  .get fun s => Eff.when (alive s 3) (Eff.all [
    incR .HST_MCTP_DROP_COUNT 6 0 1, setFault .HST_FAULT 6 4, oncePerSecond 0x0905 (emit 0x0905 9 [])])
def execHstMctpDropped (_src : BitVec 8) (s : State) : Host.Outcome State Fault Refusal := done mctpDrop s

/-- A register as it reads, 0 while its block is in reset. -/
def liveReg (s : State) (r : RegName) (die : Nat) : Nat := if blockAlive s r die then readReg s r die 0 else 0
def health (s : State) : List Byte :=
  leBytes 1 0 ++ leBytes 4 (liveReg s .RST_STATUS 8) ++ leBytes 4 (liveReg s .RST_AON 8) ++
    leBytes 1 ((junction s).1 / 8 % 256).toNat ++ leBytes 2 (rfld s .PWR_POWER 8 0 15 0) ++
    leBytes 4 (liveReg s .UPD_STEP 4 % 2 ^ 32) ++ leBytes 8 (liveReg s .REC_HEAD 8)
def getHealth (src : BitVec 8) : Eff := serve (.get fun s => reply src (health s))
def execGetHealth (src : BitVec 8) (s : State) : Host.Outcome State Fault Refusal := done (getHealth src) s

/-- Whole records that fit, from the first wanted on. -/
def recordsFrom (ring : List (Nat × Byte)) : Nat → List (Nat × Nat × Nat × Nat) → List Byte
  | _, [] => []
  | room, (_, off, units, _) :: t =>
    if 32 * units ≤ room then rdBytes ring (32 * off) (32 * units) ++ recordsFrom ring (room - 32 * units) t else []
def recordOldest (s : State) : Nat := rfld s .REC_OLDEST 8 0 63 16
def getRecords (src : BitVec 8) (first most : Nat) : Eff :=
  serve (.get fun s =>
    if 1000 < most then reply src [1#8]
    else reply src (0#8 :: leBytes 6 (recordOldest s - first) ++
      recordsFrom s.recd.ring most (s.recd.live.filter fun e => first ≤ e.1)))
def execReadRecords (src : BitVec 8) (first : BitVec 48) (most : BitVec 16) (s : State) : Host.Outcome State Fault Refusal :=
  done (getRecords src first.toNat most.toNat) s

/-- Read words one after another. -/
def readWords : Nat → Nat → List Byte → (List Byte → Eff) → Eff
  | 0, _, acc, k => k acc
  | n + 1, a, acc, k => readCtl a 4 fun v => readWords n (a + 4) (acc ++ leBytes 4 v) k
def getControl (src : BitVec 8) (a words : Nat) : Eff :=
  serve (.get fun s =>
    if inRecovery s then reply src [3#8]
    else if words = 0 || 64 < words || a % 4 != 0 || (ctlAddr a).isNone then reply src [1#8]
    else readWords words a [0#8] (reply src))
def execReadControl (src : BitVec 8) (addr : BitVec 48) (words : BitVec 8) (s : State) : Host.Outcome State Fault Refusal :=
  done (getControl src addr.toNat words.toNat) s

/-- A reset by MCTP acts as RST_CMD does; busy when that is refused. -/
def mctpResetRun (src : BitVec 8) (scope confirm : Nat) (s : State) : State :=
  if !mctpServed s then s
  else if (scope != 1 && scope != 4) || confirm != 0xA5A5 then (reply src [1#8]).run s
  else if inRecovery s && scope = 4 then (reply src [3#8]).run s
  else
    let refused := s.rst.phase != .idle && decide (s.rst.scope ≤ scope)
    requestReset scope 3 true ((reply src [if refused then 2#8 else 0#8]).run s)
def execMctpReset (src scope : BitVec 8) (confirm : BitVec 16) (s : State) : Host.Outcome State Fault Refusal :=
  .next (mctpResetRun src scope.toNat confirm.toNat s)

/-! ## The recorder (R511-R515) -/

def recHead (s : State) : Nat := rfld s .REC_HEAD 8 0 63 16
def recOff (s : State) : Nat := rfld s .REC_HEAD 8 0 14 0
def recRd (s : State) : Nat := rfld s .REC_RD 8 0 47 0
/-- Units of a record: header and payload. -/
def recUnits (x : Rec) : Nat := min 128 (1 + ceilDiv x.payload.length 32)

/-- A record's bytes under a SEQ. -/
def recBytes (seq : Nat) (x : Rec) : List Byte :=
  let l := recUnits x
  leBytes 8 seq ++ leBytes 8 x.dt ++ leBytes 2 x.typ ++ leBytes 1 l ++ leBytes 1 x.src ++ leBytes 4 x.ms ++ leBytes 8 x.step ++
    fillTo (32 * l - 32) x.payload

/-- Whether units [o, o + n) meet units [p, p + m). -/
def unitsMeet (o n p m : Nat) : Bool := decide (o < p + m) && decide (p < o + n)

def ringPut (off : Nat) (bs : List Byte) : Eff := modRecd fun r => { r with ring := wrBytes r.ring (32 * off) bs }
/-- REC_OLDEST follows the oldest record, or REC_HEAD while there is none. -/
def showOldest : Eff :=
  .get fun s => setR .REC_OLDEST 8 0 (match s.recd.live with
    | (q, off, _, _) :: _ => q * 2 ^ 16 + off
    | [] => rget s .REC_HEAD 8 0)

/-- REC_OLDEST passes the records about to be overwritten; those REC_RD had not reached are lost. -/
def passOld (old : Nat × Nat × Nat × Nat → Bool) : Eff :=
  .get fun s =>
    let gone := s.recd.live.takeWhile old
    let lost := (gone.filter fun e => recRd s ≤ e.1).length
    Eff.when (!gone.isEmpty) (Eff.all [
      modRecd fun r => { r with live := r.live.dropWhile old },
      showOldest,
      Eff.when (lost != 0) (.seq (incR .REC_LOST_COUNT 8 0 lost) (setFault .REC_FAULT 8 0))])

/-- A PAD record over the rest of the ring: TYPE, LEN and SEQ are given, its other bytes are open. -/
def padRecord (seq off units : Nat) : Eff :=
  drawFree (256 * units) fun v =>
    let bs := leBytes (32 * units) v
    ringPut off (leBytes 8 seq ++ ((bs.drop 8).take 8) ++ leBytes 2 0 ++ leBytes 1 units ++ bs.drop 19)

/-- Place a record of L units in the ring. -/
def placeRecord (x : Rec) : Eff :=
  .get fun s =>
    let l := recUnits x
    let (seq, pos) := (recHead s, recOff s)
    let pad := decide (32768 < pos + l)
    let at_ := if pad then 0 else pos
    let old (e : Nat × Nat × Nat × Nat) : Bool :=
      unitsMeet at_ l e.2.1 e.2.2.1 || (pad && unitsMeet pos (32768 - pos) e.2.1 e.2.2.1)
    let thresh := rfld s .REC_IRQ_THRESH 8 0 15 0
    Eff.all [
      Eff.when pad (.seq (passOld fun e => unitsMeet pos (32768 - pos) e.2.1 e.2.2.1) (padRecord seq pos (32768 - pos))),
      passOld old,
      ringPut at_ (recBytes seq x),
      modRecd fun r => { r with live := r.live ++ [(seq, at_, l, nowUs s)] },
      setR .REC_HEAD 8 0 ((seq + 1) * 2 ^ 16 + (at_ + l) % 32768),
      showOldest,
      Eff.when (decide (seq - recRd s < thresh ∧ thresh ≤ seq + 1 - recRd s)) (raiseVec 0)]

/-- The first record of a die's path reaches the recorder. -/
def recordRow (src : Nat) : Eff :=
  .get fun s =>
    match mget [] s.recd.paths src with
    | [] => .skip
    | x :: rest =>
      let r := dieRoute clCoh src 8
      Eff.when (openRoute s r) (Eff.all [
        modRecd fun r => { r with paths := mset [] r.paths src rest }, crossRoute clCoh (32 + x.payload.length) r, placeRecord x])
def execRecordWrite (src : Fin 10) (s : State) : Host.Outcome State Fault Refusal := done (recordRow src) s

/-- The path has room again: the recorder says how many records it lost. -/
def dropSummary (src : Nat) : Eff :=
  .get fun s =>
    let n := mget 0 s.recd.drops src
    Eff.when (n != 0 && decide ((mget [] s.recd.paths src).length < 56)) (.seq
      (modRecd fun r => { r with drops := mset 0 r.drops src 0 })
      (throughFilter 0x0001 (placeRecord ⟨0x0001, 8, recDt s, nowMs s, recStep s, layItems [.num 1 src, .num 4 n]⟩)))
def execRecDropped (src : Fin 10) (s : State) : Host.Outcome State Fault Refusal := done (dropSummary src) s

/-- The oldest unread record that has not fired vector 0 yet has waited REC_IRQ_DELAY. -/
def delayRow : Eff :=
  .get fun s =>
    let us := rfld s .REC_IRQ_DELAY 8 0 31 0
    match s.recd.live.find? fun e => recRd s ≤ e.1 && s.recd.delayNext ≤ e.1 with
    | some (q, _, _, t) => Eff.when (us != 0) (Eff.all [
        advanceToUs (t + us), raiseVec 0, modRecd fun r => { r with delayNext := q + 1 }])
    | none => .skip
def execRecIrqDelayExpire (s : State) : Host.Outcome State Fault Refusal := done delayRow s

/-! ## Register accesses (00 R10, R11; 09 R344) -/

/-- A read of a register by address, answered to who reads. -/
def readRow (a : Nat) (wide : Bool) : Eff :=
  let n := if wide then 8 else 4
  Eff.when (a % n = 0) (readCtl a n fun v => answer (leBytes n v) false)
def execRcRegisterRead (addr : BitVec 48) (wide : Bool) (s : State) : Host.Outcome State Fault Refusal :=
  done (readRow addr.toNat wide) s
def execLowWordRead (addr : BitVec 48) (s : State) : Host.Outcome State Fault Refusal := done (readRow addr.toNat false) s

/-- A write to a register by address, by the host or by the Onakan core. -/
def writeRow (a v : Nat) (wide onakan : Bool) (s : State) : State :=
  let n := if wide then 8 else 4
  if a % n = 0 then writeCtl a n v (!onakan) s else s
def execRegisterWrite (addr : BitVec 48) (v : BitVec 64) (wide onakan : Bool) (s : State) : Host.Outcome State Fault Refusal :=
  .next (writeRow addr.toNat v.toNat wide onakan s)

/-- Words written one after another. -/
def writeWords : Nat → List Byte → Nat → State → State
  | _, _, 0, s => s
  | a, bs, n + 1, s => writeWords (a + 4) (bs.drop 4) n (writeWord a (leNat (bs.take 4)) true s)

/-- An M CWRITE packet at the module, whole: 1-60 words go to the control space. -/
def cwriteRow (s : State) : State :=
  let mine (p : Packet) : Bool := !p.more && p.cls = 3 && p.mtype = 1 && openRoute s (ejectRoute p (((ctlAddr (p.h 111 64)).map (·.1)).getD 6))
  match s.net.ejected.find? mine with
  | none => s
  | some x =>
    let s1 := (Eff.seq (modNet fun n => { n with ejected := n.ejected.eraseP mine })
      (crossRoute x.inner (4 * x.words) (ejectRoute x (((ctlAddr (x.h 111 64)).map (·.1)).getD 6)))).run s
    let a := x.h 111 64
    if 1 ≤ x.words && x.words ≤ 60 && a % 4 = 0 then writeWords a x.payload x.words s1 else s1
def execCwritePkt (s : State) : Host.Outcome State Fault Refusal := .next (cwriteRow s)

end Sys2Proof.Machine
end

