-- ==== Sys2Proof/Machine/Dispatch.lean ====
section
/-!
DEFINITION. The dispatcher: one arm per command, each one direct call of its meaning.
-/
namespace Sys2Proof.Machine

def exec (i : Instr) (s : State) : Host.Outcome State Fault Refusal :=
  match i with
  | .mmF a b => Sys2Proof.Machine.execMmF a b s
  | .mmB a b => Sys2Proof.Machine.execMmB a b s
  | .vecEw a b => Sys2Proof.Machine.execVecEw a b s
  | .redRow a b => Sys2Proof.Machine.execRedRow a b s
  | .redCol a b => Sys2Proof.Machine.execRedCol a b s
  | .rowLnF a b => Sys2Proof.Machine.execRowLnF a b s
  | .rowLnB a b c d => Sys2Proof.Machine.execRowLnB a b c d s
  | .rowRmsF a b => Sys2Proof.Machine.execRowRmsF a b s
  | .rowRmsB a b c d => Sys2Proof.Machine.execRowRmsB a b c d s
  | .rowSmaxF a b => Sys2Proof.Machine.execRowSmaxF a b s
  | .rowSmaxB a b c d => Sys2Proof.Machine.execRowSmaxB a b c d s
  | .rowXentF a b => Sys2Proof.Machine.execRowXentF a b s
  | .rowXentB a b c d => Sys2Proof.Machine.execRowXentB a b c d s
  | .rowActd a b => Sys2Proof.Machine.execRowActd a b s
  | .rowProg a b c d => Sys2Proof.Machine.execRowProg a b c d s
  | .dmaCopy a b => Sys2Proof.Machine.execDmaCopy a b s
  | .dmaGather a b => Sys2Proof.Machine.execDmaGather a b s
  | .dmaFill a b => Sys2Proof.Machine.execDmaFill a b s
  | .pfStream a b => Sys2Proof.Machine.execPfStream a b s
  | .pfCancel a b => Sys2Proof.Machine.execPfCancel a b s
  | .colRs a b => Sys2Proof.Machine.execColRs a b s
  | .colAg a b => Sys2Proof.Machine.execColAg a b s
  | .colAr a b => Sys2Proof.Machine.execColAr a b s
  | .colBcast a b => Sys2Proof.Machine.execColBcast a b s
  | .colReduce a b => Sys2Proof.Machine.execColReduce a b s
  | .colSend a b => Sys2Proof.Machine.execColSend a b s
  | .colRecv a b => Sys2Proof.Machine.execColRecv a b s
  | .colA2aD a b => Sys2Proof.Machine.execColA2aD a b s
  | .colA2aC a b => Sys2Proof.Machine.execColA2aC a b s
  | .colPermute a b => Sys2Proof.Machine.execColPermute a b s
  | .colXdr a b => Sys2Proof.Machine.execColXdr a b s
  | .updApply a b => Sys2Proof.Machine.execUpdApply a b s
  | .updGatheradd a b => Sys2Proof.Machine.execUpdGatheradd a b s
  | .updFactor a b => Sys2Proof.Machine.execUpdFactor a b s
  | .updSnap a b => Sys2Proof.Machine.execUpdSnap a b s
  | .flagWait a b => Sys2Proof.Machine.execFlagWait a b s
  | .flagSignal a b => Sys2Proof.Machine.execFlagSignal a b s
  | .patchLd a b => Sys2Proof.Machine.execPatchLd a b s
  | .patchSet a b => Sys2Proof.Machine.execPatchSet a b s
  | .digFold a b => Sys2Proof.Machine.execDigFold a b s
  | .digMirror a b => Sys2Proof.Machine.execDigMirror a b s
  | .stepEnd a b => Sys2Proof.Machine.execStepEnd a b s
  | .stepVerdict a b => Sys2Proof.Machine.execStepVerdict a b s
  | .stepShade a b => Sys2Proof.Machine.execStepShade a b s
  | .stepNop a b => Sys2Proof.Machine.execStepNop a b s
  | .commandFetch a b => Sys2Proof.Machine.execCommandFetch a b s
  | .commandComplete a b c => Sys2Proof.Machine.execCommandComplete a b c s
  | .flagSignalArrive a => Sys2Proof.Machine.execFlagSignalArrive a s
  | .commandOverrun a b c => Sys2Proof.Machine.execCommandOverrun a b c s
  | .umbraAbort a => Sys2Proof.Machine.execUmbraAbort a s
  | .programLoad => Sys2Proof.Machine.execProgramLoad s
  | .umbraCfgWrite a b => Sys2Proof.Machine.execUmbraCfgWrite a b s
  | .mmeTileDone a b c => Sys2Proof.Machine.execMmeTileDone a b c s
  | .mmeInjectArm a b => Sys2Proof.Machine.execMmeInjectArm a b s
  | .vecChunkDone a b c => Sys2Proof.Machine.execVecChunkDone a b c s
  | .redFoldDone a b c => Sys2Proof.Machine.execRedFoldDone a b c s
  | .vecInjectArm a b => Sys2Proof.Machine.execVecInjectArm a b s
  | .rowChunkDone a b c => Sys2Proof.Machine.execRowChunkDone a b c s
  | .rowInjectArm a b => Sys2Proof.Machine.execRowInjectArm a b s
  | .updBlockDone a b c => Sys2Proof.Machine.execUpdBlockDone a b c s
  | .updFactorBlockDone a b => Sys2Proof.Machine.execUpdFactorBlockDone a b s
  | .updInjectArm a b => Sys2Proof.Machine.execUpdInjectArm a b s
  | .bounceSpaceFreed a b => Sys2Proof.Machine.execBounceSpaceFreed a b s
  | .snapStreamItem => Sys2Proof.Machine.execSnapStreamItem s
  | .sealBlock => Sys2Proof.Machine.execSealBlock s
  | .spbDeadlineExpire => Sys2Proof.Machine.execSpbDeadlineExpire s
  | .verdictPacket => Sys2Proof.Machine.execVerdictPacket s
  | .jobVerdictArrive => Sys2Proof.Machine.execJobVerdictArrive s
  | .verdictTimeout => Sys2Proof.Machine.execVerdictTimeout s
  | .readyPacket => Sys2Proof.Machine.execReadyPacket s
  | .barrierReady => Sys2Proof.Machine.execBarrierReady s
  | .barrierRelease => Sys2Proof.Machine.execBarrierRelease s
  | .barrierWarnExpire => Sys2Proof.Machine.execBarrierWarnExpire s
  | .stepSyncEdge => Sys2Proof.Machine.execStepSyncEdge s
  | .stepSyncStuck => Sys2Proof.Machine.execStepSyncStuck s
  | .stepSyncUnstuck => Sys2Proof.Machine.execStepSyncUnstuck s
  | .noEdge => Sys2Proof.Machine.execNoEdge s
  | .releasePacket => Sys2Proof.Machine.execReleasePacket s
  | .syncProbeTimer => Sys2Proof.Machine.execSyncProbeTimer s
  | .probeFlit a b => Sys2Proof.Machine.execProbeFlit a b s
  | .echoFlit a b c => Sys2Proof.Machine.execEchoFlit a b c s
  | .stepRecordCompose => Sys2Proof.Machine.execStepRecordCompose s
  | .recordRingWrite => Sys2Proof.Machine.execRecordRingWrite s
  | .prismChunkDone a b c => Sys2Proof.Machine.execPrismChunkDone a b c s
  | .shadeWindowClose => Sys2Proof.Machine.execShadeWindowClose s
  | .mandatoryItemPreempt a b => Sys2Proof.Machine.execMandatoryItemPreempt a b s
  | .d2dReplay a b => Sys2Proof.Machine.execD2dReplay a b s
  | .d2dRecalibration a => Sys2Proof.Machine.execD2dRecalibration a s
  | .refreshInterval a b => Sys2Proof.Machine.execRefreshInterval a b s
  | .refreshRatePoll a b => Sys2Proof.Machine.execRefreshRatePoll a b s
  | .patrolScrubLine a b c d => Sys2Proof.Machine.execPatrolScrubLine a b c d s
  | .memScrubLate a => Sys2Proof.Machine.execMemScrubLate a s
  | .memUe a b c => Sys2Proof.Machine.execMemUe a b c s
  | .memCe a => Sys2Proof.Machine.execMemCe a s
  | .memRecalibration a b => Sys2Proof.Machine.execMemRecalibration a b s
  | .memLoamUe a b c => Sys2Proof.Machine.execMemLoamUe a b c s
  | .prefetchLineFill a b c => Sys2Proof.Machine.execPrefetchLineFill a b c s
  | .primedLineExpire a b => Sys2Proof.Machine.execPrimedLineExpire a b s
  | .tgGo a b c => Sys2Proof.Machine.execTgGo a b c s
  | .tgStop a b c => Sys2Proof.Machine.execTgStop a b c s
  | .memTgDone a b c => Sys2Proof.Machine.execMemTgDone a b c s
  | .torusHello a b c d e f => Sys2Proof.Machine.execTorusHello a b c d e f s
  | .portEnableWrite a b => Sys2Proof.Machine.execPortEnableWrite a b s
  | .dataFlitReceive a b => Sys2Proof.Machine.execDataFlitReceive a b s
  | .nakFlit a b => Sys2Proof.Machine.execNakFlit a b s
  | .torusDown a => Sys2Proof.Machine.execTorusDown a s
  | .netLinkDown a b => Sys2Proof.Machine.execNetLinkDown a b s
  | .packetRoute a b c => Sys2Proof.Machine.execPacketRoute a b c s
  | .congestionDetour a b c => Sys2Proof.Machine.execCongestionDetour a b c s
  | .cFlitArrive => Sys2Proof.Machine.execCFlitArrive s
  | .qRequest => Sys2Proof.Machine.execQRequest s
  | .pReply => Sys2Proof.Machine.execPReply s
  | .netQTimeout a => Sys2Proof.Machine.execNetQTimeout a s
  | .noticePkt => Sys2Proof.Machine.execNoticePkt s
  | .cwritePkt => Sys2Proof.Machine.execCwritePkt s
  | .slotSwapRequest a b => Sys2Proof.Machine.execSlotSwapRequest a b s
  | .slotTableSwap a => Sys2Proof.Machine.execSlotTableSwap a s
  | .rtSwapRequest a => Sys2Proof.Machine.execRtSwapRequest a s
  | .netRtSwap => Sys2Proof.Machine.execNetRtSwap s
  | .frameRealign => Sys2Proof.Machine.execFrameRealign s
  | .congestionSample => Sys2Proof.Machine.execCongestionSample s
  | .groupSwapRequest a => Sys2Proof.Machine.execGroupSwapRequest a s
  | .setupPacket => Sys2Proof.Machine.execSetupPacket s
  | .creditPacket => Sys2Proof.Machine.execCreditPacket s
  | .colDataPacket a => Sys2Proof.Machine.execColDataPacket a s
  | .abortPacket => Sys2Proof.Machine.execAbortPacket s
  | .colTimeout a b c => Sys2Proof.Machine.execColTimeout a b c s
  | .colInjectArm a b => Sys2Proof.Machine.execColInjectArm a b s
  | .hostWindowAAccess a => Sys2Proof.Machine.execHostWindowAAccess a s
  | .hostWindowBAccess a => Sys2Proof.Machine.execHostWindowBAccess a s
  | .msixSend a => Sys2Proof.Machine.execMsixSend a s
  | .msixHoldoffEnd a => Sys2Proof.Machine.execMsixHoldoffEnd a s
  | .hstLinkUp a b c => Sys2Proof.Machine.execHstLinkUp a b c s
  | .hstLinkDown => Sys2Proof.Machine.execHstLinkDown s
  | .setEndpointId a b => Sys2Proof.Machine.execSetEndpointId a b s
  | .getEndpointId a => Sys2Proof.Machine.execGetEndpointId a s
  | .getEndpointUuid a => Sys2Proof.Machine.execGetEndpointUuid a s
  | .getMctpVersionSupport a b => Sys2Proof.Machine.execGetMctpVersionSupport a b s
  | .getMessageTypeSupport a => Sys2Proof.Machine.execGetMessageTypeSupport a s
  | .getVendorDefinedMsgSupport a b => Sys2Proof.Machine.execGetVendorDefinedMsgSupport a b s
  | .mctpUnsupportedCmd a b => Sys2Proof.Machine.execMctpUnsupportedCmd a b s
  | .hstMctpDropped a => Sys2Proof.Machine.execHstMctpDropped a s
  | .getHealth a => Sys2Proof.Machine.execGetHealth a s
  | .readRecords a b c => Sys2Proof.Machine.execReadRecords a b c s
  | .readControl a b c => Sys2Proof.Machine.execReadControl a b c s
  | .mctpReset a b c => Sys2Proof.Machine.execMctpReset a b c s
  | .ethLinkUp a b => Sys2Proof.Machine.execEthLinkUp a b s
  | .ethLinkDown a => Sys2Proof.Machine.execEthLinkDown a s
  | .ethFrameReceive a b => Sys2Proof.Machine.execEthFrameReceive a b s
  | .sessionOpen a => Sys2Proof.Machine.execSessionOpen a s
  | .sessionClose a => Sys2Proof.Machine.execSessionClose a s
  | .openPkt => Sys2Proof.Machine.execOpenPkt s
  | .openAckPkt => Sys2Proof.Machine.execOpenAckPkt s
  | .dataPkt => Sys2Proof.Machine.execDataPkt s
  | .ackPkt => Sys2Proof.Machine.execAckPkt s
  | .closePkt => Sys2Proof.Machine.execClosePkt s
  | .keepalivePkt => Sys2Proof.Machine.execKeepalivePkt s
  | .openRetryTimer a => Sys2Proof.Machine.execOpenRetryTimer a s
  | .ethOpenTimeout a => Sys2Proof.Machine.execEthOpenTimeout a s
  | .ethRto a b => Sys2Proof.Machine.execEthRto a b s
  | .keepaliveTimer a => Sys2Proof.Machine.execKeepaliveTimer a s
  | .xferGo a => Sys2Proof.Machine.execXferGo a s
  | .recordWrite a => Sys2Proof.Machine.execRecordWrite a s
  | .recDropped a => Sys2Proof.Machine.execRecDropped a s
  | .recIrqDelayExpire => Sys2Proof.Machine.execRecIrqDelayExpire s
  | .rcRegisterRead a b => Sys2Proof.Machine.execRcRegisterRead a b s
  | .registerWrite a b c d => Sys2Proof.Machine.execRegisterWrite a b c d s
  | .resetNAssert a b => Sys2Proof.Machine.execResetNAssert a b s
  | .resetNRelease => Sys2Proof.Machine.execResetNRelease s
  | .aonPowerOnReset a b => Sys2Proof.Machine.execAonPowerOnReset a b s
  | .pwrInputFault a b => Sys2Proof.Machine.execPwrInputFault a b s
  | .inputBackInRange a => Sys2Proof.Machine.execInputBackInRange a s
  | .pwrVbakLow a => Sys2Proof.Machine.execPwrVbakLow a s
  | .pwrRailFault a b c => Sys2Proof.Machine.execPwrRailFault a b c s
  | .rstCmdFull => Sys2Proof.Machine.execRstCmdFull s
  | .rstCmdStructural => Sys2Proof.Machine.execRstCmdStructural s
  | .rstCmdLink => Sys2Proof.Machine.execRstCmdLink s
  | .rstCmdCore => Sys2Proof.Machine.execRstCmdCore s
  | .rstCmdManagement => Sys2Proof.Machine.execRstCmdManagement s
  | .loamWritebackDone => Sys2Proof.Machine.execLoamWritebackDone s
  | .onakanWatchdog => Sys2Proof.Machine.execOnakanWatchdog s
  | .perst => Sys2Proof.Machine.execPerst s
  | .pcieHotReset => Sys2Proof.Machine.execPcieHotReset s
  | .domainRelease => Sys2Proof.Machine.execDomainRelease s
  | .rootPllLock => Sys2Proof.Machine.execRootPllLock s
  | .imageVerifyBoot => Sys2Proof.Machine.execImageVerifyBoot s
  | .identityKeyDerive => Sys2Proof.Machine.execIdentityKeyDerive s
  | .d2dTrainingDone a b => Sys2Proof.Machine.execD2dTrainingDone a b s
  | .channelTrainingDone a b c => Sys2Proof.Machine.execChannelTrainingDone a b c s
  | .memoryFillDone => Sys2Proof.Machine.execMemoryFillDone s
  | .rstStepReady => Sys2Proof.Machine.execRstStepReady s
  | .startTimeout => Sys2Proof.Machine.execStartTimeout s
  | .aonRestart => Sys2Proof.Machine.execAonRestart s
  | .forceRecovery a => Sys2Proof.Machine.execForceRecovery a s
  | .imgVerify => Sys2Proof.Machine.execImgVerify s
  | .imgCommit a => Sys2Proof.Machine.execImgCommit a s
  | .enroll => Sys2Proof.Machine.execEnroll s
  | .revoke a => Sys2Proof.Machine.execRevoke a s
  | .raiseSvn => Sys2Proof.Machine.execRaiseSvn s
  | .powerWindow a => Sys2Proof.Machine.execPowerWindow a s
  | .hardCurrentLimit a => Sys2Proof.Machine.execHardCurrentLimit a s
  | .sensorSample a => Sys2Proof.Machine.execSensorSample a s
  | .thermalTick => Sys2Proof.Machine.execThermalTick s
  | .thmMemHot a => Sys2Proof.Machine.execThmMemHot a s
  | .thmSensorFail a => Sys2Proof.Machine.execThmSensorFail a s
  | .thmTrip a b => Sys2Proof.Machine.execThmTrip a b s
  | .tripCooldownPoll a => Sys2Proof.Machine.execTripCooldownPoll a s
  | .gateWindowStart => Sys2Proof.Machine.execGateWindowStart s
  | .gateHoldStart => Sys2Proof.Machine.execGateHoldStart s
  | .clkSyncRefLost => Sys2Proof.Machine.execClkSyncRefLost s
  | .clkSyncRefBack => Sys2Proof.Machine.execClkSyncRefBack s
  | .clkRootUnlock => Sys2Proof.Machine.execClkRootUnlock s
  | .serdesUnlock a => Sys2Proof.Machine.execSerdesUnlock a s
  | .clkRefclkLost => Sys2Proof.Machine.execClkRefclkLost s
  | .lowWordRead a => Sys2Proof.Machine.execLowWordRead a s
  | .flitSlot a => Sys2Proof.Machine.execFlitSlot a s
  | .idleFlit a b => Sys2Proof.Machine.execIdleFlit a b s
  | .tracePkt a => Sys2Proof.Machine.execTracePkt a s
  | .zqCalibration a b => Sys2Proof.Machine.execZqCalibration a b s
  | .mandatoryItemDone a b => Sys2Proof.Machine.execMandatoryItemDone a b s
  | .perstDeassert => Sys2Proof.Machine.execPerstDeassert s
  | .pllLockTimeout => Sys2Proof.Machine.execPllLockTimeout s
  | .xtalFail => Sys2Proof.Machine.execXtalFail s
  | .aonSupplyLost => Sys2Proof.Machine.execAonSupplyLost s
  | .serdesRelock a => Sys2Proof.Machine.execSerdesRelock a s
  | .ethAckTimer a => Sys2Proof.Machine.execEthAckTimer a s
  | .currentLimitHoldEnd => Sys2Proof.Machine.execCurrentLimitHoldEnd s

end Sys2Proof.Machine
end

