-- ==== Sys2Proof/Machine/Step.lean ====
section
/-!
DEFINITION. The step: the command at the front of the queue acts on the rest of the state with the queue's rest;
on an empty queue one cycle of the core clock passes (assumption 1).
-/
namespace Sys2Proof.Machine

/-- Step of a state. -/
def step (s : State) : Host.Outcome State Fault Refusal :=
  match s.pending with
  | [] => done (advance 1) s
  | c :: rest => exec c { s with pending := rest }

/-- The state with a table word's command at the front of its queue; no word spells one. -/
def State.withFetchWord (s : State) (nbits w : Nat) : State :=
  match decodeTableWord nbits w with
  | none => s
  | some c => { s with pending := c :: s.pending }

end Sys2Proof.Machine
end

