-- ==== Sys2Proof/Safety.lean ====
section
/-!
DEFINITION. The terms claims are stated in: the form every state keeps (`State.Inv`), what a command leaves unchanged
(`Only`, `RegsOnly`), the rows that stand for an opcode of a stream, and the commands that may reset the module.
-/
namespace Sys2Proof.Machine

/-! ## The form of a state -/

/-- The canonical form of memory: addresses strictly rising and no listed byte equal to what an unlisted address reads
as, which is 0 (assumption 4). -/
def Memory.wf (m : Mem) : Bool := mwf 0#8 m

/-- Keys of a map strictly rising. -/
def mrising {α : Type} (m : List (Nat × α)) : Bool := decide (m.Pairwise fun a b => a.1 < b.1)

/-- Engines among bits lo, lo + 1, ... lo + n - 1 of a present mask. -/
def enginesIn (mask lo n : Nat) : Nat := ((List.range n).filter fun i => mask.testBit (lo + i)).length

/-- The fuse map holds what its grade holds (00 R1, R2): on a CZB-8F every engine of the four C-dies, on a CZB-8S all
but exactly two forward and four backward ones on each. -/
def Fuses.graded (f : Fuses) : Bool :=
  f.present.length = 4 && f.present.all fun m =>
    m < 2 ^ 24 && enginesIn m 0 8 = (if f.gradeS then 6 else 8) && enginesIn m 8 16 = (if f.gradeS then 12 else 16)

/-- What every command keeps: memory and flags in canonical form, no flag above 2^32 - 1 (06 R212), registers and tensor
tables listed once each in rising order, no poison marker listed twice, and the engines of the grade (00 R2). -/
def State.Inv (s : State) : Prop :=
  Memory.wf s.mem = true ∧ mwf 0 s.flags = true ∧ (∀ e ∈ s.flags, e.2 ≤ 0xFFFFFFFF) ∧ mrising s.regs = true ∧
    mrising s.tensors = true ∧ s.ms.poison.Nodup ∧ s.fuses.graded = true

/-! ## Frames -/

/-- Parts of a state. The command processor's lists, the device time DT, the poison markers (with the lines that do not
store their codeword), the loam caches and the interrupts raised are parts of their own. -/
inductive Part where
  | cc | regs | flags | flagOld | tensors | mem | freeCtr | fuses
  | queues | slots | flights | signals | steps | umbra | cpRest
  | fab | upd | poison | loam | msRest | net | col | dt | syncRest | dig | rst | img | raised | hostRest | eth | recd | pow | sent
  deriving DecidableEq, Repr

/-- What `Part.cpRest` stands for. -/
def Cp.rest (c : Cp) : Cp := { c with queues := [], slots := [], flights := [], signals := [], steps := [], umbra := [] }

/-- A part is the same in two states. -/
def Part.same (p : Part) (s t : State) : Prop :=
  match p with
  | .cc => t.cc = s.cc
  | .regs => t.regs = s.regs
  | .flags => t.flags = s.flags
  | .flagOld => t.flagOld = s.flagOld
  | .tensors => t.tensors = s.tensors
  | .mem => t.mem = s.mem
  | .freeCtr => t.freeCtr = s.freeCtr
  | .fuses => t.fuses = s.fuses
  | .queues => t.cp.queues = s.cp.queues
  | .slots => t.cp.slots = s.cp.slots
  | .flights => t.cp.flights = s.cp.flights
  | .signals => t.cp.signals = s.cp.signals
  | .steps => t.cp.steps = s.cp.steps
  | .umbra => t.cp.umbra = s.cp.umbra
  | .cpRest => t.cp.rest = s.cp.rest
  | .fab => t.fab = s.fab
  | .upd => t.upd = s.upd
  | .poison => (t.ms.poison, t.ms.odd) = (s.ms.poison, s.ms.odd)
  | .loam => t.ms.loam = s.ms.loam
  | .msRest => { t.ms with poison := [], odd := [], loam := {} } = { s.ms with poison := [], odd := [], loam := {} }
  | .net => t.net = s.net
  | .col => t.col = s.col
  | .dt => t.sync.dt = s.sync.dt
  | .syncRest => { t.sync with dt := 0 } = { s.sync with dt := 0 }
  | .dig => t.dig = s.dig
  | .rst => t.rst = s.rst
  | .img => t.img = s.img
  | .raised => t.host.raised = s.host.raised
  | .hostRest => { t.host with raised := 0 } = { s.host with raised := 0 }
  | .eth => t.eth = s.eth
  | .recd => t.recd = s.recd
  | .pow => t.pow = s.pow
  | .sent => t.sent = s.sent

/-- Between two states only the parts named change; the queue of commands never does. -/
def Only (changed : List Part) (s t : State) : Prop :=
  t.pending = s.pending ∧ ∀ p : Part, p ∈ changed ∨ p.same s t

/-- A register at a die; an index, or `none` for each. -/
abbrev RegAt : Type := RegName × Nat × Option Nat

/-- Between two states only the registers named change. -/
def RegsOnly (changed : List RegAt) (s t : State) : Prop :=
  ∀ (r : RegName) (die idx : Nat), die < 16 → idx < 2 ^ 22 →
    (r, die, none) ∈ changed ∨ (r, die, some idx) ∈ changed ∨ rget t r die idx = rget s r die idx

/-- Only the parts and the registers named change. -/
def OnlyChanges (parts : List Part) (changed : List RegAt) (s t : State) : Prop :=
  Only parts s t ∧ RegsOnly changed s t

/-- The command completes: from s it answers a next state, which has a property, and only the parts and registers
named differ from s. -/
def Does (c : Instr) (s : State) (parts : List Part) (changed : List RegAt) (post : State → Prop) : Prop :=
  ∃ t, exec c s = .next t ∧ post t ∧ OnlyChanges parts changed s t

/-- More registers beside some, and more parts. -/
abbrev alsoRegs (rs us : List RegAt) : List RegAt := rs ++ us
abbrev alsoParts (ps qs : List Part) : List Part := ps ++ qs

/-- Parts that writing a record or setting a fault bit changes: the path the record enters, the marks that thin it,
counts and fault bits, an interrupt message raised (13 R496, R514). -/
def recParts : List Part := [.regs, .recd, .raised]
/-- Registers that writing a record may change: the recorder's counts and fault bits. -/
def recRegs : List RegAt :=
  [(.REC_FAULT, 8, some 0), (.REC_DROP_COUNT, 8, some 0), (.REC_PROT_DROP_COUNT, 8, some 0), (.REC_FILTERED_COUNT, 8, some 0)]

/-- Parts that passing time changes: the clocks, the marks of the cc just past, the counters, the stall counts. -/
def timeParts : List Part := [.cc, .dt, .flagOld, .regs, .umbra]
/-- Registers that count while time passes (06 R242-R245, 14 R534). -/
def timeRegs : List RegAt :=
  ([0, 1, 2, 3].flatMap fun d => [(.CMD_IDLE, d, none), (.MME_ENG_ACTIVE_CC, d, none), (.VEC_UNIT_ACTIVE_CC, d, none),
    (.ROW_ENG_ACTIVE_CC, d, none)]) ++
  [(.UPD_IDLE, 4, none), (.UPD_ENG_ACTIVE_CC, 4, none), (.UPD_IDLE, 5, none), (.UPD_ENG_ACTIVE_CC, 5, none),
    (.COL_IDLE, 6, none), (.COL_ACTIVE_CC, 6, some 0), (.COL_IDLE, 7, none), (.COL_ACTIVE_CC, 7, some 0),
    (.THM_GATED_CC, 8, some 0)]

/-- A counter field from bit 0 up to `hi` has gone up by n; it stays at all ones (00 R14). -/
def Counted (s t : State) (r : RegName) (die idx hi n : Nat) : Prop :=
  rfld t r die idx hi 0 = min (rfld s r die idx hi 0 + n) (2 ^ (hi + 1) - 1)

/-- A record of a type has come last into its die's path to the recorder, which had room, where the image's filter thins
nothing (13 R514). -/
def Wrote (typ src : Nat) (s t : State) : Prop :=
  s.img.content.filters = [] → (mget [] s.recd.paths src).length < 56 →
    (mget [] t.recd.paths src).map (·.typ) = (mget [] s.recd.paths src).map (·.typ) ++ [typ]

/-- Registers that sending packets of the sequencers or of the bulk transport counts in. -/
def txRegs : List RegAt :=
  [(.COL_TX_BYTES, 6, some 0), (.COL_TX_BYTES, 7, some 0), (.ETH_TX_BYTES, 6, some 0), (.ETH_TX_BYTES, 7, some 0)]

/-- Registers that an addition to a flag of a die may change besides: the saturation count and fault bit. -/
def flagRegs (die : Nat) : List RegAt :=
  recRegs ++ [(.CMD_FAULT, die % 16, some 0), (.CMD_FLAG_SAT_COUNT, die % 16, some 0)]
/-- Parts that the signals of a command change. -/
def signalParts : List Part := recParts ++ [.flags, .flagOld, .signals]

/-! ## Queues and signals -/

/-- The head of a queue has left it in this cc (06 R190); every other queue stays as it was. -/
def HeadLeft (die q : Nat) (s t : State) : Prop :=
  queueOf t die q = { queueOf s die q with head := (queueOf s die q).head + 1, lastIssue := s.cc + 1, readyAt := 0 } ∧
  slotsOf t die q = (slotsOf s die q).drop 1 ∧
  ∀ k, k ≠ qKey die q → mget {} t.cp.queues k = mget {} s.cp.queues k ∧ mget [] t.cp.slots k = mget [] s.cp.slots k

/-- The increments that a command of a die adds to the flag with a key of its own die (06 R210, R213). -/
def incsTo (die : Nat) (d : Desc) (k : Nat) : List Nat :=
  ((cmdSignals d).filter fun e => e.1.die = die && e.1.key = k).map (·.2)

/-- The signals of a command have left: flags of its own die hold the saturating sums (06 R212), and signals to other
dies are in transit (06 R210, R211). -/
def Signalled (die : Nat) (d : Desc) (s t : State) : Prop :=
  (∀ k, mget 0 t.flags k =
    if incsTo die d k = [] then mget 0 s.flags k else min (mget 0 s.flags k + (incsTo die d k).sum) 0xFFFFFFFF) ∧
  t.cp.signals = s.cp.signals ++
    ((cmdSignals d).filter fun e => e.1.die != die).map fun e => ⟨e.1.die, e.1.idx, e.2, die⟩

/-- The head of a queue is a command with opcode `op` that executes normally in this cc: the spec's conditions for it to
issue (06 R190), each a test of the state and the descriptor alone. Where they hold, exec of the opcode's row answers a
next state in which the command has issued; every row's completion statement has them as its hypothesis. -/
structure Ready (s : State) (op die q : Nat) (d : Desc) : Prop where
  /-- The descriptor stands at the head of the queue (06 R188, R190), and its opcode is that of the row (R194). -/
  head : atHead s die q = some d
  opcode : dOpcode d = op
  /-- At most one command of a queue issues in one cc (06 R190). -/
  once : (queueOf s die q).lastIssue ≠ s.cc + 1
  /-- Every wait is satisfied as this cc sees the flags (06 R209, R211). -/
  waits : openWaits (flagSeen s) d (queueOf s die q).step = []
  /-- The header, the fields and the state it names break no rule (06 R218, R550), its patched values among them. -/
  legal : allViols s die q d = []
  /-- It has rows to work on (06 R215), and a UPD.SNAP a snapshot to take in this step (07 R286). -/
  data : patchEmpty d (patchRegOf s die d) = false ∧ snapOff s die q d = false
  /-- Its units are free, and the other dies accept it (06 R190, R228). -/
  units : canStart s die d = true
  /-- No head that comes before it in the order of dies and queues competes for them (06 R190). -/
  first : beaten s die q d = false
  /-- No mandatory item that is due holds back what it uses (06 R239, R241). -/
  free : heldBack s die d = false

/-- The head of a queue has issued and is in flight (06 R190, R214): at its place in its stream, with its descriptor
as fetched and as patched, naming its units. -/
def Issued (op die q : Nat) (d : Desc) (s t : State) : Prop :=
  HeadLeft die q s t ∧ ∃ f ∈ t.cp.flights,
    (f.die = die ∧ f.q = q ∧ f.pos = (queueOf s die q).head ∧ f.sq = (queueOf s die q).step ∧ f.op = op) ∧
    f.stored = d ∧ f.desc = patchDesc d (patchRegOf s die d) ∧ f.issue = s.cc ∧
    f.units.map (·.key) = unitsOf s die f.desc

/-- Commands in flight stand each at a place of its own before the head of its queue, and each open collective is that
of a command in flight, one for each. -/
def State.Placed (s : State) : Prop :=
  (∀ f ∈ s.cp.flights, f.pos < (queueOf s f.die f.q).head) ∧
  s.cp.flights.Pairwise (fun f g => ¬ (f.die = g.die ∧ f.q = g.q ∧ f.pos = g.pos)) ∧
  (∀ o ∈ s.col.ops, ∃ f ∈ s.cp.flights, f.die = o.die ∧ f.q = o.q ∧ f.pos = o.pos) ∧
  s.col.ops.Pairwise (fun o p => ¬ (o.die = p.die ∧ o.q = p.q ∧ o.pos = p.pos))

/-- Parts that issuing a command to units of its die changes; a unit that starts may take an injection. -/
def issueParts : List Part := recParts ++ [.queues, .slots, .flights]

/-! ## Memory -/

/-- Memory after rows of one tensor are copied to rows of another, in order: pairs of source and destination row. -/
def copiedRows (ts td : TDesc) (m : Mem) (rows : List (Nat × Nat)) : Mem :=
  rows.foldl (fun m e => applyWr m (rowCopy m ts td e.1 e.2)) m

/-- An address that none of some writes touches. -/
def Untouched (ws : List Wr) (a : Nat) : Prop := ∀ w ∈ ws, a < w.a ∨ w.a + ceilDiv (w.off + w.w) 8 ≤ a

/-! ## Registers and resets -/

/-- Registers that a write gives an action besides, or instead of, their fields' new value (Machine/RegOps.lean). -/
def RegName.acts (r : RegName) : Bool :=
  match r with
  | .CMD_LOAD | .NET_PORT_CFG | .NET_SLOT_CTRL | .NET_RT | .COL_GROUP | .NET_SLOT | .MEM_TG_CTRL | .RST_CMD | .RST_AON | .IMG_CMD
  | .SEC_CMD | .IMG_STAGE | .IMG_STAGE_LEN | .ETH_XFER_CMD | .ETH_SESSION_CTRL | .ETH_SESSION | .PWR_FAULT | .MEM_FAULT
  | .UPD_FAULT | .COL_FAULT | .CMD_UMBRA_CFG => true
  | _ => false

/-- Registers that a reset may change outside its scope: those that tell of it, the recorder's counts, what belongs to the
dies' work or to an update of the image, and the slots DOWN takes. -/
def resetRegs : List RegName :=
  [.RST_STATUS, .RST_DOMAINS, .RST_AON, .RST_CAUSE_COUNT, .REC_FAULT, .REC_DROP_COUNT, .REC_PROT_DROP_COUNT, .REC_FILTERED_COUNT,
    .ROW_STAT_CFG, .THM_GATED_CC, .IMG_CMD_STATUS, .NET_PORT_SLOT_USE]

/-- A reset of a scope has asserted with a cause (12 R474): its domains are in reset, the others as they were, the rows of
its release stand to follow, and what outlives it is unchanged: the registers of other domains, fuses, flash, the
queue of commands. Reset dies hold no flag and no command; those a reset leaves alone keep them, and memory. -/
def ResetDone (scope cause : Nat) (s t : State) : Prop :=
  (∀ d ∈ scopeDomains scope, d ≠ 0 → alive t d = false) ∧
  rfld t .RST_STATUS 8 0 27 24 = scope ∧ rfld t .RST_STATUS 8 0 23 16 = cause ∧
  (t.rst.phase = .releasing ∧ t.rst.scope = scope ∧ t.rst.rows = scopeRows scope) ∧
  (scope ≤ 4 → stepReady t = false ∧ t.flags = [] ∧ t.cp = {}) ∧
  (4 < scope → t.mem = s.mem ∧ t.flags = s.flags ∧ t.cp = s.cp ∧ t.net = s.net ∧ t.sync = s.sync) ∧
  t.pending = s.pending ∧ t.fuses = s.fuses ∧ t.img.flash = s.img.flash ∧
  (s.Inv → (∀ d < 30, d ∉ scopeDomains scope → alive t d = (alive s d || d = 0)) ∧
    ∀ (r : RegName) (die idx : Nat), die < 16 → idx < 2 ^ 22 → r ∉ resetRegs → regDomain r die ∉ scopeDomains scope →
      rget t r die idx = rget s r die idx)

/-- A training of a die-to-die link's direction is due: its dies are released, and it has not trained, or it is to train again and
no command whose traffic crosses the link is in flight (01 R40, R42). -/
def trainingDue (s : State) (l : D2D) : Prop :=
  (∀ d ∈ linkDies (linkNo l), alive s (dieDomain d) = true) ∧ ((linkDir s l.key).trained = false ∨
    ((linkDir s l.key).retrain = true ∧ s.cp.flights.any (resFlights s (16 + linkNo l)) = false))
/-- What its result fails by: more than two failed wires in a clock group, or fewer than 16 lanes (01 R28, R39, R41). -/
def trainingFails (l : D2D) (r : TrainResult) : Bool :=
  r.failed || (l.narrow && decide (r.lanes < 16)) ||
    (!l.narrow && (List.range 8).any fun g => decide (2 < (r.repairs.filter fun e => e.1 = g).length))

/-- A start in progress has failed under a code (12 R481). -/
def StartFailed (code : Nat) (s t : State) : Prop :=
  rfld t .RST_AON 8 0 2 0 = min (rfld s .RST_AON 8 0 2 0 + 1) 7 ∧ rfld t .RST_AON 8 0 23 16 = code ∧ starting t = false ∧
  t.rst.phase = .idle ∧ t.rst.rows = []

end Sys2Proof.Machine

namespace Sys2Proof

/-! ## Rows of opcodes -/

/-- The opcode, die and queue of the rows that issue a command of a stream (06 R195); STEP.END has its own (R191). -/
def Instr.opcode : Instr → Option (Nat × Fin 4 × Fin 16)
  | .mmF d q => some (0x10, d, q)
  | .mmB d q => some (0x11, d, q)
  | .vecEw d q => some (0x20, d, q)
  | .redRow d q => some (0x40, d, q)
  | .redCol d q => some (0x41, d, q)
  | .rowLnF d q => some (0x50, d, q)
  | .rowLnB d q _ _ => some (0x51, d, q)
  | .rowRmsF d q => some (0x52, d, q)
  | .rowRmsB d q _ _ => some (0x53, d, q)
  | .rowSmaxF d q => some (0x54, d, q)
  | .rowSmaxB d q _ _ => some (0x55, d, q)
  | .rowXentF d q => some (0x56, d, q)
  | .rowXentB d q _ _ => some (0x57, d, q)
  | .rowActd d q => some (0x58, d, q)
  | .rowProg d q _ _ => some (0x5F, d, q)
  | .dmaCopy d q => some (0x60, d, q)
  | .dmaGather d q => some (0x61, d, q)
  | .dmaFill d q => some (0x62, d, q)
  | .pfStream d q => some (0x68, d, q)
  | .pfCancel d q => some (0x69, d, q)
  | .colRs d q => some (0x70, d, q)
  | .colAg d q => some (0x71, d, q)
  | .colAr d q => some (0x72, d, q)
  | .colBcast d q => some (0x73, d, q)
  | .colReduce d q => some (0x74, d, q)
  | .colSend d q => some (0x78, d, q)
  | .colRecv d q => some (0x79, d, q)
  | .colA2aD d q => some (0x7A, d, q)
  | .colA2aC d q => some (0x7B, d, q)
  | .colPermute d q => some (0x7C, d, q)
  | .colXdr d q => some (0x7E, d, q)
  | .updApply d q => some (0x80, d, q)
  | .updGatheradd d q => some (0x81, d, q)
  | .updFactor d q => some (0x82, d, q)
  | .updSnap d q => some (0x83, d, q)
  | .flagWait d q => some (0x90, d, q)
  | .flagSignal d q => some (0x91, d, q)
  | .patchLd d q => some (0x94, d, q)
  | .patchSet d q => some (0x95, d, q)
  | .digFold d q => some (0xA0, d, q)
  | .digMirror d q => some (0xA1, d, q)
  | .stepVerdict d q => some (0xF1, d, q)
  | .stepShade d q => some (0xF2, d, q)
  | .stepNop d q => some (0xF3, d, q)
  | .stepEnd _ _ | .commandFetch _ _ | .commandComplete _ _ _ | .flagSignalArrive _ | .commandOverrun _ _ _
  | .umbraAbort _ | .programLoad | .umbraCfgWrite _ _ | .mmeTileDone _ _ _ | .mmeInjectArm _ _
  | .vecChunkDone _ _ _ | .redFoldDone _ _ _ | .vecInjectArm _ _ | .rowChunkDone _ _ _ | .rowInjectArm _ _
  | .updBlockDone _ _ _ | .updFactorBlockDone _ _ | .updInjectArm _ _ | .bounceSpaceFreed _ _ | .snapStreamItem
  | .sealBlock | .spbDeadlineExpire | .verdictPacket | .jobVerdictArrive | .verdictTimeout | .readyPacket
  | .barrierReady | .barrierRelease | .barrierWarnExpire | .stepSyncEdge | .stepSyncStuck | .stepSyncUnstuck
  | .noEdge | .releasePacket | .syncProbeTimer | .probeFlit _ _ | .echoFlit _ _ _ | .stepRecordCompose
  | .recordRingWrite | .prismChunkDone _ _ _ | .shadeWindowClose | .mandatoryItemPreempt _ _ | .d2dReplay _ _
  | .d2dRecalibration _ | .refreshInterval _ _ | .refreshRatePoll _ _ | .patrolScrubLine _ _ _ _
  | .memScrubLate _ | .memUe _ _ _ | .memCe _ | .memRecalibration _ _ | .memLoamUe _ _ _
  | .prefetchLineFill _ _ _ | .primedLineExpire _ _ | .tgGo _ _ _ | .tgStop _ _ _ | .memTgDone _ _ _
  | .torusHello _ _ _ _ _ _ | .portEnableWrite _ _ | .dataFlitReceive _ _ | .nakFlit _ _ | .torusDown _
  | .netLinkDown _ _ | .packetRoute _ _ _ | .congestionDetour _ _ _ | .cFlitArrive | .qRequest | .pReply
  | .netQTimeout _ | .noticePkt | .cwritePkt | .slotSwapRequest _ _ | .slotTableSwap _ | .rtSwapRequest _
  | .netRtSwap | .frameRealign | .congestionSample | .groupSwapRequest _ | .setupPacket | .creditPacket
  | .colDataPacket _ | .abortPacket | .colTimeout _ _ _ | .colInjectArm _ _ | .hostWindowAAccess _
  | .hostWindowBAccess _ | .msixSend _ | .msixHoldoffEnd _ | .hstLinkUp _ _ _ | .hstLinkDown
  | .setEndpointId _ _ | .getEndpointId _ | .getEndpointUuid _ | .getMctpVersionSupport _ _
  | .getMessageTypeSupport _ | .getVendorDefinedMsgSupport _ _ | .mctpUnsupportedCmd _ _ | .hstMctpDropped _
  | .getHealth _ | .readRecords _ _ _ | .readControl _ _ _ | .mctpReset _ _ _ | .ethLinkUp _ _ | .ethLinkDown _
  | .ethFrameReceive _ _ | .sessionOpen _ | .sessionClose _ | .openPkt | .openAckPkt | .dataPkt | .ackPkt
  | .closePkt | .keepalivePkt | .openRetryTimer _ | .ethOpenTimeout _ | .ethRto _ _ | .keepaliveTimer _
  | .xferGo _ | .recordWrite _ | .recDropped _ | .recIrqDelayExpire | .rcRegisterRead _ _
  | .registerWrite _ _ _ _ | .resetNAssert _ _ | .resetNRelease | .aonPowerOnReset _ _ | .pwrInputFault _ _
  | .inputBackInRange _ | .pwrVbakLow _ | .pwrRailFault _ _ _ | .rstCmdFull | .rstCmdStructural | .rstCmdLink
  | .rstCmdCore | .rstCmdManagement | .loamWritebackDone | .onakanWatchdog | .perst | .pcieHotReset
  | .domainRelease | .rootPllLock | .imageVerifyBoot | .identityKeyDerive | .d2dTrainingDone _ _
  | .channelTrainingDone _ _ _ | .memoryFillDone | .rstStepReady | .startTimeout | .aonRestart
  | .forceRecovery _ | .imgVerify | .imgCommit _ | .enroll | .revoke _ | .raiseSvn | .powerWindow _
  | .hardCurrentLimit _ | .sensorSample _ | .thermalTick | .thmMemHot _ | .thmSensorFail _ | .thmTrip _ _
  | .tripCooldownPoll _ | .gateWindowStart | .gateHoldStart | .clkSyncRefLost | .clkSyncRefBack
  | .clkRootUnlock | .serdesUnlock _ | .clkRefclkLost | .lowWordRead _ | .flitSlot _ | .idleFlit _ _
  | .tracePkt _ | .zqCalibration _ _ | .mandatoryItemDone _ _ | .perstDeassert | .pllLockTimeout | .xtalFail
  | .aonSupplyLost | .serdesRelock _ | .ethAckTimer _ | .currentLimitHoldEnd => none

/-- Commands that can load a program or reset part of the module (06 R187, 12 R474): by themselves, by a register write
that commands it, or by a fault that ends in a reset. -/
def Instr.resets : Instr → Bool
  | .programLoad | .hstLinkDown | .hostWindowAAccess _ | .mctpReset _ _ _ | .registerWrite _ _ _ _ | .cwritePkt
  | .d2dReplay _ _ | .pwrInputFault _ _ | .aonPowerOnReset _ _ | .pwrRailFault _ _ _ | .thmTrip _ _
  | .clkRootUnlock | .clkRefclkLost | .rstCmdFull | .rstCmdStructural | .rstCmdLink | .rstCmdCore
  | .rstCmdManagement | .onakanWatchdog | .resetNAssert _ _ | .perst | .pcieHotReset | .loamWritebackDone
  | .aonRestart | .d2dTrainingDone _ _ => true
  | .mmF _ _ | .mmB _ _ | .vecEw _ _ | .redRow _ _ | .redCol _ _ | .rowLnF _ _ | .rowLnB _ _ _ _ | .rowRmsF _ _
  | .rowRmsB _ _ _ _ | .rowSmaxF _ _ | .rowSmaxB _ _ _ _ | .rowXentF _ _ | .rowXentB _ _ _ _ | .rowActd _ _
  | .rowProg _ _ _ _ | .dmaCopy _ _ | .dmaGather _ _ | .dmaFill _ _ | .pfStream _ _ | .pfCancel _ _
  | .colRs _ _ | .colAg _ _ | .colAr _ _ | .colBcast _ _ | .colReduce _ _ | .colSend _ _ | .colRecv _ _
  | .colA2aD _ _ | .colA2aC _ _ | .colPermute _ _ | .colXdr _ _ | .updApply _ _ | .updGatheradd _ _
  | .updFactor _ _ | .updSnap _ _ | .flagWait _ _ | .flagSignal _ _ | .patchLd _ _ | .patchSet _ _
  | .digFold _ _ | .digMirror _ _ | .stepEnd _ _ | .stepVerdict _ _ | .stepShade _ _ | .stepNop _ _
  | .commandFetch _ _ | .commandComplete _ _ _ | .flagSignalArrive _ | .commandOverrun _ _ _ | .umbraAbort _
  | .umbraCfgWrite _ _ | .mmeTileDone _ _ _ | .mmeInjectArm _ _ | .vecChunkDone _ _ _ | .redFoldDone _ _ _
  | .vecInjectArm _ _ | .rowChunkDone _ _ _ | .rowInjectArm _ _ | .updBlockDone _ _ _ | .updFactorBlockDone _ _
  | .updInjectArm _ _ | .bounceSpaceFreed _ _ | .snapStreamItem | .sealBlock | .spbDeadlineExpire
  | .verdictPacket | .jobVerdictArrive | .verdictTimeout | .readyPacket | .barrierReady | .barrierRelease
  | .barrierWarnExpire | .stepSyncEdge | .stepSyncStuck | .stepSyncUnstuck | .noEdge | .releasePacket
  | .syncProbeTimer | .probeFlit _ _ | .echoFlit _ _ _ | .stepRecordCompose | .recordRingWrite
  | .prismChunkDone _ _ _ | .shadeWindowClose | .mandatoryItemPreempt _ _ | .d2dRecalibration _
  | .refreshInterval _ _ | .refreshRatePoll _ _ | .patrolScrubLine _ _ _ _ | .memScrubLate _ | .memUe _ _ _
  | .memCe _ | .memRecalibration _ _ | .memLoamUe _ _ _ | .prefetchLineFill _ _ _ | .primedLineExpire _ _
  | .tgGo _ _ _ | .tgStop _ _ _ | .memTgDone _ _ _ | .torusHello _ _ _ _ _ _ | .portEnableWrite _ _
  | .dataFlitReceive _ _ | .nakFlit _ _ | .torusDown _ | .netLinkDown _ _ | .packetRoute _ _ _
  | .congestionDetour _ _ _ | .cFlitArrive | .qRequest | .pReply | .netQTimeout _ | .noticePkt
  | .slotSwapRequest _ _ | .slotTableSwap _ | .rtSwapRequest _ | .netRtSwap | .frameRealign | .congestionSample
  | .groupSwapRequest _ | .setupPacket | .creditPacket | .colDataPacket _ | .abortPacket | .colTimeout _ _ _
  | .colInjectArm _ _ | .hostWindowBAccess _ | .msixSend _ | .msixHoldoffEnd _ | .hstLinkUp _ _ _
  | .setEndpointId _ _ | .getEndpointId _ | .getEndpointUuid _ | .getMctpVersionSupport _ _
  | .getMessageTypeSupport _ | .getVendorDefinedMsgSupport _ _ | .mctpUnsupportedCmd _ _ | .hstMctpDropped _
  | .getHealth _ | .readRecords _ _ _ | .readControl _ _ _ | .ethLinkUp _ _ | .ethLinkDown _
  | .ethFrameReceive _ _ | .sessionOpen _ | .sessionClose _ | .openPkt | .openAckPkt | .dataPkt | .ackPkt
  | .closePkt | .keepalivePkt | .openRetryTimer _ | .ethOpenTimeout _ | .ethRto _ _ | .keepaliveTimer _
  | .xferGo _ | .recordWrite _ | .recDropped _ | .recIrqDelayExpire | .rcRegisterRead _ _ | .resetNRelease
  | .inputBackInRange _ | .pwrVbakLow _ | .domainRelease | .rootPllLock | .imageVerifyBoot | .identityKeyDerive
  | .channelTrainingDone _ _ _ | .memoryFillDone | .rstStepReady | .startTimeout | .forceRecovery _
  | .imgVerify | .imgCommit _ | .enroll | .revoke _ | .raiseSvn | .powerWindow _ | .hardCurrentLimit _
  | .sensorSample _ | .thermalTick | .thmMemHot _ | .thmSensorFail _ | .tripCooldownPoll _ | .gateWindowStart
  | .gateHoldStart | .clkSyncRefLost | .clkSyncRefBack | .serdesUnlock _ | .lowWordRead _ | .flitSlot _
  | .idleFlit _ _ | .tracePkt _ | .zqCalibration _ _ | .mandatoryItemDone _ _ | .perstDeassert
  | .pllLockTimeout | .xtalFail | .aonSupplyLost | .serdesRelock _ | .ethAckTimer _ | .currentLimitHoldEnd => false

/-- The commands that change fuses (12 R465). -/
def Instr.burns : Instr → Bool
  | .enroll | .revoke _ | .raiseSvn => true
  | .mmF _ _ | .mmB _ _ | .vecEw _ _ | .redRow _ _ | .redCol _ _ | .rowLnF _ _ | .rowLnB _ _ _ _ | .rowRmsF _ _
  | .rowRmsB _ _ _ _ | .rowSmaxF _ _ | .rowSmaxB _ _ _ _ | .rowXentF _ _ | .rowXentB _ _ _ _ | .rowActd _ _
  | .rowProg _ _ _ _ | .dmaCopy _ _ | .dmaGather _ _ | .dmaFill _ _ | .pfStream _ _ | .pfCancel _ _
  | .colRs _ _ | .colAg _ _ | .colAr _ _ | .colBcast _ _ | .colReduce _ _ | .colSend _ _ | .colRecv _ _
  | .colA2aD _ _ | .colA2aC _ _ | .colPermute _ _ | .colXdr _ _ | .updApply _ _ | .updGatheradd _ _
  | .updFactor _ _ | .updSnap _ _ | .flagWait _ _ | .flagSignal _ _ | .patchLd _ _ | .patchSet _ _
  | .digFold _ _ | .digMirror _ _ | .stepEnd _ _ | .stepVerdict _ _ | .stepShade _ _ | .stepNop _ _
  | .commandFetch _ _ | .commandComplete _ _ _ | .flagSignalArrive _ | .commandOverrun _ _ _ | .umbraAbort _
  | .programLoad | .umbraCfgWrite _ _ | .mmeTileDone _ _ _ | .mmeInjectArm _ _ | .vecChunkDone _ _ _
  | .redFoldDone _ _ _ | .vecInjectArm _ _ | .rowChunkDone _ _ _ | .rowInjectArm _ _ | .updBlockDone _ _ _
  | .updFactorBlockDone _ _ | .updInjectArm _ _ | .bounceSpaceFreed _ _ | .snapStreamItem | .sealBlock
  | .spbDeadlineExpire | .verdictPacket | .jobVerdictArrive | .verdictTimeout | .readyPacket | .barrierReady
  | .barrierRelease | .barrierWarnExpire | .stepSyncEdge | .stepSyncStuck | .stepSyncUnstuck | .noEdge
  | .releasePacket | .syncProbeTimer | .probeFlit _ _ | .echoFlit _ _ _ | .stepRecordCompose | .recordRingWrite
  | .prismChunkDone _ _ _ | .shadeWindowClose | .mandatoryItemPreempt _ _ | .d2dReplay _ _
  | .d2dRecalibration _ | .refreshInterval _ _ | .refreshRatePoll _ _ | .patrolScrubLine _ _ _ _
  | .memScrubLate _ | .memUe _ _ _ | .memCe _ | .memRecalibration _ _ | .memLoamUe _ _ _
  | .prefetchLineFill _ _ _ | .primedLineExpire _ _ | .tgGo _ _ _ | .tgStop _ _ _ | .memTgDone _ _ _
  | .torusHello _ _ _ _ _ _ | .portEnableWrite _ _ | .dataFlitReceive _ _ | .nakFlit _ _ | .torusDown _
  | .netLinkDown _ _ | .packetRoute _ _ _ | .congestionDetour _ _ _ | .cFlitArrive | .qRequest | .pReply
  | .netQTimeout _ | .noticePkt | .cwritePkt | .slotSwapRequest _ _ | .slotTableSwap _ | .rtSwapRequest _
  | .netRtSwap | .frameRealign | .congestionSample | .groupSwapRequest _ | .setupPacket | .creditPacket
  | .colDataPacket _ | .abortPacket | .colTimeout _ _ _ | .colInjectArm _ _ | .hostWindowAAccess _
  | .hostWindowBAccess _ | .msixSend _ | .msixHoldoffEnd _ | .hstLinkUp _ _ _ | .hstLinkDown
  | .setEndpointId _ _ | .getEndpointId _ | .getEndpointUuid _ | .getMctpVersionSupport _ _
  | .getMessageTypeSupport _ | .getVendorDefinedMsgSupport _ _ | .mctpUnsupportedCmd _ _ | .hstMctpDropped _
  | .getHealth _ | .readRecords _ _ _ | .readControl _ _ _ | .mctpReset _ _ _ | .ethLinkUp _ _ | .ethLinkDown _
  | .ethFrameReceive _ _ | .sessionOpen _ | .sessionClose _ | .openPkt | .openAckPkt | .dataPkt | .ackPkt
  | .closePkt | .keepalivePkt | .openRetryTimer _ | .ethOpenTimeout _ | .ethRto _ _ | .keepaliveTimer _
  | .xferGo _ | .recordWrite _ | .recDropped _ | .recIrqDelayExpire | .rcRegisterRead _ _
  | .registerWrite _ _ _ _ | .resetNAssert _ _ | .resetNRelease | .aonPowerOnReset _ _ | .pwrInputFault _ _
  | .inputBackInRange _ | .pwrVbakLow _ | .pwrRailFault _ _ _ | .rstCmdFull | .rstCmdStructural | .rstCmdLink
  | .rstCmdCore | .rstCmdManagement | .loamWritebackDone | .onakanWatchdog | .perst | .pcieHotReset
  | .domainRelease | .rootPllLock | .imageVerifyBoot | .identityKeyDerive | .d2dTrainingDone _ _
  | .channelTrainingDone _ _ _ | .memoryFillDone | .rstStepReady | .startTimeout | .aonRestart
  | .forceRecovery _ | .imgVerify | .imgCommit _ | .powerWindow _ | .hardCurrentLimit _ | .sensorSample _
  | .thermalTick | .thmMemHot _ | .thmSensorFail _ | .thmTrip _ _ | .tripCooldownPoll _ | .gateWindowStart
  | .gateHoldStart | .clkSyncRefLost | .clkSyncRefBack | .clkRootUnlock | .serdesUnlock _ | .clkRefclkLost
  | .lowWordRead _ | .flitSlot _ | .idleFlit _ _ | .tracePkt _ | .zqCalibration _ _ | .mandatoryItemDone _ _
  | .perstDeassert | .pllLockTimeout | .xtalFail | .aonSupplyLost | .serdesRelock _ | .ethAckTimer _
  | .currentLimitHoldEnd => false

end Sys2Proof
end

