-- ==== Sys2Proof/Certificates/Slice0/Obligations.lean ====
section
/-!
DEFINITION. The statements for the provers: what the commands do by the spec's rules, what they leave unchanged, and
what every step keeps.
-/
open Sys2Proof Sys2Proof.Machine

/-! ## The machine as a whole -/

/-- A step runs the command at the front of the queue on the rest of the state, with the queue's rest. -/
def Obligations.StepRunsFront : Prop :=
  ∀ (c : Instr) (rest : List Instr) (s : State), s.pending = c :: rest → step s = exec c { s with pending := rest }

/-- On an empty queue a step is one cycle of the core clock, and of DT, in which only the counters of R242 to R245
move (assumption 1). -/
def Obligations.EmptyQueueCountsOneCycle : Prop :=
  ∀ s : State, s.pending = [] → ∃ t, step s = .next t ∧ t.cc = s.cc + 1 ∧ t.sync.dt = (s.sync.dt + 1) % 2 ^ 64 ∧
    OnlyChanges timeParts timeRegs s t

/-- What reset leaves: every register at its reset value but RST_STATUS and RST_DOMAINS, which tell of the reset; no
flag, no program, no command; only domain 0 out of reset, the rest waiting for their rows of R478. -/
def Obligations.ResetLeaves : Prop :=
  (∀ (r : RegName) (die idx : Nat), r ≠ .RST_STATUS → r ≠ .RST_DOMAINS → rget State.reset r die idx = r.resetVal) ∧
  (∀ d, alive State.reset d = true ↔ d = 0) ∧ rfld State.reset .RST_STATUS 8 0 23 16 = 1 ∧
  State.reset.pending = [] ∧ State.reset.flags = [] ∧ progLoaded State.reset = false ∧ State.reset.cp = {} ∧
  State.reset.rst.rows = List.range' 1 29 ∧ State.reset.sent = [] ∧ (∀ k, mget 0 State.reset.flags k = 0)

/-- The state after reset has the form every state keeps. -/
def Obligations.ResetHasInv : Prop := State.reset.Inv

/-- Every step keeps the form of a state: memory and flags in canonical form, no flag above its width, registers and
tensor tables listed once each, no poison marker twice. -/
def Obligations.StepKeepsInv : Prop := ∀ s t : State, s.Inv → step s = .next t → t.Inv

/-- Every command completes from every state; none changes the queue of the commands that wait, and the count of
cycles never falls. -/
def Obligations.EveryCommandCompletes : Prop :=
  ∀ (c : Instr) (s : State), ∃ t, exec c s = .next t ∧ t.pending = s.pending ∧ s.cc ≤ t.cc

/-- No command that does not load a program or reset part of the module ever takes a flag below its value: signals only
add (06 R208). -/
def Obligations.FlagsNeverFall : Prop :=
  ∀ (c : Instr) (s t : State), c.resets = false → s.Inv → exec c s = .next t →
    ∀ k, mget 0 s.flags k ≤ mget 0 t.flags k

/-- Fuses change only by ENROLL, REVOKE and RAISE_SVN, and a fuse once burnt stays: the grade and the engines present
never change, no owner's hash is replaced, no revoke fuse and no security version goes back (12 R464-R468). -/
def Obligations.FusesOnlyBurn : Prop :=
  (∀ (c : Instr) (s t : State), c.burns = false → exec c s = .next t → t.fuses = s.fuses) ∧
  (∀ (c : Instr) (s t : State), exec c s = .next t →
    t.fuses.gradeS = s.fuses.gradeS ∧ t.fuses.present = s.fuses.present ∧
    (∀ (i h : Nat), s.fuses.owners[i]? = some (some h) → t.fuses.owners[i]? = some (some h)) ∧
    (∀ b, s.fuses.revoked.testBit b = true → t.fuses.revoked.testBit b = true) ∧
    s.fuses.svnFloor ≤ t.fuses.svnFloor)

/-- A write of memory leaves every byte it does not touch as it was. -/
def Obligations.WritesTouchOnlyTheirBytes : Prop :=
  ∀ (m : Mem) (ws : List Wr) (a : Nat), Untouched ws a → rdByte (applyWr m ws) a = rdByte m a

/-! ## Commands at the head of a queue -/

/-- FLAG.WAIT, FLAG.SIGNAL and STEP.NOP complete at issue: the head leaves and its signals are sent; nothing enters
flight. PATCH.SET writes its value to one patch register of its C-die, STEP.SHADE opens a window that ends LEN cc
after its issue, STEP.VERDICT marks its C-die's part of the step and, as the last of the four, lets the contribution
leave: all three complete at issue. -/
def Obligations.ControlCommandsIssue : Prop :=
  (
   ∀ (die : Fin 4) (q : Fin 16) (d : Desc) (s : State),
     (Ready s 0x90 die q d → Does (.flagWait die q) s (signalParts ++ [.queues, .slots]) (flagRegs die)
       fun t => HeadLeft die q s t ∧ Signalled die d s t) ∧
     (Ready s 0x91 die q d → Does (.flagSignal die q) s (signalParts ++ [.queues, .slots]) (flagRegs die)
       fun t => HeadLeft die q s t ∧ Signalled die d s t) ∧
     (Ready s 0xF3 die q d → Does (.stepNop die q) s (signalParts ++ [.queues, .slots]) (flagRegs die)
       fun t => HeadLeft die q s t ∧ Signalled die d s t)) ∧
  (
   ∀ (die : Fin 4) (q : Fin 16) (d : Desc) (s : State), let d' := patchDesc d (patchRegOf s die d)
     (Ready s 0x95 die q d → Does (.patchSet die q) s (signalParts ++ [.queues, .slots])
       (alsoRegs (flagRegs die) [(.CMD_PATCH, die, some (patchReg d'))])
       fun t => HeadLeft die q s t ∧ Signalled die d s t ∧ rget t .CMD_PATCH die (patchReg d') = fld d' 5 31 0) ∧
     (Ready s 0xF2 die q d → Does (.stepShade die q) s (signalParts ++ [.queues, .slots, .cpRest]) (flagRegs die)
       fun t => HeadLeft die q s t ∧ Signalled die d s t ∧
         t.cp.shades = s.cp.shades ++ [⟨shMask d', s.cc + shLen d'⟩]) ∧
     (Ready s 0xF1 die q d → Does (.stepVerdict die q) s
       (signalParts ++ [.queues, .slots, .steps, .col, .net, .eth, .sent])
       (alsoRegs (flagRegs die) [(.COL_TX_BYTES, 6, none), (.COL_TX_BYTES, 7, none), (.ETH_TX_BYTES, 6, none), (.ETH_TX_BYTES, 7, none)])
       fun t => let n := (queueOf s die q).step
         let was := stepOf s n; let now := stepOf t n
         HeadLeft die q s t ∧ Signalled die d s t ∧ now.votes = was.votes ||| 2 ^ die.val ∧
         now.left = (was.left || decide (now.votes = 0xF)) ∧
         (was.left = false → now.left = true → now.leftAt = s.cc ∧
           now.contrib = if was.invalid then 2 else if was.overflow then 1 else 0)))

/-- Matrix, vector, reduction and digest commands issue to the units of their C-die: they enter flight and their units
start; no byte of memory, flag or tensor changes before their work does. Row commands issue to the row engines of
their C-die. One that claims a stat slot no running command reads has the slot PENDING under its key, with the lowest
run of granules that is free, or ABSENT where none is (05 R170). -/
def Obligations.EngineAndRowCommandsIssue : Prop :=
  (
   ∀ (die : Fin 4) (q : Fin 16) (d : Desc) (s : State),
     (Ready s 0x10 die q d → Does (.mmF die q) s issueParts (alsoRegs recRegs [(.MME_INJECT, die, some 0)]) (Issued 0x10 die q d s)) ∧
     (Ready s 0x11 die q d → Does (.mmB die q) s issueParts (alsoRegs recRegs [(.MME_INJECT, die, some 0)]) (Issued 0x11 die q d s)) ∧
     (Ready s 0x20 die q d → Does (.vecEw die q) s issueParts (alsoRegs recRegs [(.VEC_INJECT, die, some 0)]) (Issued 0x20 die q d s)) ∧
     (Ready s 0x40 die q d → Does (.redRow die q) s issueParts (alsoRegs recRegs [(.VEC_INJECT, die, some 0)]) (Issued 0x40 die q d s)) ∧
     (Ready s 0x41 die q d → Does (.redCol die q) s issueParts (alsoRegs recRegs [(.VEC_INJECT, die, some 0)]) (Issued 0x41 die q d s)) ∧
     (Ready s 0xA0 die q d → Does (.digFold die q) s issueParts recRegs (Issued 0xA0 die q d s))) ∧
  (
   ∀ (die : Fin 4) (q : Fin 16) (d : Desc) (s : State) (ecc : List Nat) (corr : Nat),
     let ps : List Part := issueParts ++ [.cpRest]
     let rs := alsoRegs recRegs [(.ROW_INJECT, die, some 0), (.ROW_STAT_CFG, die, some 0), (.ROW_STAT_ECC_COUNT, die, some 0)]
     let d' := patchDesc d (patchRegOf s die d)
     let claimed (t : State) : Prop := rowClaims d' = true → slotReaders s die (rSlot d') = [] →
       let x := statSlot t die (rSlot d')
       x.holds (rowKey s die d') = true ∧
         (x.state = 3 ∨ (x.state = 1 ∧ x.gran = ceilDiv (rRows d') 1024 ∧ x.base + x.gran ≤ granulesOf s die))
     (Ready s 0x50 die q d → Does (.rowLnF die q) s ps rs fun t => Issued 0x50 die q d s t ∧ claimed t) ∧
     (Ready s 0x51 die q d → Does (.rowLnB die q ecc corr) s ps rs fun t => Issued 0x51 die q d s t ∧ claimed t) ∧
     (Ready s 0x52 die q d → Does (.rowRmsF die q) s ps rs fun t => Issued 0x52 die q d s t ∧ claimed t) ∧
     (Ready s 0x53 die q d → Does (.rowRmsB die q ecc corr) s ps rs fun t => Issued 0x53 die q d s t ∧ claimed t) ∧
     (Ready s 0x54 die q d → Does (.rowSmaxF die q) s ps rs fun t => Issued 0x54 die q d s t ∧ claimed t) ∧
     (Ready s 0x55 die q d → Does (.rowSmaxB die q ecc corr) s ps rs fun t => Issued 0x55 die q d s t ∧ claimed t) ∧
     (Ready s 0x56 die q d → Does (.rowXentF die q) s ps rs fun t => Issued 0x56 die q d s t ∧ claimed t) ∧
     (Ready s 0x57 die q d → Does (.rowXentB die q ecc corr) s ps rs fun t => Issued 0x57 die q d s t ∧ claimed t) ∧
     (Ready s 0x58 die q d → Does (.rowActd die q) s ps rs fun t => Issued 0x58 die q d s t ∧ claimed t) ∧
     (Ready s 0x5F die q d → Does (.rowProg die q ecc corr) s ps rs fun t => Issued 0x5F die q d s t ∧ claimed t))


/-- The places of the commands in flight and of the open collectives keep in order from one step to the next, and are so
after reset. -/
def Obligations.StepKeepsPlaces : Prop :=
  State.reset.Placed ∧ ∀ s t : State, s.Placed → step s = .next t → t.Placed

/-- The DMA commands. DMA.COPY copies row after row, each with its scales, a tensor's scale rows with the first of their rows;
DMA.GATHER the rows its index tensor names; DMA.FILL writes its code to every element (06 R205, R206). Where TAG_MODE
asks for it the source's tag is recorded (R202). No line of what they read is marked. PATCH.LD loads patch registers
from the words of a tensor's byte stream (06 R217); PF.STREAM arms the numbered prefetcher of each M-die its rows lie
on and PF.CANCEL stops it (08 R315). -/
def Obligations.MoveCommandsIssue : Prop :=
  (
   ∀ (die : Fin 4) (q : Fin 16) (d : Desc) (s : State), let d' := patchDesc d (patchRegOf s die d)
     let ts := tget s die (dmaSrc d'); let td := tget s die (dmaDst d'); let ti := tget s die (dmaIdx d')
     let ps : List Part := issueParts ++ [.mem, .poison, .loam, .tensors]
     let tagged (t : State) : Prop := ∀ i, tget t die i =
       if i = dmaDst d' ∧ (dmaTag d' = 1 ∨ dmaTag d' = 2) then td.setOtag ts.vtag else tget s die i
     (Ready s 0x60 die q d → (∀ r < td.outer, firstMarked s (rowRuns ts r) = none) →
       Does (.dmaCopy die q) s ps recRegs fun t => Issued 0x60 die q d s t ∧ tagged t ∧
         t.mem = copiedRows ts td s.mem ((List.range td.outer).map fun r => (r, r))) ∧
     (let idx := (List.range td.outer).map fun i => rdInt s.mem ti 0 i;
       Ready s 0x61 die q d → firstMarked s ti.runs = none → (∀ x ∈ idx, 0 ≤ x ∧ x < (ts.outer : Int)) →
       (∀ x ∈ idx, firstMarked s (rowRuns ts x.toNat) = none) →
       Does (.dmaGather die q) s ps recRegs fun t => Issued 0x61 die q d s t ∧ tagged t ∧
         t.mem = copiedRows ts td s.mem ((idx.map (·.toNat)).zipIdx)) ∧
     (Ready s 0x62 die q d → Does (.dmaFill die q) s (issueParts ++ [.mem, .poison, .loam]) recRegs fun t =>
       Issued 0x62 die q d s t ∧
         t.mem = applyWr s.mem ((List.range td.outer).flatMap fun r => (List.range td.inner).map fun c =>
           wrElem td r c (dmaFill d')))) ∧
  (
   ∀ (die : Fin 4) (q : Fin 16) (d : Desc) (s : State), let d' := patchDesc d (patchRegOf s die d)
     (Ready s 0x94 die q d → Does (.patchLd die q) s issueParts (alsoRegs recRegs [(.CMD_PATCH, die, none)]) fun t =>
       Issued 0x94 die q d s t ∧ ∀ k < patchCount d', rget t .CMD_PATCH die (patchReg d' + k) =
         leNat ((((tget s die (patchSrc d')).stream s.mem).drop (4 * k)).take 4)) ∧
     (Ready s 0x68 die q d → Does (.pfStream die q) s (issueParts ++ [.msRest, .loam]) recRegs fun t =>
       Issued 0x68 die q d s t ∧ ∀ m < 2, mget {} t.ms.prefetch (m * 64 + pfStream d') =
         let src := tget s die (pfSrc d')
         if touchesHome s m src then { active := true, tensor := src, row := pfFirst d', last := pfFirst d' + pfRows d',
                                       limit := pfLimit d', armedAt := s.cc + 1 }
         else ({} : Prefetch)) ∧
     (Ready s 0x69 die q d → Does (.pfCancel die q) s (issueParts ++ [.msRest, .loam]) recRegs fun t =>
       Issued 0x69 die q d s t ∧ ∀ m < 2, (mget {} t.ms.prefetch (m * 64 + pfStream d')).active = false))

/-- A collective issues: it joins the open collectives of its group, and begins at once, with its SETUP sent both
ways, when no other of its group is open (10 R389, R393). Here no SETUP has come early for its STREAM, and no table it
reads holds a marked line. COL.XDR issues: it joins the open collectives, takes the next number of its session, and
each counterpart is sent this domain's part of its shard (10 R409). No object of it has come early, and no line of its
source is marked. -/
def Obligations.CollectiveCommandsIssue : Prop :=
  (
   ∀ (die : Fin 4) (q : Fin 16) (d : Desc) (s : State), s.Placed → let d' := patchDesc d (patchRegOf s die d)
     let ok (op : Nat) : Prop := Ready s op die q d ∧
       (∀ e ∈ s.col.early, e.1 ≠ if op = 0xA1 then mirStream d' else colStream d') ∧
       (∀ o, (s.col.ops.find? fun o => o.group = if op = 0xA1 then mirGroup d' else colGroup d') = some o → o.started = true) ∧
       firstMarked s ((colTables op d').flatMap fun i => (tget s die i).runs) = none
     let ps : List Part := issueParts ++ [.col, .net, .loam]
     let rs := alsoRegs recRegs [(.COL_TX_BYTES, 6, none), (.COL_TX_BYTES, 7, none)]
     let opens (op : Nat) (t : State) : Prop := Issued op die q d s t ∧ ∃ o ∈ t.col.ops,
       (o.die = die ∧ o.q = q ∧ o.pos = (queueOf s die q).head ∧ o.op = op ∧ o.finished = false ∧
         o.group = (if op = 0xA1 then mirGroup d' else colGroup d') ∧ o.stream = if op = 0xA1 then mirStream d' else colStream d') ∧
       (o.started = true ↔ ∀ p ∈ s.col.ops, p.group ≠ o.group) ∧
       (o.started = true → ∃ bs, o.setups = [((groupOf s o.group).pos, bs)])
     (ok 0x70 → Does (.colRs die q) s ps rs (opens 0x70)) ∧ (ok 0x71 → Does (.colAg die q) s ps rs (opens 0x71)) ∧
     (ok 0x72 → Does (.colAr die q) s ps rs (opens 0x72)) ∧ (ok 0x73 → Does (.colBcast die q) s ps rs (opens 0x73)) ∧
     (ok 0x74 → Does (.colReduce die q) s ps rs (opens 0x74)) ∧ (ok 0x78 → Does (.colSend die q) s ps rs (opens 0x78)) ∧
     (ok 0x79 → Does (.colRecv die q) s ps rs (opens 0x79)) ∧ (ok 0x7A → Does (.colA2aD die q) s ps rs (opens 0x7A)) ∧
     (ok 0x7B → Does (.colA2aC die q) s ps rs (opens 0x7B)) ∧ (ok 0x7C → Does (.colPermute die q) s ps rs (opens 0x7C)) ∧
     (ok 0xA1 → Does (.digMirror die q) s ps rs (opens 0xA1))) ∧
  (
   ∀ (die : Fin 4) (q : Fin 16) (d : Desc) (s : State), s.Placed → let d' := patchDesc d (patchRegOf s die d)
     let sid := xdrSession d'
     Ready s 0x7E die q d → s.col.xdrEarly = [] → firstMarked s (tget s die (colSrc d')).runs = none →
     Does (.colXdr die q) s (issueParts ++ [.col, .eth, .sent, .loam])
       (alsoRegs recRegs [(.ETH_TX_BYTES, 6, none), (.ETH_TX_BYTES, 7, none)]) fun t =>
       Issued 0x7E die q d s t ∧ mget 0 t.col.xdrCount sid = mget 0 s.col.xdrCount sid + 1 ∧
       ∃ o ∈ t.col.ops, o.die = die ∧ o.q = q ∧ o.pos = (queueOf s die q).head ∧ o.op = 0x7E ∧ o.stream = sid ∧
         o.no = mget 0 s.col.xdrCount sid ∧ o.started = true ∧ o.finished = false)

/-- Update commands issue to the engines of the M-dies that own their regions (07 R268, R280, R284). UPD.APPLY and UPD.FACTOR
hold their work until the verdict of their step, and their bound does not run; under COMMIT their units take the blocks of
R269 and R281, under any other verdict none. A region that begins counts the step in its entry; no other byte of memory
changes. UPD.SNAP makes the snapshot of its range active: its bitmap is cleared, its header stands at the start of
bounce space, and the blocks left are counted (07 R286). -/
def Obligations.UpdateCommandsIssue : Prop :=
  ∀ (die : Fin 4) (q : Fin 16) (d : Desc) (s : State), let d' := patchDesc d (patchRegOf s die d)
    let rs := alsoRegs recRegs [(.UPD_INJECT, 4, some 0), (.UPD_INJECT, 5, some 0)]
    let n := (queueOf s die q).step
    let mine (t : State) (p : Flight → Prop) : Prop := ∃ f ∈ t.cp.flights,
      (f.die = die ∧ f.q = q ∧ f.pos = (queueOf s die q).head) ∧ p f
    let holds (op : Nat) (t : State) : Prop := Issued op die q d s t ∧ mine t fun f => f.boundFrom = none
    let takes (op v : Nat) (t : State) : Prop := Issued op die q d s t ∧
      (mine t fun f => let g := newFlight s die q d
        f.units.map (fun u => (u.key, u.work, u.total)) =
          (if v = 0 then updateWork s g else g.units.map fun u => { u with total := 0 }).map fun u => (u.key, u.work, u.total)) ∧
      ∀ a, (∀ f ∈ t.cp.flights, ∀ x ∈ uRegions s.mem (tget s f.die) f.desc, a < x.2.addr + 60 ∨ x.2.addr + 64 ≤ a) →
        rdByte t.mem a = rdByte s.mem a
    let ps : List Part := issueParts ++ [.mem, .poison, .loam, .steps]
    let us := alsoRegs rs [(.UPD_FAULT, 4, some 0), (.UPD_FAULT, 5, some 0), (.UPD_FROZEN_COUNT, 4, some 0), (.UPD_FROZEN_COUNT, 5, some 0)]
    (Ready s 0x80 die q d → verdictOf s n = none → Does (.updApply die q) s [.queues, .slots, .flights] [] (holds 0x80)) ∧
    (∀ v, Ready s 0x80 die q d → verdictOf s n = some v → Does (.updApply die q) s ps us (takes 0x80 v)) ∧
    (Ready s 0x81 die q d → Does (.updGatheradd die q) s issueParts rs (Issued 0x81 die q d s)) ∧
    (Ready s 0x82 die q d → verdictOf s n = none → Does (.updFactor die q) s [.queues, .slots, .flights] [] (holds 0x82)) ∧
    (∀ v, Ready s 0x82 die q d → verdictOf s n = some v → Does (.updFactor die q) s ps us (takes 0x82 v)) ∧
    (Ready s 0x83 die q d → Does (.updSnap die q) s (issueParts ++ [.upd, .mem, .poison, .loam])
      (alsoRegs recRegs [(.UPD_STATUS, 4, some 0), (.UPD_SNAP_STATUS, 4, some 0)]) fun t =>
      Issued 0x83 die q d s t ∧ t.upd.snapFirst = uFirst d' ∧ t.upd.snapCount = uCount d' ∧
      t.upd.snapTbl = tget s die (uTbl d') ∧ t.upd.snapMap = tget s die (snMap d') ∧
      t.upd.snapBounce = tget s die (snBounce d') ∧ t.upd.snapSession = snSession d' ∧
      t.upd.snapStep = (stepOf s n).stepNo ∧ t.upd.bounce = [] ∧ rbit t .UPD_STATUS 4 0 29 = true)

/-- What the units of a command do as it issues (06 R190, R214): each unit it names has its share of the command's items of
work, and every unit that no earlier command has work for starts its first item in the same cc, unless the gate of 14
R533, a verdict or a stat slot holds it: its first tile (03 R89, R96), chunk of lanes (04 R131, R135), chunk of a row (05
R156), block (07 R284) or chunk of a digest (11 R442). -/
def Obligations.UnitsStartAtIssue : Prop :=
  ∀ (die : Fin 4) (q : Fin 16) (ecc : List Nat) (corr : Nat) (c : Instr) (op : Nat) (d : Desc) (s : State),
    c ∈ [Instr.mmF die q, .mmB die q, .vecEw die q, .redRow die q, .redCol die q, .rowLnF die q, .rowLnB die q ecc corr,
      .rowRmsF die q, .rowRmsB die q ecc corr, .rowSmaxF die q, .rowSmaxB die q ecc corr, .rowXentF die q,
      .rowXentB die q ecc corr, .rowActd die q, .rowProg die q ecc corr, .updGatheradd die q, .digFold die q] →
    c.opcode = some (op, die, q) → Ready s op die q d →
    (unitsOf s die (patchDesc d (patchRegOf s die d))).Nodup →
    ∃ t, exec c s = .next t ∧ Issued op die q d s t ∧ t.mem = s.mem ∧ t.flags = s.flags ∧ t.tensors = s.tensors ∧
      ∃ f ∈ t.cp.flights, (f.die = die ∧ f.q = q ∧ f.pos = (queueOf s die q).head) ∧
        f.units.map (fun u => (u.key, u.n, u.total)) =
          (buildUnits s die f.desc).map (fun u => (u.key, 0, u.total)) ∧
        ∀ u ∈ f.units, 0 < u.total → workHeld t f u.key = false →
          (∀ g ∈ s.cp.flights, ∀ v ∈ g.units, v.key = u.key → v.left = 0) → u.started = true

/-- A queue whose head is STEP.END waits there while a command of it is in flight or the next step is not released;
then it counts a step, delivers the signals of STEP.END unless they left when it was skipped, and starts its stream again
(06 R191). The next command of a
stream comes into a slot of its queue while the queue holds fewer than 512, from a line that is neither uncorrectable nor
on a channel under test (06 R188, R189). -/
def Obligations.StreamsAdvance : Prop :=
  (
   ∀ (die : Fin 4) (q : Fin 16) (d : Desc) (s : State), let u := queueOf s die q
     atHead s die q = some d → dOpcode d = 0xF0 → u.lastIssue ≠ s.cc + 1 →
     openWaits (flagSeen s) d u.step = [] → (u.atEnd = false → allViols s die q d = []) →
     (¬ (flightsOf s die q = [] ∧ u.step + 1 < s.cp.released) →
       Does (.stepEnd die q) s [.queues, .cpRest] [] fun t =>
         queueOf t die q = (if u.atEnd then u else { u with atEnd := true, endAt := s.cc + 1, endSkipped := false }) ∧
         ∀ k, k ≠ qKey die q → mget {} t.cp.queues k = mget {} s.cp.queues k) ∧
     (flightsOf s die q = [] → u.step + 1 < s.cp.released →
       Does (.stepEnd die q) s (signalParts ++ [.queues, .slots, .cpRest]) (flagRegs die) fun t =>
         (queueOf t die q).step = u.step + 1 ∧ (queueOf t die q).head = 0 ∧ (queueOf t die q).atEnd = false ∧
         (queueOf t die q).lastIssue = s.cc + 1 ∧ slotsOf t die q = (slotsOf s die q).drop 1 ∧
         ((u.atEnd && u.endSkipped) = true → t.flags = s.flags ∧ t.cp.signals = s.cp.signals) ∧
         ((u.atEnd && u.endSkipped) = false → Signalled die d s t))) ∧
  (
   ∀ (die : Fin 4) (q : Fin 16) (s : State), let u := queueOf s die q
     let a := u.base + 64 * ((u.head + (slotsOf s die q).length) % u.len)
     progLoaded s = true → 0 < u.len → (slotsOf s die q).length + (flightsOf s die q).length < 512 →
     underTest s a 64 = false → firstMarked s [(a, 64)] = none →
     Does (.commandFetch die q) s [.slots, .queues, .msRest, .loam] [] fun t =>
       slotsOf t die q = slotsOf s die q ++ [BitVec.ofNat 512 (rdNat s.mem a 64)] ∧
       queueOf t die q = { u with hintTo := (queueOf t die q).hintTo } ∧
       ∀ k, k ≠ qKey die q → mget [] t.cp.slots k = mget [] s.cp.slots k ∧ mget {} t.cp.queues k = mget {} s.cp.queues k)

/-- A command that breaks a rule when its waits are satisfied is skipped, whichever its opcode (06 R218, R219, R221): it
leaves the head, its signals leave, its outputs are poisoned with the number of the skip and keep their tags, the skip
is counted and SKIP set, and its step's verdict or a later one becomes invalid. No byte of memory changes. A STEP.END that
breaks a rule is skipped in the same way at its boundary, where its queue stays for its earlier commands and the barrier
(06 R191, R194). -/
def Obligations.IllegalCommandIsSkipped : Prop :=
  (
  ∀ (c : Instr) (op : Nat) (die : Fin 4) (q : Fin 16) (d : Desc) (v : Viol) (s : State),
    c.opcode = some (op, die, q) → atHead s die q = some d → dOpcode d = op → op ≠ 0xF1 →
    (queueOf s die q).lastIssue ≠ s.cc + 1 →
    openWaits (flagSeen s) d (queueOf s die q).step = [] → firstViol (allViols s die q d) = some v →
    ¬ (v.stage = 39 ∧ v.code = skHardFault) →
    let n := (queueOf s die q).step
    let seq := min (rfld s .CMD_SKIP_SEQ 0 0 31 0 + 1) 0xFFFFFFFF
    Does c s (signalParts ++ [.queues, .slots, .tensors, .steps])
      (alsoRegs (flagRegs die) [(.CMD_SKIP_SEQ, 0, some 0), (.CMD_SKIP_CODE_COUNT, die, none)]) fun t =>
      HeadLeft die q s t ∧ Signalled die d s t ∧ rfld t .CMD_SKIP_SEQ 0 0 31 0 = seq ∧
      rfld t .CMD_SKIP_CODE_COUNT die v.code 31 0 = min (rfld s .CMD_SKIP_CODE_COUNT die v.code 31 0 + 1) 0xFFFFFFFF ∧
      rbit t .CMD_FAULT die 0 0 = true ∧
      (∀ i, (tget t die i).vtag = (tget s die i).vtag ∧
        if i ∈ opOutputs s die d then (tget t die i).poison = true ∧ (tget t die i).poisonSeq = seq % 4096
        else tget t die i = tget s die i) ∧
      ((stepOf s n).left = false → (stepOf t n).invalid = true)) ∧
  (
  ∀ (die : Fin 4) (q : Fin 16) (d : Desc) (v : Viol) (s : State), let u := queueOf s die q
    atHead s die q = some d → dOpcode d = 0xF0 → u.lastIssue ≠ s.cc + 1 → u.atEnd = false →
    openWaits (flagSeen s) d u.step = [] → firstViol (allViols s die q d) = some v →
    ¬ (flightsOf s die q = [] ∧ u.step + 1 < s.cp.released) →
    Does (.stepEnd die q) s (signalParts ++ [.queues, .steps, .cpRest])
      (alsoRegs (flagRegs die) [(.CMD_SKIP_SEQ, 0, some 0), (.CMD_SKIP_CODE_COUNT, die, none)]) fun t =>
      queueOf t die q = { u with atEnd := true, endAt := s.cc + 1, endSkipped := true } ∧ Signalled die d s t ∧
      rfld t .CMD_SKIP_SEQ 0 0 31 0 = min (rfld s .CMD_SKIP_SEQ 0 0 31 0 + 1) 0xFFFFFFFF ∧
      rfld t .CMD_SKIP_CODE_COUNT die v.code 31 0 = min (rfld s .CMD_SKIP_CODE_COUNT die v.code 31 0 + 1) 0xFFFFFFFF ∧
      rbit t .CMD_FAULT die 0 0 = true ∧
      ((stepOf s u.step).left = false → (stepOf t u.step).invalid = true))


/-! ## Completion, flags, overruns, loads -/

/-- A command completes once its units have done its work (06 R201, R203, R210): here one that is no collective, is
not held for a verdict and has no last work of its own (rows, UPD.APPLY and DIG.FOLD have). Each output's VTAG has
advanced and its poison is that of the inputs, with the POISON_SEQ of the first poisoned one, or 0; the command is no longer
in flight; its signals have left. A command that was skipped after issue completes without changing a tag or a tensor; its signals leave (06 R218). -/
def Obligations.IssuedCommandsComplete : Prop :=
  (
   ∀ (die : Fin 4) (q : Fin 16) (pos : Nat) (f : Flight) (s : State),
     findFlight s die q pos = some f → f.workDone = true → f.slotWait = false → f.skip = none →
     isRowOp f.op = false → f.op ≠ 0x80 → f.op ≠ 0x82 → f.op ≠ 0xA0 → findOp s die q pos = none →
     (queueOf s die q).atEnd = false → (opOutputs s die f.desc).Nodup →
     Does (.commandComplete die q pos) s (signalParts ++ [.flights, .tensors]) (flagRegs die) fun t =>
       t.cp.flights = (s.cp.flights.filter fun x => !(x.die = die.val && x.q = q.val && x.pos = pos)) ∧
       Signalled die f.stored s t ∧
       ∀ i, if i ∈ opOutputs s die f.desc then
           (tget t die i).vtag = ((tget s die i).vtag + 1) % 2 ^ 16 ∧ (tget t die i).poison = f.poisonIn.isSome ∧
             (tget t die i).poisonSeq = (f.poisonIn.getD 0) % 4096
         else tget t die i = tget s die i) ∧
  (
   ∀ (die : Fin 4) (q : Fin 16) (pos code : Nat) (f : Flight) (s : State),
     findFlight s die q pos = some f → f.workDone = true → f.slotWait = false → f.skip = some code →
     isRowOp f.op = false → findOp s die q pos = none → (queueOf s die q).atEnd = false →
     Does (.commandComplete die q pos) s (signalParts ++ [.flights]) (flagRegs die) fun t =>
       t.cp.flights = (s.cp.flights.filter fun x => !(x.die = die.val && x.q = q.val && x.pos = pos)) ∧ Signalled die f.stored s t)

/-- A signal reaches a flag of another die: the increment is added, and a sum past 2^32 - 1 leaves the flag there,
sets FLAG_SAT and is counted on a C-die (06 R211, R212). It is the oldest in transit between its two dies, and every link
on its way is open (01 R31, R36). A wait sees the signals of earlier cycles only: a flag that
changes in a cycle still reads as it stood before, until the cycle has passed (06 R211). -/
def Obligations.SignalsReachFlags : Prop :=
  (
   ∀ (n i : Nat) (g h : Signal) (s : State), s.cp.signals[n]? = some h → s.cp.signals[i]? = some g →
     (g.die = h.die ∧ g.src = h.src) → (∀ j < i, ∀ x, s.cp.signals[j]? = some x → ¬ (x.die = h.die ∧ x.src = h.src)) →
     g.die < 8 → openRoute s (dieRoute clCoh g.src g.die) = true →
     let k := g.die * 4096 + g.idx
     let sat := 0xFFFFFFFF < mget 0 s.flags k + g.inc
     Does (.flagSignalArrive n) s (signalParts ++ [.fab]) (flagRegs g.die) fun t =>
       mget 0 t.flags k = min (mget 0 s.flags k + g.inc) 0xFFFFFFFF ∧
       (∀ j, j ≠ k → mget 0 t.flags j = mget 0 s.flags j) ∧ t.cp.signals = s.cp.signals.eraseIdx i ∧
       (sat → g.die < 4 → rbit t .CMD_FAULT g.die 0 5 = true ∧
         rfld t .CMD_FLAG_SAT_COUNT g.die 0 31 0 = min (rfld s .CMD_FLAG_SAT_COUNT g.die 0 31 0 + 1) 0xFFFFFFFF) ∧
       (¬ sat → t.regs = s.regs ∧ t.recd = s.recd)) ∧
  (
   (∀ (n : Nat) (g : Signal) (s t : State), s.cp.signals[n]? = some g → exec (.flagSignalArrive n) s = .next t →
     ∀ k, flagSeen t k = flagSeen s k) ∧
   ∀ s t : State, s.pending = [] → step s = .next t → ∀ k, flagSeen t k = mget 0 s.flags k)

/-- A command that runs past its bound is marked, counted and sets OVERRUN, once (06 R236). -/
def Obligations.OverrunIsCountedOnce : Prop :=
  ∀ (die : Fin 4) (q : Fin 16) (pos b : Nat) (f : Flight) (s : State),
    findFlight s die q pos = some f → f.boundFrom = some b → f.stopAt = 0 →
    (f.late = false → Does (.commandOverrun die q pos) s (timeParts ++ recParts ++ [.queues, .flights])
      (alsoRegs (alsoRegs timeRegs recRegs) [(.CMD_FAULT, die, some 0), (.CMD_OVERRUN_COUNT, die, some 0)]) fun t =>
      findFlight t die q pos = some { f with late := true } ∧ s.cc ≤ t.cc ∧ b + boundOf s f + f.stopped + 1 ≤ t.cc ∧
      rfld t .CMD_OVERRUN_COUNT die 0 31 0 = min (rfld s .CMD_OVERRUN_COUNT die 0 31 0 + 1) 0xFFFFFFFF ∧
      rbit t .CMD_FAULT die 0 3 = true) ∧
    (f.late = true → exec (.commandOverrun die q pos) s = .next s)

/-- A wait group whose stall reaches the limit is aborted (06 R231-R233), once the cycle of a flag's change or of a new limit
has passed and if it is stalled then: the head of each of its queues that has not
reached STEP.END stands there afterwards, UMBRA is set on each of its dies and its stall count returns to 0. A write
of CMD_UMBRA_CFG sets the one limit of the module, 16 at least and 28 at most (06 R231). -/
def Obligations.StalledGroupsAbort : Prop :=
  (
   ∀ (g : Fin 16) (s : State),
     let u := if s.flagOld = [] ∧ s.cp.umbraAt ≠ s.cc + 1 then s else (advance 1).run s
     (groupStalled u g = false → exec (.umbraAbort g) s = .next u) ∧
     (groupStalled u g = true → ∃ t, exec (.umbraAbort g) s = .next t ∧
     t.cc = u.cc + (umbraLimit u - mget 0 u.cp.umbra g) ∧ mget 0 t.cp.umbra g = 0 ∧ t.mem = s.mem ∧
     ∀ e ∈ groupQueues s g, rbit t .CMD_FAULT e.1 0 2 = true ∧
       (queueOf t e.1 e.2).step = (queueOf s e.1 e.2).step ∧
       (abortSpan s e.1 e.2 ≠ [] → (queueOf t e.1 e.2).head = (queueOf s e.1 e.2).len - 1))) ∧
  (
   ∀ (die : Fin 4) (v : BitVec 32) (s : State),
     Does (.umbraCfgWrite die v) s [.regs, .cpRest] [(.CMD_UMBRA_CFG, 0, some 0)] fun t =>
       t.cp.umbraAt = s.cc + 1 ∧ rget t .CMD_UMBRA_CFG 0 0 = max 16 (min 28 (v.toNat % 32)))

/-- A load that breaks an item of R186 is refused under the first code: REFUSED and REFUSE_CODE are set and recorded,
and nothing else changes. A load that is accepted puts the program in force (06 R187): LOADED, every flag of every die
0, every queue as its entry of the header says at its first command in step 0, nothing fetched, in flight or in
transit, every tensor with tag 0 and no poison, and the counters since load 0. Memory keeps every byte. -/
def Obligations.ProgramsLoad : Prop :=
  (
   ∀ (c : Nat) (s : State), loadRefusal s (rget s .CMD_PROG_BASE 0 0) = some c →
     Does .programLoad s recParts (alsoRegs recRegs [(.CMD_STATUS, 0, some 0)]) fun t =>
       rbit t .CMD_STATUS 0 0 30 = true ∧ rfld t .CMD_STATUS 0 0 23 16 = c ∧ progLoaded t = progLoaded s ∧ Wrote 0x0306 0 s t) ∧
  (
   ∀ s : State, let b := rget s .CMD_PROG_BASE 0 0
     loadRefusal s b = none → ∃ t, exec .programLoad s = .next t ∧ progLoaded t = true ∧
       rbit t .CMD_STATUS 0 0 30 = false ∧ (∀ k, mget 0 t.flags k = 0) ∧ t.mem = s.mem ∧
       (∀ (n : Fin 4) (q : Fin 16), let e := hdrQueue s b n q
         queueOf t n q = { base := qeBase e, len := qeLen e, grouped := bits e 103 103 = 1, group := bits e 99 96 } ∧
         slotsOf t n q = []) ∧
       t.cp.flights = [] ∧ t.cp.signals = [] ∧ t.cp.released = 0 ∧ t.cp.progDigest = programDigest s b ∧
       (∀ (n : Fin 4) (i : Nat), i < 8192 → (tget t n i).vtag = 0 ∧ (tget t n i).poison = false) ∧
       rget t .CMD_SKIP_SEQ 0 0 = 0 ∧ (∀ (die idx : Nat), die < 16 → rget t .CMD_IDLE die idx = 0 ∧ rget t .CMD_PATCH die idx = 0) ∧
       reproOn t = false ∧ Wrote 0x0305 0 s t)

/-- The shade window that ends first closes when its length has passed, with every other that has ended by then; a
window still running stays open (06 R238). -/
def Obligations.ShadeWindowCloses : Prop :=
  ∀ (w : Shade) (ws : List Shade) (s : State), s.cp.shades = w :: ws →
    Does .shadeWindowClose s (timeParts ++ [.cpRest]) timeRegs fun t =>
      t.cp.shades = (s.cp.shades.filter fun x => t.cc < x.ends) ∧ t.cp.shades.length < s.cp.shades.length ∧
      t.cc = max s.cc (ws.foldl (fun m x => min m x.ends) w.ends)

/-- A write of an injection register sets the fields it names and can set ARM but not clear it (03 R121, 04 R152, 05
R183, 07 R295, 10 R415); nothing else changes. -/
def Obligations.InjectionIsArmed : Prop :=
  ∀ (v : BitVec 32) (s : State),
    let arms (c : Instr) (r : RegName) (die : Nat) (hi : Nat) (kind : Bool) : Prop :=
      Does c s [.regs] [(r, die, some 0)] fun t =>
        rbit t r die 0 31 = (rbit s r die 0 31 || v.toNat.testBit 31) ∧ rfld t r die 0 hi 0 = bits v.toNat hi 0 ∧
        (kind = true → rfld t r die 0 9 8 = bits v.toNat 9 8)
    (∀ die : Fin 4, arms (.mmeInjectArm die v) .MME_INJECT die 4 true ∧ arms (.vecInjectArm die v) .VEC_INJECT die 1 true ∧
      arms (.rowInjectArm die v) .ROW_INJECT die 1 true) ∧
    (∀ m : Fin 2, arms (.updInjectArm m v) .UPD_INJECT (4 + m) 3 true) ∧
    (∀ l : Fin 2, arms (.colInjectArm l v) .COL_INJECT (6 + l) 1 false)


/-! ## Units at work -/

/-- The oldest tile of a matrix engine whose checks pass is written, counted, and leaves its engine; one that fails a check
for the first time keeps its bank, is computed again and writes nothing (03 R106, R110-R115). A tile that ends its
compute stage fills its bank with its accumulators and what the checks find there, behind at most one other full one
(03 R89, R90). A prism unit whose copies agree goes on to its next chunk; a first disagreement has the chunk hashed again
(11 R442, R443). -/
def Obligations.CheckedWorkDone : Prop :=
  (
   ∀ (die : Fin 4) (e : Fin 24) (x : TileFault) (f : Flight) (u : UW) (b0 : Bank) (rest : List Bank) (s : State), s.Placed →
     let k := die.val * 64 + e.val
     unitWork s k = some (f, u) → u.started = true → u.banks = b0 :: rest → b0.pre = false →
     let tt := tget s die
     let i := mmTileNo f.units.length (f.posOf k) u.n
     let b := if b0.full then { b0 with acc := b0.drained f.desc i x } else b0.computed s.mem tt f.desc i x
     let fails := tileFailure b (checksumFault f.desc i b.acc b.sums) (laneFault f.desc i x) x.ecc (mmRect f.desc i).2.2.1
     let rs := alsoRegs recRegs [(.MME_TILE_COUNT, die, some 0), (.MME_CHK_SKIP_COUNT, die, some 0), (.MME_FAULT, die, some 0),
       (.MME_RES_CORR_COUNT, die, some 0), (.MME_DUP_CORR_COUNT, die, some 0), (.MME_CHK_CORR_COUNT, die, some 0),
       (.MME_INJECT, die, some 0), (.UPD_FAULT, 4, some 0), (.UPD_FAULT, 5, some 0)]
     x.compute = false →
     (fails = none → Does (.mmeTileDone die e x) s (recParts ++ [.mem, .poison, .loam, .flights, .steps]) rs fun t =>
       t.mem = applyWr s.mem (mmTile s.mem tt f.desc (stepOf s f.sq).stepNo i b.acc).1 ∧
       rfld t .MME_TILE_COUNT die 0 63 0 = min (rfld s .MME_TILE_COUNT die 0 63 0 + 1) (2 ^ 64 - 1) ∧
       (b.exempt = true → Counted s t .MME_CHK_SKIP_COUNT die 0 31 1) ∧
       ∃ g ∈ t.cp.flights, g.die = f.die ∧ g.q = f.q ∧ g.pos = f.pos ∧ ∃ v ∈ g.units, v.key = k ∧ v.n = u.n + 1) ∧
     (∀ kind place, fails = some (kind, place) → b0.retried = false →
       Does (.mmeTileDone die e x) s (recParts ++ [.flights])
         (alsoRegs recRegs [(.MME_ENG_STATUS, die, some e), (.MME_INJECT, die, some 0)]) fun t =>
       ∃ g ∈ t.cp.flights, g.die = f.die ∧ g.q = f.q ∧ g.pos = f.pos ∧ g.marks.testBit 3 = true ∧
         ∃ v ∈ g.units, v.key = k ∧ v.n = u.n ∧ v.banks.head? = some { inj := b0.inj, retried := true, failed := (kind, place) })) ∧
  (
   ∀ (die : Fin 4) (e : Fin 24) (x : TileFault) (f : Flight) (u : UW) (b : Bank) (full rest : List Bank)
     (before after : List (Flight × UW)) (s : State), s.Placed →
     let k := die.val * 64 + e.val
     unitParts s k = before ++ (f, u) :: after → (∀ p ∈ before, p.2.computing = false ∧ p.2.left ≤ p.2.begun) →
     u.banks = full ++ b :: rest → (∀ c ∈ full, c.pre = false ∧ c.full = true) → b.pre = false → b.full = false →
     (((unitParts s k).flatMap fun p => p.2.banks).filter fun c => c.full).length < 2 →
     x.compute = true →
     Does (.mmeTileDone die e x) s (recParts ++ [.flights]) (alsoRegs recRegs [(.MME_INJECT, die, some 0)]) fun t =>
       ∃ g ∈ t.cp.flights, g.die = f.die ∧ g.q = f.q ∧ g.pos = f.pos ∧ ∃ v ∈ g.units, v.key = k ∧ v.n = u.n ∧
         v.banks[full.length]? =
           some (b.computed s.mem (tget s die) f.desc (mmTileNo f.units.length (f.posOf k) (u.n + full.length)) x)) ∧
  (
   ∀ (die : Fin 4) (w : Fin 8) (f : Flight) (u : UW) (s : State), s.Placed →
     let k := die.val * 64 + 40 + w.val
     unitWork s k = some (f, u) → u.started = true → u.retried = false →
     (Does (.prismChunkDone die w false) s [.flights] [] fun t =>
       ∃ g ∈ t.cp.flights, g.die = f.die ∧ g.q = f.q ∧ g.pos = f.pos ∧ ∃ v ∈ g.units, v.key = k ∧ v.n = u.n + 1) ∧
     (Does (.prismChunkDone die w true) s [.flights] [] fun t =>
       ∃ g ∈ t.cp.flights, g.die = f.die ∧ g.q = f.q ∧ g.pos = f.pos ∧ ∃ v ∈ g.units, v.key = k ∧ v.n = u.n ∧ v.retried = true))

/-- The end of a chunk in a vector unit. The last chunk of a unit of work of VEC.EW writes it and counts its elements;
any other chunk, and the chunks of a reduction, write nothing; the unit goes on to the next (04 R145). The end of a
fold whose copies agree: the row or column chunk is written and counted, and the unit's fold is done (04 R139-R148); where
they differ the first time, the row or column chunk is computed once more and nothing is written (04 R147). -/
def Obligations.VectorWorkDone : Prop :=
  (
   ∀ (die : Fin 4) (w : Fin 4) (f : Flight) (u : UW) (s : State), s.Placed →
     let k := die.val * 64 + 24 + w.val
     unitWork s k = some (f, u) → u.started = true → u.inj = 0 → u.retried = false →
     let p := f.posOf k
     let goesOn (t : State) : Prop := ∃ g ∈ t.cp.flights, g.die = f.die ∧ g.q = f.q ∧ g.pos = f.pos ∧
       ∃ v ∈ g.units, v.key = k ∧ v.n = u.n + 1
     let rs := alsoRegs recRegs [(.VEC_INJECT, die, some 0), (.VEC_ELEM_COUNT, die, some 0), (.UPD_FAULT, 4, some 0), (.UPD_FAULT, 5, some 0)]
     (vIsEw f.desc = true → (vLastOfWork f.desc f.units.length p u.n).1 = true →
       Does (.vecChunkDone die w none) s (recParts ++ [.mem, .poison, .loam, .flights, .steps]) rs fun t =>
       t.mem = applyWr s.mem (ewWork s f p u.n).1 ∧ goesOn t ∧
       rfld t .VEC_ELEM_COUNT die 0 63 0 = min (rfld s .VEC_ELEM_COUNT die 0 63 0 + (ewWork s f p u.n).2.2) (2 ^ 64 - 1)) ∧
     (vIsEw f.desc = true → (vLastOfWork f.desc f.units.length p u.n).1 = false →
       Does (.vecChunkDone die w none) s (recParts ++ [.flights]) rs goesOn) ∧
     (vIsEw f.desc = false → Does (.vecChunkDone die w none) s (recParts ++ [.flights]) rs goesOn)) ∧
  (
   ∀ (die : Fin 4) (w : Fin 4) (f : Flight) (u : UW) (s : State), s.Placed →
     let k := die.val * 64 + 24 + w.val
     foldWork s k = some (f, u) → u.retried = false → (∀ kind, armedKind s k = some kind → kind % 2 = 0) →
     let first := u.fold * redPer f.desc
     let rj := vItem f.desc f.units.length (f.posOf k) first
     let mine (t : State) (p : Flight → UW → Prop) : Prop := ∃ g ∈ t.cp.flights, g.die = f.die ∧ g.q = f.q ∧ g.pos = f.pos ∧
       ∃ v ∈ g.units, v.key = k ∧ p g v
     (Does (.redFoldDone die w none) s (recParts ++ [.mem, .poison, .loam, .flights, .steps])
       (alsoRegs recRegs [(.VEC_INJECT, die, some 0), (.RED_ROW_COUNT, die, some 0), (.UPD_FAULT, 4, some 0), (.UPD_FAULT, 5, some 0)]) fun t =>
       t.mem = applyWr s.mem (redFold s.mem (tget s die) f.desc (if vIsRow f.desc then rj.1 else rj.2)).1 ∧
       rfld t .RED_ROW_COUNT die 0 63 0 = min (rfld s .RED_ROW_COUNT die 0 63 0 + 1) (2 ^ 64 - 1) ∧
       mine t fun _ v => v.fold = u.fold + 1) ∧
     ∀ place, Does (.redFoldDone die w (some place)) s (recParts ++ [.flights])
       (alsoRegs recRegs [(.VEC_INJECT, die, some 0), (.VEC_UNIT_STATUS, die, some w)]) fun t =>
       mine t fun g v => v.fold = u.fold ∧ v.n = first ∧ v.retried = true ∧ g.marks.testBit 3 = true)

/-- The end of a chunk of a row engine whose compares pass: the pass's row writes of the chunk, the engine goes on to the
next, and the last chunk of a row's last pass counts the row (05 R168, R177). -/
def Obligations.RowChunkDone : Prop :=
  ∀ (die : Fin 4) (w : Fin 4) (f : Flight) (u : UW) (p : RowPass) (s : State), s.Placed →
    let k := die.val * 64 + 28 + w.val
    let u' := enterRow s f u
    let ps := progOf s f.desc
    let (r, i, j) := rowItem s f (f.posOf k) u'.n
    let (sc, _) := decSc u'.sc
    unitWork s k = some (f, u) → u.started = true → u.inj = 0 → u.retried = false → f.die = die.val →
    (u.watch = true → ∀ kind, armedKind s k = some kind → kind % 2 = 0) →
    (rowPasses s.mem (tget s die) ps f.desc (lossScale s f.sq) u.bc r)[i]? = some p →
    let lastChunk := decide (j + 1 = rowChunks f.desc)
    let rowDone := lastChunk && decide (i + 1 = rowNumPasses ps f.desc)
    Does (.rowChunkDone die w none) s (recParts ++ [.mem, .poison, .loam, .flights, .steps, .cpRest])
      (alsoRegs recRegs [(.ROW_INJECT, die, some 0), (.ROW_ROWS_DONE, die, some 0), (.ROW_FAULT, die, some 0),
        (.ROW_STAT_MISS_COUNT, die, some 0), (.ROW_BAD_TARGET_COUNT, die, some 0), (.UPD_FAULT, 4, some 0), (.UPD_FAULT, 5, some 0)]) fun t =>
      (rowDone = false → (lastChunk && decide (i + 1 = rowStatPasses ps f.desc)) = false →
        t.mem = applyWr s.mem (rowWrites s f p sc r (1024 * j) (min (rCount f.desc) (1024 * j + 1024))).1) ∧
      rfld t .ROW_ROWS_DONE die 0 63 0 =
        (if rowDone then min (rfld s .ROW_ROWS_DONE die 0 63 0 + 1) (2 ^ 64 - 1) else rfld s .ROW_ROWS_DONE die 0 63 0) ∧
      ∃ g ∈ t.cp.flights, g.die = f.die ∧ g.q = f.q ∧ g.pos = f.pos ∧ ∃ v ∈ g.units, v.key = k ∧ v.n = u'.n + 1

/-- A block of UPD.APPLY or UPD.GATHERADD, or a preconditioner block of UPD.FACTOR, whose compare passes is written
and the engine goes on (07 R270, R281, R284): the region has begun, no line it reads is marked, no result is
non-finite, and the block needs no copy for an active snapshot. Besides, the engine's next block may begin regions, which
count the step in their entries (07 R269). -/
def Obligations.UpdateBlockDone : Prop :=
  ∀ (m : Fin 2) (e : Fin 8) (f : Flight) (u : UW) (s : State), s.Placed → u.started = true → u.waits = false → u.inj = 0 →
    u.retried = false →
    let gb := u.work.getD u.n (0, 0)
    let r := readRegion s.mem (tget s f.die (uTbl f.desc)) gb.1
    let goesOn (k : Nat) (t : State) : Prop := ∃ g ∈ t.cp.flights, g.die = f.die ∧ g.q = f.q ∧ g.pos = f.pos ∧
      ∃ v ∈ g.units, v.key = k ∧ v.n = u.n + 1
    let ps : List Part := recParts ++ [.mem, .poison, .loam, .flights]
    let rs := alsoRegs recRegs [(.UPD_INJECT, 4 + m, some 0)]
    (let k := (4 + m.val) * 64 + e.val
      let out := applyBlock s.mem r (regionHyper s f r) gb.2
      unitWork s k = some (f, u) → f.op = 0x80 →
      (∀ x ∈ uRegions s.mem (tget s f.die) f.desc, x.2.owner = m.val → x.1 ≤ gb.1 → f.begun.testBit x.1 = true) →
      firstMarked s (r.runs gb.2 ++ [(r.grad + 4 * (r.span gb.2).1, 4 * ((r.span gb.2).2 - (r.span gb.2).1))]) = none →
      out.nonfinite = false → bounceOf s r gb.2 = .free →
      Does (.updBlockDone m e false) s (ps ++ [.steps]) (alsoRegs rs [(.UPD_BLOCKS_DONE, 4 + m, some 0), (.UPD_FAULT, 4 + m, some 0),
        (.UPD_FROZEN_COUNT, 4 + m, some 0)]) fun t =>
        (∀ a, (∀ g ∈ s.cp.flights, ∀ x ∈ uRegions s.mem (tget s g.die) g.desc, a < x.2.addr + 60 ∨ x.2.addr + 64 ≤ a) →
          rdByte t.mem a = rdByte (applyWr s.mem out.writes) a) ∧
        ((∀ x ∈ uRegions s.mem (tget s f.die) f.desc, x.2.owner = m.val → f.begun.testBit x.1 = true) →
          (∀ g ∈ s.cp.flights, g.op = 0x80 → g = f) → t.mem = applyWr s.mem out.writes) ∧ goesOn k t ∧
        rfld t .UPD_BLOCKS_DONE (4 + m) 0 63 0 = min (rfld s .UPD_BLOCKS_DONE (4 + m) 0 63 0 + 1) (2 ^ 64 - 1)) ∧
    (let k := (4 + m.val) * 64 + e.val
      let out := gaBlock s.mem (tget s f.die) f.desc gb.2
      unitWork s k = some (f, u) → f.op = 0x81 → firstMarked s (gaRuns (tget s f.die) f.desc gb.2) = none → out.2 = false →
      Does (.updBlockDone m e false) s ps rs fun t => t.mem = applyWr s.mem out.1 ∧ goesOn k t) ∧
    (let k := (4 + m.val) * 64 + 8
      let out := factorBlock s.mem r (spbField (spbBytes s f.sq) r.group 5) gb.2
      unitWork s k = some (f, u) → firstMarked s [(r.state1 + gb.2 * triSize r.pb, triSize r.pb)] = none →
      bounceOf s r (gb.2 * r.pb / r.block) = .free → out.2 < 4 →
      Does (.updFactorBlockDone m false) s ps (alsoRegs rs [(.UPD_DAMP_COUNT, 4 + m, some 0)]) fun t =>
        t.mem = applyWr s.mem out.1 ∧ goesOn k t)

/-- A unit that waits with a block in hand goes on when bounce space has room for the block's old bytes, and its
command's bound clock runs again once none of its units waits (07 R287). One item of an active snapshot leaves over
its session, in a shade window open on Ethernet and on the channels it needs: first the header, then the blocks held in
bounce space, then the blocks not yet written, each in ascending order (07 R288). Here the item is not the last. -/
def Obligations.SnapshotsProceed : Prop :=
  (
   ∀ (m : Fin 2) (e : Fin 9) (f : Flight) (u : UW) (s : State), s.Placed →
     let k := (4 + m.val) * 64 + e.val
     let gb := u.work.getD u.n (0, 0)
     let r := readRegion s.mem (tget s f.die (uTbl f.desc)) gb.1
     unitWork s k = some (f, u) → u.started = true → u.waits = true →
     bounceOf s r (if f.op = 0x80 then gb.2 else gb.2 * r.pb / r.block) ≠ .full →
     Does (.bounceSpaceFreed m e) s [.flights] [] fun t =>
       ∃ g ∈ t.cp.flights, g.die = f.die ∧ g.q = f.q ∧ g.pos = f.pos ∧ (∃ v ∈ g.units, v.key = k ∧ v.waits = false) ∧
         ((∀ v ∈ f.units, v.key ≠ k → v.waits = false) → g.stopAt = 0 ∧ g.stopped = f.stopped + (s.cc + 1 - f.stopAt))) ∧
  (
   ∀ s : State, s.upd.snapCount ≠ 0 → streamOpen s = true →
     sesOpen s s.upd.snapSession = true → sesRoom s s.upd.snapSession = true →
     let ps : List Part := [.eth, .sent, .upd, .regs]
     let rs : List RegAt := [(.ETH_TX_BYTES, 6, some 0), (.ETH_TX_BYTES, 7, some 0)]
     (s.upd.snapHeader = false → Does .snapStreamItem s ps rs fun t =>
       t.upd.snapHeader = true ∧ t.upd.snapBytes = s.upd.snapBytes + 16 + s.upd.snapHdrLen) ∧
     (∀ i b off n, s.upd.snapHeader = true → nextBounce s = some (i, b, off, n) →
       1 < rfld s .UPD_SNAP_STATUS 4 0 39 0 →
       Does .snapStreamItem s ps (alsoRegs rs [(.UPD_SNAP_STATUS, 4, some 0)]) fun t =>
         (∀ e ∈ s.upd.bounce, i < e.1 ∨ (i = e.1 ∧ b ≤ e.2.1)) ∧
         t.upd.bounce = s.upd.bounce.erase (i, b, off, n) ∧ rfld t .UPD_SNAP_STATUS 4 0 39 0 = rfld s .UPD_SNAP_STATUS 4 0 39 0 - 1 ∧
         t.upd.snapBytes = s.upd.snapBytes + 16 + n) ∧
     (∀ i b, s.upd.snapHeader = true → s.upd.bounce = [] → nextUnsent s = some (i, b) →
       1 < rfld s .UPD_SNAP_STATUS 4 0 39 0 → (∀ r ∈ (snapRegion s i).runs b, badLines s r.1 r.2 = []) →
       Does .snapStreamItem s (ps ++ [.mem, .poison, .loam]) (alsoRegs rs [(.UPD_SNAP_STATUS, 4, some 0)]) fun t =>
         snapBitSet t (snapBit s i b) = true ∧
         rfld t .UPD_SNAP_STATUS 4 0 39 0 = rfld s .UPD_SNAP_STATUS 4 0 39 0 - 1 ∧
         t.upd.snapBytes = s.upd.snapBytes + 16 + (blockBytes s.mem (snapRegion s i) b).length))

/-! ## Snapshots and step parameter blocks -/

/-- SEAL copies the staged block into the pending buffer and sets PENDING; while one is pending it is refused, with
its fault bit on both M-dies and nothing copied (07 R257). The deadline for the next block runs out UPD_SPB_DEADLINE
µs after it began, while none is pending: its fault bit is set on both M-dies, once (07 R258). -/
def Obligations.StepBlocksAreSealed : Prop :=
  (
   ∀ s : State,
     (spbPending s = false → Does .sealBlock s [.upd, .regs, .cpRest] [(.UPD_STATUS, 4, some 0)] fun t =>
       t.upd.pending = s.upd.staging ∧ spbPending t = true ∧ t.cp.deadline = 0) ∧
     (spbPending s = true → Does .sealBlock s recParts (alsoRegs recRegs [(.UPD_FAULT, 4, some 0), (.UPD_FAULT, 5, some 0)]) fun t =>
       t.upd = s.upd ∧ spbPending t = true ∧ rbit t .UPD_FAULT 4 0 1 = true ∧ rbit t .UPD_FAULT 5 0 1 = true ∧ (Wrote 0x0441 4 s t ∨ Wrote 0x0441 5 s t))) ∧
  (
   ∀ s : State, let us := rfld s .UPD_SPB_DEADLINE 4 0 31 0
     s.cp.deadline ≠ 0 → us ≠ 0 → spbPending s = false →
     Does .spbDeadlineExpire s (timeParts ++ recParts ++ [.cpRest])
       (alsoRegs (alsoRegs timeRegs recRegs) [(.UPD_FAULT, 4, some 0), (.UPD_FAULT, 5, some 0)]) fun t =>
       rbit t .UPD_FAULT 4 0 2 = true ∧ rbit t .UPD_FAULT 5 0 2 = true ∧ t.cp.deadline = 0 ∧ (Wrote 0x0442 4 s t ∨ Wrote 0x0442 5 s t) ∧
       t.cc = max s.cc (s.cp.deadline - 1 + 1750 * us))


/-! ## The barrier, STEP_SYNC and the verdict -/

/-- A module that nothing keeps from the next release becomes ready: its READY pass starts, with a time at least SYNC_LEAD
after now (11 R427, R428); the release at the time the pass, or the RELEASE pass, settled makes the pending block the
effective one of the next step, with the seed, REPRO and release time of that step (11 R430; 07 R258). After
SYNC_BARRIER_WARN µs without a release the fault bit is set, once. -/
def Obligations.BarrierReleases : Prop :=
  (∀ s : State, alive s 4 = true → progLoaded s = true → s.sync.readyAt = none → notReady s = 0 →
    Does .barrierReady s (recParts ++ [.net, .syncRest])
      (alsoRegs (alsoRegs recRegs txRegs) [(.SYNC_SS_COUNT, 6, none), (.SYNC_LAST_EDGE, 6, some 0)]) fun t =>
      t.sync.readyAt = some s.sync.dt ∧ t.sync.ready.active = true ∧ t.sync.ready.no = s.cp.released ∧
      s.sync.dt + syncLead s ≤ t.sync.ready.value ∧
      (s.sync.t = none → t.sync.t = if t.sync.ready.done then some t.sync.ready.value else none)) ∧
  (∀ (s : State) (at_ : Nat), s.sync.t ≠ none → (if ssUsed s then s.sync.b else s.sync.t) = some at_ →
    let n := s.cp.released
    let (bs, _) := effectiveSpb (leBytes 8448 s.upd.pending) s.upd.lastStep s.img.content.lsMin s.img.content.lsMax
      s.img.content.lsInterval
    let m := s.sync.ready
    Does .barrierRelease s
      (timeParts ++ recParts ++ [.steps, .upd, .syncRest, .cpRest, .queues, .slots, .flags, .signals])
      (alsoRegs (alsoRegs (alsoRegs (flagRegs 0) (flagRegs 1)) (alsoRegs (flagRegs 2) (flagRegs 3))) (alsoRegs timeRegs
        [(.UPD_STEP, 4, some 0), (.UPD_STATUS, 4, some 0), (.UPD_FAULT, 4, some 0), (.UPD_FAULT, 5, some 0),
        (.UPD_CLAMP_COUNT, 4, some 0), (.UPD_LOSS_SCALE, 4, some 0), (.SYS_MODE, 6, some 0), (.SYNC_FAULT, 6, some 0),
        (.DIG_SEED_ACTIVE, 6, some 0), (.COL_GROUP_CTRL, 6, some 0), (.SYNC_LAST_RELEASE, 6, some 0)])) fun t =>
      t.cp.released = n + 1 ∧ (stepOf t n).released = true ∧ (stepOf t n).stepNo = leNat (bs.take 8) ∧
      (stepOf t n).spb = leNat bs ∧ t.upd.lastStep = some (leNat (bs.take 8)) ∧ spbPending t = false ∧
      (stepOf t n).seed = rget s .DIG_SEED 6 0 ∧ rget t .DIG_SEED_ACTIVE 6 0 = rget s .DIG_SEED 6 0 % 2 ^ 64 ∧
      t.cc = s.cc + (at_ - s.sync.dt) ∧ (stepOf t n).releaseDt = t.sync.dt ∧
      rget t .SYNC_LAST_RELEASE 6 0 = t.sync.dt % 2 ^ 64 ∧ t.sync.readyAt = none ∧ t.sync.t = none ∧ t.sync.b = none ∧
      (m.orv = m.andv → m.orv ≤ 1 → reproOn t = decide (m.orv = 1)) ∧
      (m.orv ≠ m.andv → reproOn t = reproOn s ∧ rbit t .SYNC_FAULT 6 0 7 = true)) ∧
  (∀ (s : State) (r : Nat), let us := rfld s .SYNC_BARRIER_WARN 6 0 31 0
    s.sync.readyAt = some r → us ≠ 0 → s.sync.warned = false →
    Does .barrierWarnExpire s (timeParts ++ recParts ++ [.syncRest])
      (alsoRegs (alsoRegs timeRegs recRegs) [(.SYNC_FAULT, 6, some 0)]) fun t =>
      t.cc = s.cc + (r + 1750 * us - s.sync.dt) ∧ t.sync.warned = true ∧ rbit t .SYNC_FAULT 6 0 4 = true)

/-- An edge of STEP_SYNC reaches the step master: one before T is known is held, one too early is counted under its
cause, one within the window of T is accepted and sets the boundary (11 R433-R436). An input stuck for 100 ms is
reported and one released for 1 ms is used again (R435). Without an edge by T + W the release goes on at T + W + LEAD. -/
def Obligations.StepSyncSetsBoundary : Prop :=
  (∀ s : State, let e := s.sync.dt
    let edge (post : State → Prop) : Prop := Does .stepSyncEdge s (timeParts ++ recParts ++ [.syncRest, .net])
      (alsoRegs (alsoRegs timeRegs recRegs) (alsoRegs txRegs [(.SYNC_SS_COUNT, 6, none), (.SYNC_LAST_EDGE, 6, some 0)]))
      fun t => t.cc = s.cc + 64 ∧ t.sync.ssLevel = true ∧ t.sync.ssSince = s.cc ∧ post t
    alive s 4 = true → ssMaster s = true →
    (rbit s .SYNC_STATUS 6 0 30 = true → edge fun t => Counted s t .SYNC_SS_COUNT 6 3 31 1) ∧
    (rbit s .SYNC_STATUS 6 0 30 = false →
      (s.sync.t = none → edge fun t => t.sync.held = s.sync.held ++ [e]) ∧
      ∀ T, s.sync.t = some T →
        (e + ssWindow s < T → edge fun t => Counted s t .SYNC_SS_COUNT 6 1 31 1 ∧ t.sync.edge = s.sync.edge) ∧
        (T ≤ e + ssWindow s → e ≤ T + ssWindow s →
          (∀ l, s.sync.lastAccepted = some l → l + 1750 * rfld s .SYNC_SS_MIN_PERIOD 6 0 23 0 ≤ e) →
          edge fun t => Counted s t .SYNC_SS_COUNT 6 0 31 1 ∧ t.sync.lastAccepted = some e ∧
            rget t .SYNC_LAST_EDGE 6 0 = e % 2 ^ 64 ∧
            (s.sync.edge = none → s.sync.release.active = false → t.sync.edge = some e ∧ t.sync.release.active = true ∧
              t.sync.release.no = s.cp.released ∧ max T (max e s.sync.tk + syncLead s) ≤ t.sync.release.value)))) ∧
  (∀ s : State, alive s 4 = true → ssMaster s = true → rbit s .SYNC_STATUS 6 0 30 = false →
    Does .stepSyncStuck s (timeParts ++ recParts ++ [.syncRest])
      (alsoRegs (alsoRegs timeRegs recRegs) [(.SYNC_STATUS, 6, some 0), (.SYNC_FAULT, 6, some 0)]) fun t =>
      t.cc = max s.cc ((if s.sync.ssLevel then s.sync.ssSince else s.cc) + 175000000) ∧
      rbit t .SYNC_STATUS 6 0 30 = true ∧ rbit t .SYNC_FAULT 6 0 5 = true ∧ Wrote 0x0A07 6 s t) ∧
  (∀ s : State, Does .stepSyncUnstuck s (timeParts ++ [.syncRest]) (alsoRegs timeRegs [(.SYNC_STATUS, 6, some 0)]) fun t =>
    t.cc = s.cc + 1750000 ∧ t.sync.ssLevel = false ∧ rbit t .SYNC_STATUS 6 0 30 = false) ∧
  (∀ (s : State) (T : Nat), s.sync.t = some T → ssUsed s = true → ssMaster s = true → s.sync.edge = none →
    s.sync.release.active = false →
    Does .noEdge s (timeParts ++ recParts ++ [.syncRest, .net])
      (alsoRegs (alsoRegs timeRegs recRegs) (alsoRegs txRegs [(.SYNC_SS_COUNT, 6, some 4), (.SYNC_FAULT, 6, some 0)])) fun t =>
      Counted s t .SYNC_SS_COUNT 6 4 31 1 ∧ rbit t .SYNC_FAULT 6 0 6 = true ∧ t.sync.release.active = true ∧
      T + ssWindow s + syncLead s ≤ t.sync.release.value)

/-- Every 1 ms a module that follows a time master sends a PROBE to it; a PROBE is answered in the 64th slot after its
own; and an ECHO moves DT by whole SYNC_REF periods, with the residual shown, or unlocks (11 R421-R423). The ACK and the
credit on a PROBE or ECHO with a right CRC count (09 R340). -/
def Obligations.AlignmentFollowsMaster : Prop :=
  (∀ (s : State) (p : Nat), parentPort s = some p →
    Does .syncProbeTimer s (timeParts ++ [.net, .syncRest]) timeRegs fun t =>
      (portOf t p).ctrl = (portOf s p).ctrl ++ [leNat (probeBytes 0)] ∧ t.sync.nextProbe = t.sync.dt + 1750000 ∧
      t.cc = s.cc + (s.sync.nextProbe - s.sync.dt)) ∧
  (∀ (s : State) (p : Fin 6) (count link : BitVec 64), portUp s p = true →
    slotCrc (leNat (probeBytes count.toNat)) link.toNat = bits link.toNat 31 0 →
    let u := (takeLink p link.toNat).run s
    Does (.probeFlit p (count, link)) s [.net] [] fun t =>
      portOf t p = { portOf u p with
        ctrl := (portOf s p).ctrl ++ [(slotNow s + 64) * 2 ^ 2048 + leNat (echoBytes count.toNat 0)] } ∧
      ∀ o, o ≠ p.val → portOf t o = portOf s o) ∧
  (∀ (s : State) (p : Fin 6) (sent count link : BitVec 64), parentPort s = some p.val → s.sync.probeSlot = some sent.toNat →
    slotCrc (leNat (echoBytes sent.toNat count.toNat)) link.toNat = bits link.toNat 31 0 →
    s.sync.dt < 2 ^ 64 → let (k, e25) := offsetOf sent.toNat count.toNat (slotNow s)
    let near := decide (-500 ≤ e25 ∧ e25 ≤ 500)
    Does (.echoFlit p sent (count, link)) s (recParts ++ [.net, .syncRest, .dt]) (alsoRegs recRegs
      [(.NET_PORT_STATUS, 6, some p), (.SYNC_RESIDUAL, 6, some 0), (.SYNC_STATUS, 6, some 0), (.SYNC_FAULT, 6, some 0)]) fun t =>
      portOf t p = portOf ((takeLink p link.toNat).run s) p ∧
      t.sync.probeSlot = none ∧ rbit t .SYNC_STATUS 6 0 31 = near ∧
      rfld t .SYNC_RESIDUAL 6 0 31 16 = (k % 2 ^ 16).toNat ∧
      rfld t .SYNC_RESIDUAL 6 0 15 0 = (nearestEven e25 25 % 2 ^ 16).toNat ∧
      t.sync.dt = (if near then (((s.sync.dt : Int) + 70 * k) % 2 ^ 64).toNat else s.sync.dt) ∧
      (near = true → rbit s .SYNC_STATUS 6 0 31 = true → k ≠ 0 → rbit t .SYNC_FAULT 6 0 0 = true) ∧
      (near = false → rbit t .SYNC_FAULT 6 0 1 = true))

/-- A packet of the verdict, READY or RELEASE pass that the routers delivered is taken: merged into the present stage by
the maximum of the values and the union of the masks, a stage with a full mask giving way to a later one, or kept for
a pass not begun (10 R406; 11 R428, R436). The job verdict of a step is shown, kept as the step's, and moves the loss
scale of the next (07 R263-R265); a pass that ends in no verdict in time halts the job with SKIP_INVALID (10 R408). -/
def Obligations.VerdictAndPassesMerge : Prop :=
  (∀ (s : State) (p : Packet),
    let num (o w : Nat) : Nat := leNat ((p.payload.drop o).take w)
    let st := num 0 1
    let merges (c : Instr) (k : PassKind) (ps : List Part) (rs : List RegAt) : Prop :=
      let m := passGet s k
      let m' := m.take (num 2 8) (num 10 1) (num 11 1) (num 12 1) (num 16 8)
      let full := stageFull (stageGroup s st) m'
      Does c s (.net :: .regs :: ps) (alsoRegs txRegs rs) fun t =>
        (m.active = true → p.cseq = m.no → m.stage = st → full = false → passGet t k = m') ∧
        (m.active = true → p.cseq = m.no → m.stage = st → full = true → st < 3 → st < (passGet t k).stage) ∧
        (m.active = false → (passGet t k).early =
          m.early ++ [(4 * p.cseq + st, num 2 8, num 10 1, num 11 1, num 12 1, num 16 8)]) ∧
        t.net.ejected.length + 1 = s.net.ejected.length
    (s.net.ejected.find? (fun x => !x.more && (x.cls = 2 && x.stream = 0xFFFF)) = some p →
      merges .verdictPacket .verdict [.col, .eth, .sent] []) ∧
    (s.net.ejected.find? (fun x => !x.more && isPass 1 x) = some p → merges .readyPacket .ready (.syncRest :: recParts)
      (alsoRegs recRegs [(.SYNC_SS_COUNT, 6, none), (.SYNC_LAST_EDGE, 6, some 0)])) ∧
    (s.net.ejected.find? (fun x => !x.more && isPass 2 x) = some p → merges .releasePacket .release [.syncRest] [])) ∧
  (∀ (s : State) (v : Nat), let n := s.col.verdictStep
    (∀ f ∈ s.cp.flights, f.op ≠ 0x80 ∧ f.op ≠ 0x82 ∧ f.op ≠ 0x57) → s.col.queue = [] →
    let ends (c : Instr) (w : Nat) (ps : List Part) (rs : List RegAt) (post : State → Prop) : Prop :=
      Does c s (recParts ++ [.steps, .col] ++ ps) (alsoRegs (alsoRegs recRegs rs)
        [(.UPD_STATUS, 4, some 0), (.UPD_LOSS_SCALE, 4, some 0)]) fun t =>
        (stepOf t n).verdict = some w ∧ rfld t .UPD_STATUS 4 0 31 30 = w % 4 ∧ t.col.verdict.active = false ∧
        (lsSet s (n + 1) = false → ((stepOf t (n + 1)).lsExp, (stepOf t (n + 1)).clean) =
          scaleAfter s.img.content w (stepOf s n).lsExp (stepOf s n).clean) ∧ post t
    (jobVerdict s = some v → ends .jobVerdictArrive v [] [] fun _ => True) ∧
    (s.col.verdict.active = true → jobVerdict s = none →
      ends .verdictTimeout 2 timeParts (alsoRegs timeRegs
        [(.COL_STATUS, 6, some 0), (.COL_STATUS, 7, some 0), (.COL_FAULT, 6, some 0), (.COL_FAULT, 7, some 0)]) fun t =>
        jobHalt t = true ∧ rbit t .COL_FAULT 6 0 5 = true ∧ rbit t .COL_FAULT 7 0 5 = true ∧
        t.cc = max s.cc (s.col.sentAt + 1750 * rfld s .COL_VERDICT_TIMEOUT 6 0 31 0)))

/-! ## Step records and the recorder -/

/-- The record of the next step is composed once its verdict is known and its commands are over: chained to the digest
before it, signed over its own digest, numbered, and its bank of slots cleared (11 R440, R449-R453). It goes to its
ring entry when HOLD permits, or is lost and counted where there is no ring (11 R454). -/
def Obligations.StepRecordsAreKept : Prop :=
  (∀ s : State, let n := s.dig.nextStep
    let body := recordBody s n false
    let sig := Config.falconSign identityPair.2 (recordDigest body) s.freeCtr
    progLoaded s = true → (stepOf s n).verdict ≠ none → stepOver s n = true → s.dig.waiting = none →
    Does .stepRecordCompose s (recParts ++ [.freeCtr, .dig])
      (alsoRegs recRegs [(.DIG_LAST_DIGEST, 6, some 0), (.DIG_FAULT, 6, some 0)]) fun t =>
      t.dig.nextStep = n + 1 ∧ t.dig.seq = s.dig.seq + 1 ∧ rget t .DIG_LAST_DIGEST 6 0 = t.dig.prev % 2 ^ 256 ∧
      (∃ r, t.dig.waiting = some r ∧ r.step = n ∧ r.seq = s.dig.seq ∧ r.stepNo = (stepOf s n).stepNo ∧
        (Config.falconVerify identityPair.1 (recordDigest body) sig = true →
          r.bytes = body ++ fillTo 1280 sig ∧ t.dig.prev = leNat (recordDigest body))) ∧
      ∀ i < 256, mget {} t.dig.slots (digKey n i) = {} ∧
        mget {} t.dig.slots (digKey (n + 1) i) = mget {} s.dig.slots (digKey (n + 1) i)) ∧
  (∀ (s : State) (r : StepRec), let n := rfld s .DIG_RING_CTRL 6 0 10 0
    let base := rfld s .DIG_RING_BASE 6 0 47 15 * 32768
    s.dig.waiting = some r →
    (n ≠ 0 → inMemory s base (base + 32768 * n) = true →
      (rbit s .DIG_RING_CTRL 6 0 31 = true → r.seq < (rget s .DIG_RING_ACK 6 0 + 1) % 2 ^ 64 + n) →
      Does .recordRingWrite s (recParts ++ [.mem, .poison, .loam, .dig]) (alsoRegs recRegs [(.DIG_RING_HEAD, 6, some 0)]) fun t =>
        t.mem = applyWr s.mem (byteWrs (base + 32768 * (r.seq % n)) r.bytes) ∧ t.dig.waiting = none ∧ t.dig.lost = false ∧
        rget t .DIG_RING_HEAD 6 0 = r.seq % 2 ^ 64 ∧ t.host.raised.testBit 10 = true) ∧
    (n = 0 → Does .recordRingWrite s (recParts ++ [.dig])
        (alsoRegs recRegs [(.DIG_OVERRUN_COUNT, 6, some 0), (.DIG_FAULT, 6, some 0)]) fun t =>
        t.dig.waiting = none ∧ t.dig.lost = true ∧ Counted s t .DIG_OVERRUN_COUNT 6 0 31 1 ∧ rbit t .DIG_FAULT 6 0 1 = true) ∧
    (n ≠ 0 → inMemory s base (base + 32768 * n) = true → rbit s .DIG_RING_CTRL 6 0 31 = true →
      (rget s .DIG_RING_ACK 6 0 + 1) % 2 ^ 64 + n ≤ r.seq → exec .recordRingWrite s = .next s))

/-- The recorder places the first record of a die's path at the head of its ring, at the ring's start where the rest does
not hold it, moves REC_HEAD past it, and raises vector 0 when the unread records reach the threshold (13 R511-R513,
R515). A path with room again has its losses told in a record of the recorder's own (R514), and the oldest unread
record raises vector 0 once more when REC_IRQ_DELAY µs have passed (R515). A record crosses the die-to-die links, which are
open (01 R36, R42). -/
def Obligations.RecordsEnterTheRing : Prop :=
  (∀ (src : Fin 10) (s : State),
    let seq := recHead s
    let placed (x : Rec) (t : State) : Prop :=
      let at_ := if 32768 < recOff s + recUnits x then 0 else recOff s
      t.recd.live.getLast? = some (seq, at_, recUnits x, nowUs s) ∧
      rget t .REC_HEAD 8 0 = ((seq + 1) * 2 ^ 16 + (at_ + recUnits x) % 32768) % 2 ^ 64 ∧
      (recOff s + recUnits x ≤ 32768 → t.recd.ring = wrBytes s.recd.ring (32 * recOff s) (recBytes seq x)) ∧
      (seq - recRd s < rfld s .REC_IRQ_THRESH 8 0 15 0 → rfld s .REC_IRQ_THRESH 8 0 15 0 ≤ seq + 1 - recRd s →
        t.host.raised.testBit 0 = true)
    let ps : List Part := recParts ++ [.freeCtr]
    let rs : List RegAt := [(.REC_HEAD, 8, some 0), (.REC_OLDEST, 8, some 0), (.REC_LOST_COUNT, 8, some 0), (.REC_FAULT, 8, some 0)]
    (∀ x rest, mget [] s.recd.paths src = x :: rest → openRoute s (dieRoute clCoh src 8) = true →
      Does (.recordWrite src) s (ps ++ [.fab]) rs fun t => mget [] t.recd.paths src = rest ∧ placed x t) ∧
    (mget 0 s.recd.drops src ≠ 0 → (mget [] s.recd.paths src).length < 56 → s.img.content.filters = [] →
      Does (.recDropped src) s ps rs fun t => mget 0 t.recd.drops src = 0 ∧ t.recd.paths = s.recd.paths ∧
        placed ⟨0x0001, 8, recDt s, nowMs s, recStep s, layItems [.num 1 src, .num 4 (mget 0 s.recd.drops src)]⟩ t)) ∧
  (∀ (q off units at_ : Nat) (s : State), let us := rfld s .REC_IRQ_DELAY 8 0 31 0
    s.recd.live.find? (fun e => recRd s ≤ e.1 && s.recd.delayNext ≤ e.1) = some (q, off, units, at_) → us ≠ 0 →
    Does .recIrqDelayExpire s (timeParts ++ [.raised, .recd]) timeRegs fun t =>
      t.host.raised.testBit 0 = true ∧ t.recd.delayNext = q + 1 ∧ t.cc = max s.cc (s.pow.aonAt + (at_ + us) * 1750))

/-! ## Mandatory items, refresh and scrub -/

/-- A mandatory item at its deadline runs in an open window on its resource; elsewhere it takes the units it affects,
counted and flagged on each C-die that has some, until the commands in flight on them have reached their end and it is
done, when they are free again and its record is written (06 R239, R241). A link's recalibration trains both its
directions again, and is not done before they have trained (01 R40, R42). -/
def Obligations.MandatoryItemsRun : Prop :=
  ∀ (item : BgItem) (res : Nat) (s : State),
    let ran (t : State) : Prop :=
      (item = .refresh → res < 16 → ∀ c ∈ pkgChans s (res / 8) (res % 8), debtOf t (res / 8) c = 0) ∧
      (item = .recal → res ∉ t.ms.recal ∧
        (res < 16 → ∀ c ∈ pkgChans s (res / 8) (res % 8), mget 0 t.ms.recaled (chKey (res / 8) c) = s.cc + 1))
    let trains (t : State) : Prop := item = .recal → ∀ k ∈ resLinks res, (linkDir t k).retrain = true
    (itemDue s item res = true → (∀ h ∈ s.cp.holds, ¬ (h.item = item ∧ h.res = res)) →
      (shadeOpen s res = true → Does (.mandatoryItemPreempt item res) s [.msRest, .fab] [] fun t => ran t ∧ trains t) ∧
      (shadeOpen s res = false → Does (.mandatoryItemPreempt item res) s [.cpRest, .regs, .raised, .fab]
        ((preemptedDies res).flatMap fun d => [(.CMD_PREEMPT_COUNT, d, some 0), (.CMD_FAULT, d, some 0)]) fun t =>
        t.cp.holds = s.cp.holds ++ [⟨item, res, s.cc⟩] ∧ trains t ∧
        ∀ d ∈ preemptedDies res, Counted s t .CMD_PREEMPT_COUNT d 0 31 1 ∧ rbit t .CMD_FAULT d 0 4 = true)) ∧
    (∀ h, s.cp.holds.find? (fun h => h.item = item && h.res = res) = some h →
      ((∀ f ∈ s.cp.flights, resFlights s res f = false) → (∀ k ∈ resLinks res, (linkDir s k).retrain = false) →
        Does (.mandatoryItemDone item res) s (recParts ++ [.cpRest, .msRest]) recRegs fun t =>
          ran t ∧ t.cp.holds = s.cp.holds.filter (· != h) ∧ Wrote 0x0303 0 s t) ∧
      ((∃ f ∈ s.cp.flights, resFlights s res f = true) ∨ (∃ k ∈ resLinks res, (linkDir s k).retrain = true) →
        exec (.mandatoryItemDone item res) s = .next s))

/-- A t_REFI adds to a channel's refresh debt at ×4, what the reserve serves of it being a free value, and never at ×1
and ×2; an open window clears it, and at 8 the channel refreshes at once, counted and flagged (08 R316-R318). A
temperature poll sets each package's multiplier. A corrected-error burst, the ZQ interval and a wire's corrected errors make
a resource due for recalibration (08 R297, R320, R324; 01 R42). A beat of a link is taken with its corrected errors
counted by wire, or sent again, which marks the commands it delays beyond one replay in 2^20 beats (01 R24, R25, R27; 06
R237). -/
def Obligations.RefreshAndRecalibration : Prop :=
  (∀ (m : Fin 2) (c : Fin 64) (s : State), let d := debtOf s m c
    let res := pkgRes m c
    let mult := mget 0 s.ms.mult (m * 8 + c.val / 8)
    let left := debtLeft mult (d + 1) (Config.freeValue s.freeCtr % 2 ^ 32)
    let others (t : State) : Prop := ∀ k, k ≠ chKey m c → mget 0 t.ms.debt k = mget 0 s.ms.debt k
    let rs : List RegAt := [(.MEM_PKG_STATUS, 4 + m, some (c.val / 8))]
    chActive s m c = true →
    (shadeOpen s res = true → Does (.refreshInterval m c) s [.regs, .msRest] rs fun t => debtOf t m c = 0 ∧ others t) ∧
    (shadeOpen s res = false → left < 8 → Does (.refreshInterval m c) s [.regs, .msRest, .freeCtr] rs fun t =>
      debtOf t m c = left ∧ others t ∧ debtOf t m c ≤ d + 1 ∧ (mult < 2 → debtOf t m c ≤ d)) ∧
    (shadeOpen s res = false → mult < 2 → d < 8 → Does (.refreshInterval m c) s [.regs, .msRest, .freeCtr] rs fun t =>
      debtOf t m c ≤ d ∧ others t) ∧
    (shadeOpen s res = false → d < 7 → Does (.refreshInterval m c) s [.regs, .msRest, .freeCtr] rs fun t =>
      debtOf t m c ≤ d + 1 ∧ others t) ∧
    (shadeOpen s res = false → 8 ≤ left → Does (.refreshInterval m c) s (recParts ++ [.msRest, .flights, .freeCtr])
      (alsoRegs (alsoRegs rs recRegs) [(.MEM_FORCED_REFRESH_COUNT, 4 + m, some 0), (.MEM_FAULT, 4 + m, some 0)]) fun t =>
      debtOf t m c = 0 ∧ others t ∧ Counted s t .MEM_FORCED_REFRESH_COUNT (4 + m) 0 31 1 ∧ rbit t .MEM_FAULT (4 + m) 0 4 = true ∧ Wrote 0x0505 (4 + m) s t)) ∧
  (∀ (m : Fin 2) (temps : List (BitVec 8)) (s : State),
    Does (.refreshRatePoll m temps) s (recParts ++ [.msRest, .pow]) (alsoRegs recRegs [(.MEM_PKG_STATUS, 4 + m, none)]) fun t =>
      ∀ (p : Nat) (x : BitVec 8), temps[p]? = some x → p < 8 → mget 0 t.ms.mult (m * 8 + p) = multOf x.toInt ∧
        rfld t .MEM_PKG_STATUS (4 + m) p 31 30 = multOf x.toInt ∧ rfld t .MEM_PKG_STATUS (4 + m) p 23 16 = x.toNat ∧
        (rbit t .MEM_PKG_STATUS (4 + m) p 29 = decide (105 < x.toInt)) ∧
        (x.toInt ≤ 105 → t.pow.hot.testBit (m * 8 + p) = false)) ∧
  (∀ (s : State), let due (c : Instr) (res : Nat) : Prop := Does c s [.msRest] [] fun t => res ∈ t.ms.recal ∧
      (∀ r ∈ s.ms.recal, r ∈ t.ms.recal) ∧ ∀ r ∈ t.ms.recal, r = res ∨ r ∈ s.ms.recal
    (∀ (m : Fin 2) (c : Fin 64), chActive s m c = true → due (.zqCalibration m c) (pkgRes m c)) ∧
    (∀ (m : Fin 2) (c : Fin 64), chKey m c ∈ s.ms.drifted → due (.memRecalibration m c) (pkgRes m c)) ∧
    (∀ l : D2D, (∃ e ∈ (linkDir s l.key).corr, s.img.content.d2dDrift < e.2) → due (.d2dRecalibration l) (16 + linkNo l)) ∧
    ∀ (l : D2D) (raw : Nat), let h := linkDir s l.key
      let others (t : State) : Prop := ∀ k, k ≠ l.key → linkDir t k = linkDir s k
      h.trained = true → h.retrain = false →
      (∀ ws, received l.narrow raw = some ws → Does (.d2dReplay l raw) s [.fab] [] fun t =>
        others t ∧ (linkDir t l.key).sent.getLast? = some (flipWires raw ws) ∧ (linkDir t l.key).tries = 0 ∧
        (∀ w, mget 0 (linkDir t l.key).corr w = mget 0 h.corr w + (ws.filter (· = w)).length)) ∧
      (received l.narrow raw = none → h.tries < 4 → Does (.d2dReplay l raw) s [.fab, .flights] [] fun t =>
        others t ∧ linkDir t l.key = { h with tries := h.tries + 1, replays := h.replays + 1, replayAt := s.cc + 1 } ∧
        t.cp.flights = if h.excess l.narrow s.cc then s.cp.flights.map fun f =>
          if linkUsed s f.die f.desc (linkNo l) then { f with marks := f.marks ||| 4 } else f else s.cp.flights))

/-! ## Memory errors, prefetchers and traffic tests -/

/-- Errors of memory (08 R299, R313, R320, R323): a read decodes what its line stores with the error that strikes it, and one
that does not decode reads again; a read that decodes with an error is a corrected one, counted, and the line is
rewritten; one that does not marks its line, counts it, latches the first address, and skips the command that reads. A word
of the loam cache with one bit wrong is corrected; a dirty line lost there is marked, a clean one read again. The patrol
scrub goes line by line, rewrites what it corrects and marks what it cannot read; a pass that takes 24 h sets its fault
bit once (R321, R322). -/
def Obligations.MemoryErrorsAreMarked : Prop :=
  (∀ (a : BitVec 48) (s : State) (m : Nat), homeOf s a.toNat = some m →
    let line := a.toNat / 256
    let errRegs := alsoRegs recRegs [(.MEM_FAULT, 4 + m, some 0), (.MEM_CE_COUNT, 4 + m, some 0), (.MEM_CH_STATUS, 4 + m, none)]
    let ueRegs := alsoRegs errRegs [(.MEM_UE_COUNT, 4 + m, some 0), (.MEM_UE_ADDR, 4 + m, some 0)]
    let corrected (c : Instr) (e f : LineError) : Prop := Does c s (recParts ++ [.msRest, .mem, .poison]) errRegs fun t =>
      Counted s t .MEM_CE_COUNT (4 + m) 0 31 1 ∧ rbit t .MEM_FAULT (4 + m) 0 0 = true ∧ t.ms.poison = s.ms.poison ∧
      mget [] t.ms.odd line = [] ∧ (misread (mget [] s.ms.odd line ++ e) f = false → t.mem = s.mem)
    let lost (c : Instr) (ps : List Part) (rs : List RegAt) (post : State → Prop) : Prop :=
      Does c s (recParts ++ [.poison] ++ ps) (alsoRegs ueRegs rs) fun t =>
      t.ms.poison = (if line ∈ s.ms.poison then s.ms.poison else line :: s.ms.poison) ∧
      Counted s t .MEM_UE_COUNT (4 + m) 0 31 1 ∧ rbit t .MEM_FAULT (4 + m) 0 1 = true ∧ rbit t .MEM_UE_ADDR (4 + m) 0 63 = true ∧
      (rbit s .MEM_UE_ADDR (4 + m) 0 63 = false → rfld t .MEM_UE_ADDR (4 + m) 0 47 0 = a.toNat) ∧ post t
    (∀ e f, readFound s line e = some f → f ≠ [] → corrected (.memCe (a, e)) e f) ∧
    (∀ cl e1 e2 e f, readTwice s line e1 e2 = some (e, f) →
      (metError s line e1 f = true → corrected (.memUe a cl (e1, e2)) e f) ∧
      (metError s line e1 f = false → exec (.memUe a cl (e1, e2)) s = .next s)) ∧
    (∀ cl, cl = .host ∨ cl = .prefetch ∨ cl = .scrub →
      (∀ e1 e2, readTwice s line e1 e2 = none → lost (.memUe a cl (e1, e2)) [] [] (fun _ => True)) ∧
      (s.ms.loam.lines.find? (fun x => x.1 = line) = some (line, true) → lost (.memLoamUe a false cl) [.loam] [] fun t =>
        rbit t .MEM_FAULT (4 + m) 0 2 = true ∧ t.ms.loam = s.ms.loam.drop line)) ∧
    (∀ (die : Fin 4) (q : Fin 16) (pos : Nat) (f : Flight) (e1 e2 : LineError), findFlight s die q pos = some f → f.skip = none →
      readTwice s line e1 e2 = none →
      lost (.memUe a (.command die q pos) (e1, e2)) [.flights, .tensors, .steps]
        [(.CMD_SKIP_SEQ, 0, some 0), (.CMD_SKIP_CODE_COUNT, die, some 0x11), (.CMD_FAULT, die, some 0)] fun t =>
        ∃ g, findFlight t die q pos = some g ∧ g.skip = some 0x11 ∧ ∀ u ∈ g.units, u.left = 0 ∧ u.started = false) ∧
    (∀ cl one dirty, s.ms.loam.lines.find? (fun x => x.1 = line) = some (line, dirty) → (one || !dirty) = true →
      Does (.memLoamUe a one cl) s [.regs] [(.MEM_LOAM_CE_COUNT, 4 + m, some 0)] fun t =>
        Counted s t .MEM_LOAM_CE_COUNT (4 + m) 0 31 1)) ∧
  (∀ (m : Fin 2) (p : Fin 8) (e1 e2 : LineError) (s : State),
    let cs := pkgChans s m p
    let pos := mget 0 s.ms.scrubPos (m * 8 + p.val)
    let a := (lineAddr s m (cs.getD (pos / chanLines) 0) (pos % chanLines)).getD 0
    let sc : Scrub := mget {} s.ms.scrub m
    shadeOpen s (m * 8 + p.val) = true → pos < cs.length * chanLines → underTest s a 256 = false →
    (∀ e f, readTwice s (a / 256) e1 e2 = some (e, f) →
      let rewritten (t : State) : Prop := t.ms.poison = s.ms.poison ∧
        (metError s (a / 256) e1 f = false → t.mem = s.mem ∧ t.ms.odd = s.ms.odd) ∧
        (metError s (a / 256) e1 f = true → mget [] t.ms.odd (a / 256) = [])
      (sc.done + 1 < passLines s m → Does (.patrolScrubLine m p e1 e2) s [.msRest, .mem, .poison] [] fun t =>
        rewritten t ∧ (mget {} t.ms.scrub m).done = sc.done + 1 ∧ mget 0 t.ms.scrubPos (m * 8 + p.val) = pos + 1) ∧
      (passLines s m ≤ sc.done + 1 → Does (.patrolScrubLine m p e1 e2) s (recParts ++ [.msRest, .mem, .poison])
        (alsoRegs recRegs [(.MEM_SCRUB_STATUS, 4 + m, some 0)]) fun t =>
        rewritten t ∧ mget {} t.ms.scrub m = { start := nowMs s } ∧ mget 0 t.ms.scrubPos (m * 8 + p.val) = 0 ∧
        rfld t .MEM_SCRUB_STATUS (4 + m) 0 63 32 = (nowMs s - sc.start) / 1000 % 2 ^ 32)) ∧
    (∀ h, homeOf s a = some h → readTwice s (a / 256) e1 e2 = none →
      Does (.patrolScrubLine m p e1 e2) s (recParts ++ [.msRest, .poison])
      (alsoRegs recRegs [(.MEM_SCRUB_STATUS, 4 + m, some 0), (.MEM_FAULT, 4 + h, some 0), (.MEM_CH_STATUS, 4 + h, none),
        (.MEM_UE_COUNT, 4 + h, some 0), (.MEM_UE_ADDR, 4 + h, some 0)]) fun t => a / 256 ∈ t.ms.poison)) ∧
  (∀ (m : Fin 2) (s : State), let sc : Scrub := mget {} s.ms.scrub m
    alive s (10 + m) = true → sc.late = false →
    Does (.memScrubLate m) s (timeParts ++ recParts ++ [.msRest])
      (alsoRegs (alsoRegs timeRegs recRegs) [(.MEM_FAULT, 4 + m, some 0)]) fun t =>
      mget {} t.ms.scrub m = { sc with late := true } ∧ rbit t .MEM_FAULT (4 + m) 0 3 = true ∧
      t.cc = max s.cc (s.pow.aonAt + (sc.start + 86400000) * 1750000))

/-- A prefetcher fetches the next line of its row and goes on to the next line, the next row, or idle: the line comes into
the loam cache primed, or, where it is uncorrectable, is marked and not installed (08 R314, R323); a primed line loses
its mark 2^20 cc after its fill. GO starts a test where one may run and STOP ends it; a test's end shows DONE and the
lines that failed: those that do not read as written, and those its reads met an error on (R326, R327). -/
def Obligations.PrefetchersAndTestsRun : Prop :=
  (∀ (m : Fin 2) (n : Fin 64) (s : State), let p := pfOf s m n
    let ls := pfLines s m p.tensor p.row
    let others (t : State) : Prop := ∀ k, k ≠ m.val * 64 + n.val → mget {} t.ms.prefetch k = mget {} s.ms.prefetch k
    (∀ (e1 e2 : LineError) (l : Nat), p.active = true → pfWaiting s m n = false → ls[p.line]? = some l → underTest s (256 * l) 256 = false →
      let goesOn (t : State) : Prop := let p' := pfOf t m n
        (p.line + 1 < ls.length → p' = { p with line := p.line + 1 }) ∧
        (ls.length ≤ p.line + 1 → p'.line = 0 ∧ p'.row = p.row + 1 ∧ p'.active = decide (p.row + 1 < p.last)) ∧ others t
      (∀ e f, readTwice s l e1 e2 = some (e, f) →
        Does (.prefetchLineFill m n (e1, e2)) s [.msRest, .loam, .mem, .poison] [] fun t => goesOn t ∧
          t.ms.loam.primed = s.ms.loam.primed.filter (fun x => x.2.1 != l) ++ [(m.val * 64 + n.val, l, s.cc)] ∧
          (metError s l e1 f = false → t.mem = s.mem ∧ t.ms.odd = s.ms.odd) ∧ t.ms.poison = s.ms.poison) ∧
      (readTwice s l e1 e2 = none →
        Does (.prefetchLineFill m n (e1, e2)) s (recParts ++ [.msRest, .poison]) (alsoRegs recRegs [(.MEM_FAULT, 4 + m, some 0),
          (.MEM_CH_STATUS, 4 + m, none), (.MEM_UE_COUNT, 4 + m, some 0), (.MEM_UE_ADDR, 4 + m, some 0)]) fun t => goesOn t ∧
          l ∈ t.ms.poison ∧ Counted s t .MEM_UE_COUNT (4 + m) 0 31 1)) ∧
    (∀ e rest, primedOf s m n = e :: rest → Does (.primedLineExpire m n) s (timeParts ++ [.loam]) timeRegs fun t =>
      t.ms.loam = { s.ms.loam with primed := s.ms.loam.primed.erase e } ∧ t.cc = max s.cc (e.2.2 + 2 ^ 20))) ∧
  (∀ (m : Fin 2) (c : Fin 64) (v : BitVec 32) (s : State),
    let rs : List RegAt := [(.MEM_TG_CTRL, 4 + m, some c.val), (.MEM_TG_STATUS, 4 + m, some c.val), (.MEM_CH_STATUS, 4 + m, some c.val),
      (.MEM_TG_FIRST_FAIL, 4 + m, some c.val)]
    let go := v.toNat.testBit 31
    let allowed := !chActive s m c || (!progLoaded s && v.toNat.testBit 29)
    let stop := v.toNat.testBit 30 || !allowed
    ∀ i, i = .tgGo m c v ∨ i = .tgStop m c v → Does i s [.regs, .msRest] rs fun t =>
      rget t .MEM_TG_CTRL (4 + m) c = bits v.toNat 29 22 * 2 ^ 22 ∧
      (testOf s m c = 0 → go = true → allowed = false → rbit t .MEM_TG_STATUS (4 + m) c 28 = true ∧ testOf t m c = 0) ∧
      (testOf s m c = 0 → go = true → allowed = true → bits v.toNat 27 24 < 8 →
        rbit t .MEM_TG_STATUS (4 + m) c 31 = true ∧ rbit t .MEM_CH_STATUS (4 + m) c 27 = true ∧
        testOf t m c = if stop then 2 else 1) ∧
      (testOf s m c ≠ 0 → testOf t m c = if stop then 2 else testOf s m c)) ∧
  (∀ (m : Fin 2) (c : Fin 64) (fails : List Nat) (s : State),
    let ctl := rget s .MEM_TG_CTRL (4 + m) c
    let raw := ctl.testBit 28
    let op := bits ctl 23 22; let pat := bits ctl 27 24; let seed := rget s .MEM_TG_SEED (4 + m) c
    let all := if raw then 67108864 else chanLines
    let want := rget s .MEM_TG_LINES (4 + m) c
    let n := if want = 0 then all else min want all
    let u := if op = 0 ∨ op = 2 then (tgWrites m c pat seed raw n).run s else s
    let bad := if op = 0 then [] else (List.range n).filter fun l => fails.contains l || tgFails u m c op pat seed raw l
    testOf s m c = 1 → s.host.waiting = [] → s.eth.xferLeft = 0 →
    Does (.memTgDone m c fails) s (recParts ++ [.msRest, .mem, .poison, .loam])
      (alsoRegs recRegs [(.MEM_TG_STATUS, 4 + m, some c.val), (.MEM_CH_STATUS, 4 + m, some c.val), (.MEM_TG_ERRORS, 4 + m, some c.val),
        (.MEM_TG_FIRST_FAIL, 4 + m, some c.val)]) fun t =>
      testOf t m c = 0 ∧ rfld t .MEM_TG_STATUS (4 + m) c 31 30 = 1 ∧ rbit t .MEM_TG_STATUS (4 + m) c 29 = !bad.isEmpty ∧
      rbit t .MEM_CH_STATUS (4 + m) c 27 = false ∧ Counted s t .MEM_TG_ERRORS (4 + m) c 31 bad.length ∧ t.mem = u.mem)

/-! ## The torus -/

/-- A HELLO ends training: the port is TRAINED, MISWIRED when its peer is the wrong port, FAILED when it lacks a lane, with the
latency measured (09 R333, R335, R336). ENABLE written 1 brings a TRAINED port UP with fresh buffers and full credit, and
written 0 fails an UP one; a DOWN flit, a lost alignment, CRC silence and the replay limit fail an UP or a TRAINED port:
FAILED, its cause kept, ENABLE cleared, DOWN sent, and nothing left waiting for it (R373, R374). -/
def Obligations.PortsTrainAndFail : Prop :=
  ∀ (p : Fin 6) (s : State),
    let portRegs := alsoRegs recRegs [(.NET_PORT_STATUS, 6, some p.val), (.NET_PORT_CFG, 6, some p.val), (.NET_PORT_CAUSE, 6, some p.val),
      (.NET_FAULT, 6, some 0)]
    (∀ (node : BitVec 16) (peer : Fin 8) (part : BitVec 8) (lanes pol : BitVec 16) (lat : BitVec 10),
      alive s (6 + p.val % 2) = true → s.pow.serdes.testBit (p.val % 2) = true → portUp s p = false →
      Does (.torusHello p node peer part lanes (pol, lat)) s (recParts ++ [.net]) (alsoRegs portRegs [(.NET_PORT_LANES, 6, some p.val)]) fun t =>
        portState t p = (if lanes.toNat ≠ 0xFFFF then 4 else if peer.val ≠ p.val ^^^ 1 then 5 else 2) ∧
        peerNode t p = node.toNat ∧ rfld t .NET_PORT_STATUS 6 p 28 26 = peer ∧ rfld t .NET_PORT_STATUS 6 p 25 16 = lat.toNat ∧
        rget t .NET_PORT_LANES 6 p = pol.toNat * 2 ^ 16 + lanes.toNat ∧
        (portOf t p).ctrl = (portOf s p).ctrl ++ [leNat (helloBytes s p)] ∧
        (lanes.toNat = 0xFFFF → peer.val ≠ p.val ^^^ 1 → rbit t .NET_FAULT 6 0 1 = true) ∧
        (lanes.toNat ≠ 0xFFFF → rfld t .NET_PORT_CAUSE 6 p 3 0 = 5)) ∧
    (∀ v : BitVec 32, portState s p = 2 → v.toNat.testBit 31 = true →
      Does (.portEnableWrite p v) s (recParts ++ [.net]) portRegs fun t => portState t p = 3 ∧
        rget t .NET_PORT_CFG 6 p = v.toNat / 2 ^ 30 * 2 ^ 30 ∧ rbit t .NET_FAULT 6 0 7 = true ∧
        portOf t p = { sentAt := (portOf s p).sentAt, ctrl := (portOf s p).ctrl, credits := fullCredits }) ∧
    (∀ v : BitVec 32, (portState s p = 2 → v.toNat.testBit 31 = false) → (portState s p = 3 → v.toNat.testBit 31 = true) →
      Does (.portEnableWrite p v) s [.regs] [(.NET_PORT_CFG, 6, some p.val)] fun t =>
        rget t .NET_PORT_CFG 6 p = v.toNat / 2 ^ 30 * 2 ^ 30) ∧
    (portUp s p = true ∨ portState s p = 2 →
      let fails (c : Instr) (cause : Nat) : Prop :=
        Does c s (recParts ++ [.net]) (alsoRegs portRegs [(.NET_DROP_COUNT, 6, none)]) fun t =>
          portState t p = 4 ∧ rbit t .NET_PORT_CFG 6 p 31 = false ∧ rfld t .NET_PORT_CAUSE 6 p 3 0 = cause ∧
          rbit t .NET_FAULT 6 0 0 = true ∧ portOf t p = { sentAt := (portOf s p).sentAt, ctrl := [leNat downBytes] } ∧
          ∀ k, k / 16 = p.val → mget [] t.net.outbuf k = []
      fails (.torusDown p) 4 ∧ (∀ why, fails (.netLinkDown p why) (lossCause why)) ∧
      ∀ v : BitVec 32, portUp s p = true → v.toNat.testBit 31 = false → fails (.portEnableWrite p v) 6)

/-- A slot with a wrong CRC is counted and discarded, a data flit that is not the next one is discarded, and either has a
NAK sent, once for the flits out of sequence and each time a CRC fails (09 R338-R341, R347; how often is the model's
choice, assumption 23). The next one in order is taken: a head goes before the router at once, what had come of a packet
cut off is discarded (assumption 23), and a further flit joins its packet wherever that is held (R351). ACK and credit ride
on every good slot. A NAK takes the transmitter back to a number, and the fifth for one flit fails the port. A port sends
one slot: a control flit first, then a replay, the packet in progress, the oldest packet that may go, or idle; all but a
data flit show the number the next one will carry (R337, R338, R352). -/
def Obligations.FlitsAreTakenAndSent : Prop :=
  ∀ (p : Fin 6) (s : State), let x := portOf s p
    let linked (w : Nat) (t : State) : Prop :=
      let ack := bits w 52 42
      (∀ i, x.replay.findIdx? (fun e => e.1 = ack) = some i → (portOf t p).replay = x.replay.drop (i + 1)) ∧
      (x.replay.findIdx? (fun e => e.1 = ack) = none → (portOf t p).replay = x.replay) ∧
      (bits w 39 38 ≠ 3 → bits w 37 36 ≠ 3 → let k := classOfCr (bits w 39 38) * 4 + bits w 37 36
        mget 0 (portOf t p).credits k = mget 0 x.credits k + bits w 35 32)
    let asked (crc : Bool) (t : State) : Prop := (portOf t p).rxSeq = x.rxSeq ∧ (portOf t p).nak = true ∧
      (portOf t p).ctrl = if x.nak && !crc then x.ctrl else x.ctrl ++ [leNat (nakBytes x.rxSeq)]
    let crcRegs : List RegAt := [(.NET_PORT_CRC_COUNT, 6, some p.val)]
    let crcCounted (c : Instr) : Prop := Does c s [.regs] crcRegs fun t => Counted s t .NET_PORT_CRC_COUNT 6 p 31 1
    (∀ f : Flit, let w := f.link.toNat
      portUp s p = true →
      (slotCrc f.data w ≠ bits w 31 0 →
        Does (.dataFlitReceive p f) s [.regs, .net] crcRegs (fun t => asked true t ∧ Counted s t .NET_PORT_CRC_COUNT 6 p 31 1) ∧
        crcCounted (.idleFlit p f)) ∧
      (slotCrc f.data w = bits w 31 0 →
        (bits w 63 53 ≠ x.rxSeq → Does (.dataFlitReceive p f) s [.net] [] fun t => asked false t ∧ linked w t) ∧
        (bits w 63 53 = x.rxSeq →
          let fl := if bits w 41 40 = 1 then [f.data] else x.asm ++ [f.data]
          let whole := decide (bits (fl.headD 0) 35 32 + 1 ≤ fl.length)
          let y : Packet := { flits := [f.data], inp := p, more := !whole }
          let y := { y with vc := y.vcF }
          let cut := s.net.cut p
          Does (.dataFlitReceive p f) s [.regs, .net] [(.NET_PORT_RX_FLITS, 6, some p.val)] fun t =>
            linked w t ∧ (portOf t p).rxSeq = (x.rxSeq + 1) % 2048 ∧ (portOf t p).nak = false ∧
            Counted s t .NET_PORT_RX_FLITS 6 p 63 1 ∧ (portOf t p).asm = (if whole then [] else fl) ∧
            (bits w 41 40 = 1 → t.net.cArrive = (if y.cls = 2 then cut.cArrive ++ [y] else cut.cArrive) ∧
              (y.cls ≠ 2 → mget [] t.net.inbuf (bufKey p y.cls y.vc) = mget [] cut.inbuf (bufKey p y.cls y.vc) ++ [y])) ∧
            (bits w 41 40 ≠ 1 → t.net.cArrive = s.net.cArrive.map (Packet.grow p f.data whole) ∧
              t.net.ejected = s.net.ejected.map (Packet.grow p f.data whole) ∧
              ∀ k, mget [] t.net.inbuf k = (mget [] s.net.inbuf k).map (Packet.grow p f.data whole))) ∧
        let unlisted := bits w 41 40 = 3 ∧ ¬(1 ≤ bits f.data 7 0 ∧ bits f.data 7 0 ≤ 5)
        (¬unlisted → Does (.idleFlit p f) s [.net] [] (linked w)) ∧
        (unlisted → Does (.idleFlit p f) s [.regs, .net] crcRegs fun t => linked w t ∧ Counted s t .NET_PORT_CRC_COUNT 6 p 31 1))) ∧
    (∀ (seq : Fin 2048) (link : BitVec 64), portUp s p = true → slotCrc (leNat (nakBytes seq)) link.toNat = bits link.toNat 31 0 →
      let u := (takeLink p link.toNat).run s
      let x := portOf u p
      (∃ e ∈ x.replay, e.1 = seq.val) →
      let n := if (x.replay.headD (0, 0, 0, 0)).1 = seq.val then x.tries + 1 else 1
      (n < 5 → Does (.nakFlit p (seq, link)) s (recParts ++ [.net, .flights]) (alsoRegs recRegs [(.NET_PORT_REPLAY_COUNT, 6, some p.val)]) fun t =>
        (portOf t p).resend = some seq.val ∧ (portOf t p).tries = n ∧ (portOf t p).sinceReplay = 0 ∧
        (portOf t p).credits = x.credits ∧
        (portOf t p).replay = x.replay.dropWhile (fun e => e.1 != seq.val) ∧ Counted s t .NET_PORT_REPLAY_COUNT 6 p 31 1) ∧
      (5 ≤ n → ∃ t, exec (.nakFlit p (seq, link)) s = .next t ∧ portState t p = 4 ∧ rfld t .NET_PORT_CAUSE 6 p 3 0 = 3)) ∧
    (∀ (seq : Fin 2048) (a b link : BitVec 64), let bad (bs : List Byte) : Prop := slotCrc (leNat bs) link.toNat ≠ bits link.toNat 31 0
      (bad (nakBytes seq) → crcCounted (.nakFlit p (seq, link))) ∧ (bad (probeBytes a.toNat) → crcCounted (.probeFlit p (a, link))) ∧
      (bad (echoBytes a.toNat b.toNat) → crcCounted (.echoFlit p a (b, link)))) ∧
    (alive s (6 + p.val % 2) = true → x.sentAt ≤ slotNow s →
      let n := slotNow s
      let sends (seq kind d : Nat) (t : State) : Prop := t.sent = s.sent ++ [.flit p d (linkWord x seq kind d)] ∧ (portOf t p).sentAt = n + 1
      let idles : Prop := Does (.flitSlot p) s [.net, .sent, .regs] [(.NET_PORT_SLOT_USE, 6, some (4 * p.val + 3))] (sends x.nextSeq 0 0)
      let carries (seq kind d : Nat) (post : State → Prop) : Prop :=
        Does (.flitSlot p) s [.net, .sent, .regs] [(.NET_PORT_SLOT_USE, 6, none), (.NET_PORT_TX_FLITS, 6, some p.val)] fun t =>
          sends seq kind d t ∧ Counted s t .NET_PORT_TX_FLITS 6 p 63 1 ∧ post t
      let kept (kind d hdr : Nat) (t : State) : Prop := (portOf t p).replay = x.replay ++ [(x.txSeq, kind, d, hdr)] ∧
        (portOf t p).txSeq = (x.txSeq + 1) % 2048 ∧ (portOf t p).sinceReplay = min 1048576 (x.sinceReplay + 1)
      let e := slotEntry s p (activeBank s p) (n % 8192)
      (∀ c, x.ctrl.find? (fun c => c / 2 ^ 2048 ≤ n) = some c →
        Does (.flitSlot p) s [.net, .sent, .regs, .syncRest] [(.NET_PORT_SLOT_USE, 6, some (4 * p.val + 3))] fun t =>
          sends x.nextSeq 3 (stampCtrl (c % 2 ^ 2048) n) t ∧ (portOf t p).ctrl = x.ctrl.erase c ∧
          Counted s t .NET_PORT_SLOT_USE 6 (4 * p + 3) 63 1) ∧
      (x.ctrl = [] → portUp s p = false → idles) ∧
      (x.ctrl = [] → portUp s p = true →
        (∀ q r, x.resend = some q → x.replay.find? (fun e => e.1 = q) = some r → carries q r.2.1 r.2.2.1 fun t =>
          (portOf t p).replay = x.replay ∧ (portOf t p).txSeq = x.txSeq) ∧
        (x.resend = none → x.replay.length < 1024 →
          (∀ d rest y, x.now = some y → x.tail = d :: rest → (y.cls = 2 → reserves e y.inp y.part = true) → carries x.txSeq 2 d fun t =>
            kept 2 d (bits y.head 127 0) t ∧ (portOf t p).tail = rest ∧
            (portOf t p).now = if rest = [] ∧ y.more = false then none else some y) ∧
          (x.now = none → servedC s p e = none →
            let next := nextPacket s p fun y => !bit e 31 || (y.part = bits e 7 0 && lentFits s p (n % 8192) y.n)
            (next = none → idles) ∧
            ∀ k y, next = some (k, y) → carries x.txSeq 1 y.head fun t =>
              kept 1 y.head (bits y.head 127 0) t ∧ (portOf t p).tail = y.flits.drop 1))))

/-- The router takes the oldest packet of an input: one that has come to its node is ejected, one with a way goes
before its port with the VC of R355, over the links between the dies where none of them trains (01 R35, R37), one
without is dropped, counted and flagged; a C packet goes by the slots reserved for it (09 R353-R363, R366). A packet that has waited ADAPT_WAIT cc for credit takes a detour that has room
(R358-R360). -/
def Obligations.RoutersMovePackets : Prop :=
  ∀ s : State,
    let mine (x : Packet) : Prop := x.part = nodePart s ∧ s.rst.phase ≠ .entry ∧ endpointsDown s = false
    let dropRegs (cause : Nat) := alsoRegs recRegs [(.NET_DROP_COUNT, 6, some cause), (.NET_FAULT, 6, some 0)]
    let dropped (cause : Nat) (t : State) : Prop := Counted s t .NET_DROP_COUNT 6 cause 31 1 ∧ rbit t .NET_FAULT 6 0 2 = true
    (∀ (inp : Fin 7) (cls : Fin 4) (vc : Fin 3) (x : Packet) (rest : List Packet),
      let k := bufKey inp cls vc
      mget [] s.net.inbuf k = x :: rest →
      (cls.val = 2 → Does (.packetRoute inp cls vc) s [.net] [] fun t =>
        t.net.cArrive = s.net.cArrive ++ [x] ∧ mget [] t.net.inbuf k = rest) ∧
      (cls.val ≠ 2 → routeFor s x = .eject → mine x → Does (.packetRoute inp cls vc) s [.net] [] fun t =>
        t.net.ejected = s.net.ejected ++ [x] ∧ mget [] t.net.inbuf k = rest) ∧
      (∀ p v y, cls.val ≠ 2 → routeFor s x = .go p v y false → openRoute s (transitRoute s x p) = true →
        Does (.packetRoute inp cls vc) s [.net, .fab] [] fun t =>
        let j := (p * 4 + y.cls) * 4 + v
        (mget [] t.net.outbuf j).map (·.flits) = (mget [] s.net.outbuf j).map (·.flits) ++ [y.flits] ∧ mget [] t.net.inbuf k = rest) ∧
      (∀ cause < 16, cls.val ≠ 2 → routeFor s x = .drop cause →
        Does (.packetRoute inp cls vc) s (recParts ++ [.net]) (dropRegs cause) fun t =>
        dropped cause t ∧ (inp.val < 6 → mget [] t.net.inbuf k = rest))) ∧
    (∀ (x : Packet) (rest : List Packet), s.net.cArrive = x :: rest →
      (routeFor s x = .eject → mine x → Does .cFlitArrive s [.net] [] fun t =>
        t.net.ejected = s.net.ejected ++ [x] ∧ t.net.cArrive = rest) ∧
      (∀ p v y tk, routeFor s x = .go p v y tk → x.mcast = false → (tableEntries s p (activeBank s p)).any (fun e => reserves e x.inp x.part) = true →
        (x.inp < 6 → cHeld s x.inp + x.n ≤ 2048) → openRoute s (transitRoute s x p) = true → Does .cFlitArrive s [.net, .fab] [] fun t =>
        mget [] t.net.cbuf (x.inp * 8 + p) = mget [] s.net.cbuf (x.inp * 8 + p) ++ [{ y with head0 := x.head }] ∧ t.net.cArrive = rest) ∧
      (∀ cause < 16, routeFor s x = .drop cause → x.mcast = false →
        Does .cFlitArrive s (recParts ++ [.net]) (dropRegs cause) fun t => dropped cause t ∧ t.net.cArrive = rest)) ∧
    (∀ (inp : Fin 7) (cls : Fin 4) (vc : Fin 3) (out v p : Nat) (x : Packet),
      (List.range 6).findSome? (fun o => [0, 1].findSome? fun w =>
        ((mget [] s.net.outbuf ((o * 4 + cls.val) * 4 + w)).find? fun x => x.inp = inp.val && x.vc = vc.val && x.waiting != 0).map
          fun x => (o, w, x)) = some (out, v, x) →
      x.waiting - 1 + rfld s .NET_CTRL 6 0 15 8 ≤ s.cc → congestionPort s x out = some p → x.cls = cls.val →
      Does (.congestionDetour inp cls vc) s [.net] [] fun t =>
        let j := (p * 4 + cls.val) * 4 + 3
        (∃ z, (mget [] t.net.outbuf j).map (·.flits) = (mget [] s.net.outbuf j).map (·.flits) ++ [z] ∧ z.length = max 1 x.flits.length ∧
          bits (z.headD 0) 37 36 = 2 ∧ (z.headD 0).testBit 47 = true) ∧
        creditOf t p cls 2 = creditOf s p cls 2 - x.n)

/-- SWAP of a slot table, of the routing epoch or of the group table asks for the exchange, which is made at the start of
the frame named, or refused where the standby table reserves too much (09 R365, R368, R370; 10 R388). Every 625 frames
the slots meet SYNC_REF again (R364), and every 250 SYNC_REF periods each port and class adds a congestion sample
(R379). -/
def Obligations.TablesSwapOnFrames : Prop :=
  ∀ s : State,
    let frame (n : Nat) : Nat := let first := slotStart (8192 * n)
      if s.sync.dt ≤ first then first else slotStart (8192 * (frameNow s + 1))
    (∀ (p : Fin 6) (v : BitVec 32), Does (.slotSwapRequest p v) s [.regs] [(.NET_SLOT_CTRL, 6, some p.val)] fun t =>
      rbit t .NET_SLOT_CTRL 6 p 31 = (rbit s .NET_SLOT_CTRL 6 p 31 || v.toNat.testBit 31) ∧
      rbit t .NET_SLOT_CTRL 6 p 29 = (rbit s .NET_SLOT_CTRL 6 p 29 || v.toNat.testBit 31) ∧
      rbit t .NET_SLOT_CTRL 6 p 28 = (rbit s .NET_SLOT_CTRL 6 p 28 && !v.toNat.testBit 28) ∧ activeBank t p = activeBank s p) ∧
    (∀ p : Fin 6, let other := 1 - activeBank s p
      let bad := decide (7168 < reservedSlots s p other) || (tableEntries s p other).any fun e => e.testBit 31 && bits e 30 28 = 7
      rbit s .NET_SLOT_CTRL 6 p 29 = true →
      Does (.slotTableSwap p) s (timeParts ++ recParts) (alsoRegs (alsoRegs timeRegs recRegs) [(.NET_SLOT_CTRL, 6, some p.val), (.NET_FAULT, 6, some 0)]) fun t =>
        rbit t .NET_SLOT_CTRL 6 p 31 = false ∧ rbit t .NET_SLOT_CTRL 6 p 29 = false ∧
        activeBank t p = (if bad then activeBank s p else other) ∧
        (bad = true → rbit t .NET_SLOT_CTRL 6 p 28 = true ∧ rbit t .NET_FAULT 6 0 6 = true) ∧
        t.cc = s.cc + (frame (rfld s .NET_SLOT_SWAP_FRAME 6 p 50 0) - s.sync.dt)) ∧
    (∀ v : BitVec 32, Does (.rtSwapRequest v) s [.regs] [(.NET_RT_CTRL, 6, some 0)] fun t =>
      rbit t .NET_RT_CTRL 6 0 31 = (rbit s .NET_RT_CTRL 6 0 31 || v.toNat.testBit 31) ∧ rtEpoch t = rtEpoch s) ∧
    (rbit s .NET_RT_CTRL 6 0 31 = true →
      Does .netRtSwap s (timeParts ++ recParts) (alsoRegs (alsoRegs timeRegs recRegs) [(.NET_RT_CTRL, 6, some 0)]) fun t =>
        rbit t .NET_RT_CTRL 6 0 31 = false ∧ rtEpoch t = 1 - rtEpoch s ∧
        t.cc = s.cc + (frame (rfld s .NET_RT_SWAP_FRAME 6 0 50 0) - s.sync.dt)) ∧
    (∀ v : BitVec 32, Does (.groupSwapRequest v) s [.regs] [(.COL_GROUP_CTRL, 6, some 0)] fun t =>
      rbit t .COL_GROUP_CTRL 6 0 31 = (rbit s .COL_GROUP_CTRL 6 0 31 || v.toNat.testBit 31) ∧ groupBank t = groupBank s) ∧
    Does .frameRealign s timeParts timeRegs (fun t => t.cc = s.cc + ((s.sync.dt / 5734400 + 1) * 5734400 - s.sync.dt)) ∧
    Does .congestionSample s timeParts (alsoRegs timeRegs [(.NET_CONG_HIST, 6, none)]) fun t =>
      t.cc = s.cc + ((s.sync.dt / 17500 + 1) * 17500 - s.sync.dt) ∧
      ∀ p < 6, ∀ e ∈ [(0, 0), (1, 1), (2, 3)], Counted s t .NET_CONG_HIST 6 ((p * 3 + e.1) * 8 + congBin (waitingFlits s p e.2)) 31 1

/-- A Q request at its target reads or writes whole lines and is answered with its tag and a STATUS (09 R344, R345). A
reply delivers its data and frees its tag; one with a failing STATUS, no reply in NET_Q_TIMEOUT, and a NOTICE of the lost
request skip the command that asked (R346, R374). A TRACE packet is accepted, or dropped and counted (R380). -/
def Obligations.EndpointsTakePackets : Prop :=
  ∀ (x : Packet) (s : State),
    let first (k : Packet → Bool) : Prop := s.net.ejected.find? k = some x
    let replies (t : State) (op status : Nat) (data : List Byte) : Prop := mget [] t.net.inbuf (bufKey 6 1 0) =
      mget [] s.net.inbuf (bufKey 6 1 0) ++ [mkPacket (nodeId s) x.src 1 (nodePart s) (rtEpoch s) (rbit s .NET_CTRL 6 0 1) false
        (bodyP op x.nlines x.tag status) data]
    let skipRegs (r : QReq) := alsoRegs recRegs [(.CMD_SKIP_SEQ, 0, some 0), (.CMD_SKIP_CODE_COUNT, r.die % 16, some 0x11), (.CMD_FAULT, r.die % 16, some 0)]
    let failed (t : State) (tag : Nat) (r : QReq) : Prop := t.net.tags = s.net.tags.filter (fun e => e.1 != tag) ∧
      ∀ f, findFlight s r.die r.q r.pos = some f → f.skip = none →
        ∃ g, findFlight t r.die r.q r.pos = some g ∧ g.skip = some skHardFault
    let ps : List Part := recParts ++ [.net, .flights, .tensors, .steps]
    let qp (c : Nat) (y : Packet) : Bool := !y.more && (y.cls = c && openRoute s (qpRoute s y) && !underTest s (qpSpan s y).1 (qpSpan s y).2)
    (let a := 256 * x.line
      let n := 256 * x.nlines
      first (qp 0) →
      (s.rst.phase = .entry ∨ endpointsDown s = true → Does .qRequest s [.net, .fab] [] fun t =>
        replies t (if x.op = 1 then 1 else 0) 4 (if x.op = 1 then [] else List.replicate n 0#8)) ∧
      (s.rst.phase ≠ .entry → endpointsDown s = false →
      (2 ≤ x.op ∨ x.nlines = 0 → Does .qRequest s [.net, .fab] [] fun t =>
        replies t (if x.op = 1 then 1 else 0) 5 (if x.op = 1 then [] else List.replicate n 0#8)) ∧
      (x.op < 2 → x.nlines ≠ 0 → inMemory s a (a + n) = false → Does .qRequest s [.net, .fab] [] fun t =>
        replies t x.op 2 (if x.op = 1 then [] else List.replicate n 0#8)) ∧
      (x.op = 1 → x.nlines ≠ 0 → inMemory s a (a + n) = true → Does .qRequest s [.net, .fab, .mem, .poison, .loam] [] fun t =>
        replies t 1 0 [] ∧ t.mem = applyWr s.mem (byteWrs a (x.payload.take n))) ∧
      (x.op = 0 → x.nlines ≠ 0 → inMemory s a (a + n) = true → firstMarked s [(a, n)] = none → Does .qRequest s [.net, .fab, .loam] [] fun t =>
        replies t 0 0 (rdBytes s.mem a n)))) ∧
    (∀ t0 r, first (qp 1) → s.net.tags.find? (fun e => e.1 = x.tag) = some (t0, r) →
      (x.status < 2 → Does .pReply s [.net, .fab, .mem, .poison, .loam, .flights] [] fun t =>
        t.net.tags = s.net.tags.filter (fun e => e.1 != t0) ∧
        (∀ f, findFlight s r.die r.q r.pos = some f → findFlight t r.die r.q r.pos =
          some { f with poisonIn := if x.status = 1 then some (f.poisonIn.getD 0) else f.poisonIn }) ∧
        t.mem = (if x.op = 0 then applyWr s.mem (byteWrs r.dest (x.payload.take (256 * x.nlines))) else s.mem)) ∧
      (2 ≤ x.status → Does .pReply s (.fab :: ps) (skipRegs r) fun t => failed t t0 r)) ∧
    (first (qp 1) → s.net.tags.find? (fun e => e.1 = x.tag) = none →
      Does .pReply s (recParts ++ [.net, .fab]) (alsoRegs recRegs [(.NET_DROP_COUNT, 6, some 12), (.NET_FAULT, 6, some 0)]) fun t =>
        Counted s t .NET_DROP_COUNT 6 12 31 1) ∧
    (∀ (tag : Fin 4096) r, s.net.tags.find? (fun e => e.1 = tag.val) = some (tag.val, r) →
      Does (.netQTimeout tag) s (timeParts ++ ps) (alsoRegs timeRegs (alsoRegs (skipRegs r) [(.NET_FAULT, 6, some 0)])) fun t =>
        failed t tag r ∧ rbit t .NET_FAULT 6 0 4 = true ∧ t.cc = max s.cc (r.at_ + 1750 * rfld s .NET_Q_TIMEOUT 6 0 31 0)) ∧
    (∀ t0 r, let h : Packet := { flits := [leNat (x.payload.take 16)], inp := x.inp }
      first (fun y => !y.more && (y.cls = 3 && y.mtype = 2)) → h.cls = 0 → s.net.tags.find? (fun e => e.1 = h.tag) = some (t0, r) →
      Does .noticePkt s ps (skipRegs r) fun t => failed t t0 r) ∧
    let trace (y : Packet) : Bool := !y.more && (y.cls = 3 && y.mtype != 1 && y.mtype != 2)
    (first trace →
      (x.mtype = 3 → Does (.tracePkt false) s [.net] [] fun t =>
        t.net.ejected = s.net.ejected.eraseP trace) ∧
      Does (.tracePkt true) s (recParts ++ [.net]) (alsoRegs recRegs [(.NET_DROP_COUNT, 6, some 13), (.NET_FAULT, 6, some 0)]) fun t =>
        Counted s t .NET_DROP_COUNT 6 13 31 1)

/-! ## Packets of a collective -/

/-- A SETUP of a collective not begun is kept for it; a CREDIT renews what may be sent toward its sender; a data packet is
held until data may move, then taken in its place (10 R392-R394, R398). An ABORT, a NOTICE of a lost packet, and
COL_TIMEOUT past the bound have a member abandon its collective: its command skipped under HARD_FAULT, counted, with the
fault bit on both L-dies (R410). -/
def Obligations.CollectivePacketsAreTaken : Prop :=
  ∀ (p : Packet) (s : State), s.Placed →
    let cp : ColPkt := ⟨if p.inp % 2 = 1 then 0 else 1, p.cseq, p.cvtag, leNat p.payload, 256 * p.n - 16⟩
    let first (k : Nat → Bool) : Prop := s.net.ejected.find? (fun x => !x.more && (x.cls = 2 && x.stream < 0xFFFE && k x.cseq)) = some p
    let rx : List RegAt := [(.COL_RX_BYTES, 6, some 0), (.COL_RX_BYTES, 7, some 0)]
    let now (o : ColOp) (t : State) (post : ColOp → Prop) : Prop := ∃ o', findOp t o.die o.q o.pos = some o' ∧ post o'
    let abandons (c : Instr) (o : ColOp) (ps : List Part) (rs : List RegAt) : Prop :=
      Does c s (recParts ++ [.col, .net, .flights, .tensors, .steps] ++ ps)
        (alsoRegs (alsoRegs recRegs txRegs) (alsoRegs rs [(.COL_ABORT_COUNT, 6, some 0), (.COL_FAULT, 6, some 0), (.COL_FAULT, 7, some 0),
          (.CMD_SKIP_SEQ, 0, some 0), (.CMD_SKIP_CODE_COUNT, o.die % 16, some 0x11), (.CMD_FAULT, o.die % 16, some 0)])) fun t =>
        now o t (fun o' => o'.finished = true) ∧ (∃ g, findFlight t o.die o.q o.pos = some g ∧ g.skip ≠ none) ∧
        Counted s t .COL_ABORT_COUNT 6 0 31 1 ∧ rbit t .COL_FAULT 6 0 2 = true ∧ rbit t .COL_FAULT 7 0 2 = true
    (first (· = seqSetup) → (∀ o ∈ s.col.ops, o.started = false) →
      Does .setupPacket s [.net, .regs, .col] rx fun t => t.col.early = s.col.early ++ [(p.stream, cp)] ∧ t.col.ops = s.col.ops) ∧
    (∀ o f, let g := groupOf s o.group
      first (· = seqCredit) → opOfStream s p.stream = some o → findFlight s o.die o.q o.pos = some f → o.outQ = [] → o.arrivals = [] →
      o.done.length ≠ expected s f o g →
      Does .creditPacket s [.net, .regs, .col] rx fun t => now o t fun o' =>
        let dir := if o.op = 0x78 then sendDir f.desc else 1 - cp.dir
        mget 0 o'.credit dir = mget 0 o.credit dir + cp.data % 2 ^ 32 ∧ mget 0 o'.credit (1 - dir) = mget 0 o.credit (1 - dir)) ∧
    (∀ (m : Fin 3) o, first (· < 0xFFFFFF00) → opOfStream s p.stream = some o → o.op ≠ 0xA1 →
      (o.ready = false → Does (.colDataPacket m) s [.net, .regs, .col] rx fun t => now o t fun o' => o' = { o with arrivals := o.arrivals ++ [cp] }) ∧
      (∀ f st, let g := groupOf s o.group
        let dir := if st.way = .direct then 0 else cp.dir
        o.ready = true → o.arrivals = [] → findFlight s o.die o.q o.pos = some f →
        (colStreams s f o g).find? (fun st => st.base ≤ p.cseq && p.cseq < st.base + st.packets) = some st → st.way ≠ .chain →
        st.comes g dir = true → 2 * p.cseq + dir ∉ o.done →
        Does (.colDataPacket m) s (recParts ++ [.net, .col, .mem, .poison, .loam, .steps])
          (alsoRegs (alsoRegs rx recRegs) (alsoRegs txRegs [(.UPD_FAULT, 4, some 0), (.UPD_FAULT, 5, some 0)])) fun t =>
          now o t fun o' => o'.done = o.done ++ [2 * p.cseq + dir])) ∧
    (∀ o, first (· = seqAbort) → opOfStream s p.stream = some o → abandons .abortPacket o [] rx) ∧
    (∀ o, let h : Packet := { flits := [leNat (p.payload.take 16)], inp := p.inp }
      s.net.ejected.find? (fun y => !y.more && (y.cls = 3 && y.mtype = 2)) = some p → h.cls = 2 → opOfStream s h.stream = some o →
      abandons .noticePkt o [] []) ∧
    (∀ (die : Fin 4) (q : Fin 16) (pos b : Nat) (f : Flight) (o : ColOp), findOp s die q pos = some o → findFlight s die q pos = some f →
      f.boundFrom = some b → o.started = true → o.finished = false → abandons (.colTimeout die q pos) o timeParts timeRegs)

/-! ## The host -/

/-- A request to window A reads and writes the staging copy of the step parameter block, seals it at SEAL, reaches the
MSI-X table and the record ring, and is turned away with BAD_ACCESS at the control window unless it is a whole register
word (13 R494, R495). Window B reaches memory, reads all ones and sets its fault bit where nothing answers (R498, R499); one to a channel under test waits, and the later ones of
either window behind it (R493, 08 R326). The link comes up at its rate and width (R492), its REFCLK there. -/
def Obligations.HostWindowsReachState : Prop :=
  (∀ (x : Access) (s : State), alive s 3 = true →
    s.host.waiting ≠ [] → (∀ y ∈ s.host.waiting.head?, y.1 = false ∧ underTest s (winB s y.2) y.2.size = true) →
    Does (.hostWindowAAccess x) s [.hostRest] [] fun t => t.host.waiting = s.host.waiting ++ [(true, x)]) ∧
  (∀ (x : Access) (s : State), alive s 3 = true → x.size ≠ 0 → s.host.waiting = [] →
    let c := Instr.hostWindowAAccess x
    let o := x.off
    let b := o - 0x10000
    let answers (bs : List Byte) (t : State) : Prop := t.sent = s.sent ++ [.read bs false]
    (0x10000 ≤ o → b < 8448 →
      (x.data = none → Does c s [.sent] [] (answers (leBytes x.size (s.upd.staging / 2 ^ (8 * b))))) ∧
      (x.data ≠ none → 0x100 ≤ b → Does c s [.upd] [] fun t =>
        let n := min x.bytes.length (8448 - b)
        t.upd.staging = putBits s.upd.staging (8 * (b + n) - 1) (8 * b) (leNat (x.bytes.take n))) ∧
      (x.data ≠ none → b = 0xFC → x.bytes.length = 4 → spbPending s = false →
        Does c s [.upd, .regs, .cpRest] [(.UPD_STATUS, 4, some 0)] fun t =>
        t.upd.pending = t.upd.staging ∧ t.upd.staging = putBits s.upd.staging 2047 2016 (leNat x.bytes) ∧ spbPending t = true)) ∧
    (0x20000 ≤ o → o < 0x20100 →
      (x.data = none → Does c s [.sent] [] (answers (readArea (msixBytes s) (o - 0x20000) x.size))) ∧
      (x.data ≠ none → Does c s [.hostRest] [] fun t => t.host.msix = msixOf (splice (msixBytes s) (o - 0x20000) x.bytes))) ∧
    (0x100000 ≤ o → o < 0x200000 → x.data = none → Does c s [.sent] [] (answers (rdBytes s.recd.ring (o - 0x100000) x.size))) ∧
    (0x2000000 ≤ o → o < 0x4000000 → regSized o x.size = false →
      Does c s [.sent, .regs, .raised] [(.HST_FAULT, 6, some 0)] fun t => rbit t .HST_FAULT 6 0 2 = true ∧
        (x.data = none → answers (List.replicate x.size 0#8) t))) ∧
  (∀ (x : Access) (s : State), alive s 3 = true →
    let c := Instr.hostWindowBAccess x
    let T := rfld s .HST_WINB_BASE 6 0 47 30 * 2 ^ 30 + x.off
    let allIn (n : Nat) : Prop := ∀ i < n, inStores s (T + i) (T + i + 1) = true
    (s.host.waiting ≠ [] ∨ underTest s T x.size = true → (∀ y ∈ s.host.waiting.head?, y.1 = false ∧ underTest s (winB s y.2) y.2.size = true) →
      Does c s [.hostRest] [] fun t => t.host.waiting = s.host.waiting ++ [(false, x)]) ∧
    (s.host.waiting = [] → underTest s T x.size = false →
    (x.data ≠ none → allIn x.bytes.length → Does c s [.mem, .poison, .loam, .regs] [(.HST_WINB_WR_BYTES, 6, some 0)] fun t =>
      t.mem = applyWr s.mem (byteWrs T x.bytes) ∧ Counted s t .HST_WINB_WR_BYTES 6 0 63 x.bytes.length) ∧
    (x.data = none → allIn x.size → marked s T x.size = false → Does c s [.sent, .regs, .loam] [(.HST_WINB_RD_BYTES, 6, some 0)] fun t =>
      t.sent = s.sent ++ [.read (rdBytes s.mem T x.size) false] ∧ Counted s t .HST_WINB_RD_BYTES 6 0 63 x.size) ∧
    (x.data = none → x.size ≠ 0 → (∀ i < x.size, inStores s (T + i) (T + i + 1) = false) → marked s T x.size = false →
      Does c s (recParts ++ [.sent, .loam]) (alsoRegs recRegs [(.HST_WINB_RD_BYTES, 6, some 0), (.HST_FAULT, 6, some 0), (.HST_OUTSIDE_COUNT, 6, some 0)]) fun t =>
      t.sent = s.sent ++ [.read (List.replicate x.size 0xFF#8) false] ∧ rbit t .HST_FAULT 6 0 0 = true ∧
      Counted s t .HST_OUTSIDE_COUNT 6 0 31 1))) ∧
  (∀ (rate : Fin 8) (width : Fin 32) (flit : Bool) (s : State), alive s 3 = true → 1 ≤ rate.val → rate.val ≤ 6 →
    width.val ∈ [1, 2, 4, 8, 16] → let less := rate.val < 6 ∨ width.val < 16
    Does (.hstLinkUp rate width flit) s (recParts ++ [.pow]) (alsoRegs recRegs [(.HST_LINK, 6, some 0), (.HST_FAULT, 6, some 0)]) fun t =>
      t.pow = { s.pow with refclk := true } ∧ rfld t .HST_LINK 6 0 10 8 = rate ∧ rfld t .HST_LINK 6 0 4 0 = width ∧ rbit t .HST_LINK 6 0 31 = true ∧
      rbit t .HST_LINK 6 0 30 = flit ∧ (rbit t .HST_LINK 6 0 29 = true ↔ less) ∧ (less → rbit t .HST_FAULT 6 0 3 = true))

/-- A raised vector is written as its table entry says, or left pending while it is masked or within its holdoff, and a
pending one is written when that ends (13 R496). -/
def Obligations.InterruptMessagesLeave : Prop :=
  ∀ (v : Fin 16) (s : State), alive s 3 = true →
    let e := msixEntry s v
    let us := rfld s .HST_IRQ_HOLDOFF 6 0 15 0
    let out (t : State) : Prop := t.sent = s.sent ++ [.msix v (e % 2 ^ 64) (bits e 95 64)] ∧ t.host.pba.testBit v = false ∧
      mget 0 t.host.holdoff v = if us = 0 then 0 else nowUs t + us + 1
    (s.host.raised.testBit v = true →
      (msixMasked s v = true ∨ heldOff s v = true → Does (.msixSend v) s [.raised, .hostRest] [] fun t =>
        t.host.raised.testBit v = false ∧ t.host.pba.testBit v = true ∧ t.sent = s.sent) ∧
      (msixMasked s v = false → heldOff s v = false → Does (.msixSend v) s [.raised, .hostRest, .sent] [] fun t =>
        t.host.raised.testBit v = false ∧ out t)) ∧
    (s.host.pba.testBit v = true → msixMasked s v = false →
      Does (.msixHoldoffEnd v) s (timeParts ++ [.hostRest, .sent]) timeRegs fun t => out t ∧
        t.cc = if heldOff s v then max s.cc (s.pow.aonAt + (mget 0 s.host.holdoff v - 1) * 1750) else s.cc)

/-- A register is read as it shows, its RC fields cleared by the read, and a write changes its fields as their access
types say, within its limits: by the host, the Onakan core, window A or a CWRITE packet (00 R10, R11; 09 R344; 13
R494). The low word of a two-word register holds the high word for the next read of it, and a write of the low word
waits for that of the high word; a high word with none held changes no bit of the low word by itself, and a 64-bit
access is one. -/
def Obligations.RegistersAreAccessed : Prop :=
  ∀ (a : BitVec 48) (v : BitVec 64) (r : RegName) (die i : Nat) (s : State), a.toNat % 4 = 0 → i < 2 ^ 22 → blockAlive s r die = true →
    let k := keptAt r die
    let clears (t : State) (lo hi : Nat) : Prop := ∀ b, lo ≤ b → b < hi → b < r.info.width → rbit t r k i b =
      (rbit s r k i b && !r.info.fields.any fun f => f.acc = .RC && decide (f.lo ≤ b) && decide (b ≤ f.hi))
    let answers (t : State) (w : Nat) : Prop := t.sent = s.sent ++ [.read (leBytes 4 w) false]
    let value := readReg s r die i
    (regAt a.toNat = some (r, die, i, 0) → r.words = 1 →
      (∀ c, c = .lowWordRead a ∨ c = .rcRegisterRead a false → Does c s [.sent, .regs] [(r, k, some i)] fun t =>
        answers t (value % 2 ^ 32) ∧ clears t 0 32) ∧
      (r.acts = false →
        let w := clampReg s r (writeFields r (rget s r k i) (v.toNat % 2 ^ 32) (2 ^ 32 - 1)) % 2 ^ r.info.width
        let writes (c : Instr) (ps : List Part) : Prop := Does c s (.regs :: ps) [(r, k, some i)] fun t => rget t r k i = w
        (∀ onakan, writes (.registerWrite a v false onakan) []) ∧
        (∀ o, alive s 3 = true → s.host.waiting = [] → o < 0x10000 → a.toNat = 0x700020E00000 + o →
          writes (.hostWindowAAccess ⟨o, 4, some (leBytes 4 (v.toNat % 2 ^ 32))⟩) []) ∧
        (∀ p, s.net.ejected.find? (fun p => !p.more && p.cls = 3 && p.mtype = 1 &&
              openRoute s (ejectRoute p (((ctlAddr (p.h 111 64)).map (·.1)).getD 6))) = some p → p.words = 1 → p.h 111 64 = a.toNat →
          leNat (p.payload.take 4) = v.toNat % 2 ^ 32 → writes .cwritePkt [.net, .fab]))) ∧
    (regAt a.toNat = some (r, die, i, 0) → r.words = 2 →
      (∀ c, c = .lowWordRead a ∨ c = .rcRegisterRead a false → Does c s [.sent, .regs, .hostRest] [(r, k, some i)] fun t =>
        answers t (value % 2 ^ 32) ∧ clears t 0 32 ∧ mget 0 t.host.shadow (a.toNat + 4) = value / 2 ^ 32 % 2 ^ 32 + 1) ∧
      (∀ onakan, Does (.registerWrite a v false onakan) s [.hostRest] [] fun t => mget 0 t.host.heldLow a.toNat = v.toNat % 2 ^ 32 + 1)) ∧
    (regAt a.toNat = some (r, die, i, 4) → r.words = 2 →
      (mget 0 s.host.shadow a.toNat ≠ 0 → Does (.rcRegisterRead a false) s [.sent, .regs, .hostRest] [(r, k, some i)] fun t =>
        answers t (mget 0 s.host.shadow a.toNat - 1) ∧ clears t 32 64 ∧ mget 0 t.host.shadow a.toNat = 0) ∧
      (∀ onakan, r.acts = false → mget 0 s.host.heldLow (a.toNat - 4) ≠ 0 →
        Does (.registerWrite a v false onakan) s [.regs, .hostRest] [(r, k, some i)] fun t =>
          rget t r k i = clampReg s r (writeFields r (rget s r k i)
            (mget 0 s.host.heldLow (a.toNat - 4) - 1 + v.toNat % 2 ^ 32 * 2 ^ 32) (2 ^ 64 - 1)) % 2 ^ r.info.width ∧
          mget 0 t.host.heldLow (a.toNat - 4) = 0) ∧
      (∀ onakan, r.acts = false → mget 0 s.host.heldLow (a.toNat - 4) = 0 →
        Does (.registerWrite a v false onakan) s [.regs, .hostRest] [(r, k, some i)] fun t =>
          rget t r k i = clampReg s r (writeFields r (rget s r k i) (v.toNat % 2 ^ 32 * 2 ^ 32) ((2 ^ 32 - 1) * 2 ^ 32)) % 2 ^ r.info.width)) ∧
    (regAt a.toNat = some (r, die, i, 0) → r.words = 2 → a.toNat % 8 = 0 →
      (Does (.rcRegisterRead a true) s [.sent, .regs] [(r, k, some i)] fun t =>
        t.sent = s.sent ++ [.read (leBytes 8 (value % 2 ^ 64)) false] ∧ clears t 0 64) ∧
      (∀ onakan, r.acts = false → Does (.registerWrite a v true onakan) s [.regs] [(r, k, some i)] fun t =>
        rget t r k i = clampReg s r (writeFields r (rget s r k i) v.toNat (2 ^ 64 - 1)) % 2 ^ r.info.width))

/-- MCTP requests are answered while the Onakan core serves them (13 R501, R502): the discovery commands in the formats of
assumption 20, GET_HEALTH, READ_RECORDS and READ_CONTROL with what they name or their error code, any other command as
unsupported; a second request of an endpoint is dropped and counted. -/
def Obligations.MctpRequestsAreAnswered : Prop :=
  ∀ (src : BitVec 8) (s : State),
    let tells (c : Instr) (bs : List Byte) : Prop := Does c s [.sent] [] fun t => t.sent = s.sent ++ [.mctp src.toNat bs]
    (mctpServed s = true →
      (∀ eid : BitVec 8, (eid = 0 ∨ eid = 0xFF → tells (.setEndpointId src eid) [2]) ∧
        (eid ≠ 0 → eid ≠ 0xFF → Does (.setEndpointId src eid) s [.sent, .hostRest] [] fun t =>
          t.sent = s.sent ++ [.mctp src.toNat [0, 0, eid, 0]] ∧ t.host.eid = eid.toNat)) ∧
      tells (.getEndpointId src) [0, BitVec.ofNat 8 s.host.eid, 0, 0] ∧
      tells (.getEndpointUuid src) (0 :: moduleUuid) ∧
      (∀ msg : BitVec 8, (msg = 0 ∨ msg = 0xFF → tells (.getMctpVersionSupport src msg) [0, 1, 0xF1, 0xF3, 0xFF, 0]) ∧
        (msg ≠ 0 → msg ≠ 0xFF → msg ≠ 0x7E → tells (.getMctpVersionSupport src msg) [0x80]) ∧
        (msg = 0x7E → Does (.getMctpVersionSupport src msg) s [.sent, .freeCtr] [] fun t =>
          ∃ v, t.sent = s.sent ++ [.mctp src.toNat ([0, 1] ++ leBytes 4 v)])) ∧
      tells (.getMessageTypeSupport src) [0, 1, 0x7E] ∧
      (∀ sel : BitVec 8, (sel ≠ 0 → tells (.getVendorDefinedMsgSupport src sel) [2]) ∧
        (sel = 0 → Does (.getVendorDefinedMsgSupport src sel) s [.sent, .freeCtr] [] fun t =>
          ∃ v, t.sent = s.sent ++ [.mctp src.toNat ([0, 0xFF, 0, 0x1F, 0x7A] ++ leBytes 2 v)])) ∧
      (∀ cmd, tells (.mctpUnsupportedCmd src cmd) [5]) ∧
      tells (.getHealth src) (health s) ∧
      (∀ (first : BitVec 48) (most : BitVec 16), (1000 < most.toNat → tells (.readRecords src first most) [1]) ∧
        (most.toNat ≤ 1000 → tells (.readRecords src first most) (0 :: leBytes 6 (recordOldest s - first.toNat) ++
          recordsFrom s.recd.ring most.toNat (s.recd.live.filter fun e => first.toNat ≤ e.1)))) ∧
      (∀ (a : BitVec 48) (words : BitVec 8),
        (inRecovery s = true → tells (.readControl src a words) [3]) ∧
        (inRecovery s = false → words.toNat = 0 ∨ 64 < words.toNat ∨ a.toNat % 4 ≠ 0 ∨ ctlAddr a.toNat = none →
          tells (.readControl src a words) [1]) ∧
        (∀ r die i, inRecovery s = false → words = 1 → a.toNat % 4 = 0 → i < 2 ^ 22 → regAt a.toNat = some (r, die, i, 0) → r.words = 1 →
          blockAlive s r die = true → Does (.readControl src a words) s [.sent, .regs] [(r, keptAt r die, some i)] fun t =>
            t.sent = s.sent ++ [.mctp src.toNat (0 :: leBytes 4 (readReg s r die i % 2 ^ 32))])) ∧
      (∀ (scope : BitVec 8) (confirm : BitVec 16), (scope ≠ 1 ∧ scope ≠ 4) ∨ confirm ≠ 0xA5A5 → tells (.mctpReset src scope confirm) [1])) ∧
    (alive s 3 = true → Does (.hstMctpDropped src) s recParts
      (alsoRegs recRegs [(.HST_MCTP_DROP_COUNT, 6, some 0), (.HST_FAULT, 6, some 0)]) fun t =>
      Counted s t .HST_MCTP_DROP_COUNT 6 0 31 1 ∧ rbit t .HST_FAULT 6 0 4 = true)

/-! ## Ethernet and the bulk transport -/

/-- An Ethernet port comes up and goes down with its links; a frame for this module is kept for its session, another is
dropped and counted (13 R503, R506). -/
def Obligations.EthernetPortsReceive : Prop :=
  ∀ (p : Fin 2) (s : State),
    (∀ an : Bool, alive s (8 + p) = true → ethUp s p = false →
      Does (.ethLinkUp p an) s recParts (alsoRegs recRegs [(.ETH_PORT_STATUS, 6 + p, some 0)]) fun t =>
        rfld t .ETH_PORT_STATUS (6 + p) 0 31 29 = if an then 7 else 5) ∧
    (ethUp s p = true → (∀ sid < 256, sesState s sid = 0) →
      Does (.ethLinkDown p) s recParts (alsoRegs recRegs [(.ETH_PORT_STATUS, 6 + p, some 0), (.ETH_FAULT, 6, some 0)]) fun t =>
        rfld t .ETH_PORT_STATUS (6 + p) 0 31 29 = 0 ∧ rbit t .ETH_FAULT 6 0 0 = true) ∧
    (∀ f : Frame, ethUp s p = true →
      (frameOk s p f = true → Does (.ethFrameReceive p f) s [.regs, .eth] [(.ETH_RX_BYTES, 6 + p, some 0)] fun t =>
        t.eth.rx = s.eth.rx ++ [(p.val, f.payload)] ∧ Counted s t .ETH_RX_BYTES (6 + p) 0 63 f.payload.length) ∧
      (frameOk s p f = false → Does (.ethFrameReceive p f) s [.regs, .raised]
        [(.ETH_RX_BYTES, 6 + p, some 0), (.ETH_RX_DROP_COUNT, 6 + p, some 0), (.ETH_FAULT, 6, some 0)] fun t =>
        Counted s t .ETH_RX_DROP_COUNT (6 + p) 0 31 1 ∧ rbit t .ETH_FAULT 6 0 2 = true))

/-- A session opens by OPEN and OPEN_ACK between KINDs that fit, keeps alive with KEEPALIVE, and closes under the
causes of R505: a command, the peer's CLOSE, no answer in ETH_OPEN_TIMEOUT, sixteen retransmissions, 100 ms of
silence, no port, a KIND that does not fit; a transfer of it then ends with that cause (13 R505, R507, R509). -/
def Obligations.SessionsOpenAndClose : Prop :=
  ∀ (sid : Fin 256) (s : State),
    let x := sesLive s sid
    let pkt (typ flags psn off obj : Nat) (data : List Byte) : List Byte := transportBytes typ flags (if typ ≤ 2 then sesKind s sid else 0)
      (sesF s sid 159 144) sid psn off obj data
    let ethTx : List RegAt := [(.ETH_TX_BYTES, 6, some 0), (.ETH_TX_BYTES, 7, some 0)]
    let sends (typ : Nat) (t : State) : Prop := ∀ p, sesPort s sid 0 = some p → t.sent = s.sent ++ [.eth p sid (pkt typ 0 0 0 0 [])]
    let firstRx (typ : Nat) (bs : List Byte) : Prop := (s.eth.rx.find? fun e => tpType e.2 = typ).map (·.2) = some bs ∧ tpSid bs = sid.val
    let closes (c : Instr) (cause : Nat) (ps : List Part) (rs : List RegAt) (post : State → Prop) : Prop :=
      sesKind s sid ≠ 4 → Does c s (recParts ++ [.eth, .sent] ++ ps) (alsoRegs (alsoRegs recRegs ethTx) (alsoRegs rs
        [(.ETH_SESSION, 6, some sid.val), (.ETH_FAULT, 6, some 0), (.ETH_XFER_STATUS, 6, some 0)])) fun t =>
        sesState t sid = 0 ∧ sesF t sid 123 120 = cause ∧ sesLive t sid = {} ∧ rbit t .ETH_FAULT 6 0 1 = true ∧
        (xferBusy s = true → s.eth.xferSession = sid.val → xferBusy t = false ∧ rbit t .ETH_XFER_STATUS 6 0 30 = true ∧
          rfld t .ETH_XFER_STATUS 6 0 3 0 = cause) ∧ post t
    let fits (bs : List Byte) : Bool := complements (sesKind s sid) (tpF bs 3 1)
    -- opening
    (alive s 8 = true → sesState s sid = 0 → sesF s sid 130 129 ≠ 0 → sesPort s sid 0 ≠ none →
      Does (.sessionOpen sid) s [.regs, .eth, .sent] (alsoRegs ethTx [(.ETH_SESSION, 6, some sid.val)]) fun t =>
        sesState t sid = 1 ∧ sends 1 t ∧ sesLive t sid = { openAt := nowUs s, sent := nowUs s }) ∧
    (∀ bs, firstRx 1 bs → sesState s sid ≠ 0 → fits bs = true → Does .openPkt s [.regs, .eth, .sent] ethTx fun t =>
      sends 2 t ∧ (sesLive t sid).heard = nowUs s) ∧
    (∀ bs, firstRx 2 bs → sesState s sid = 1 → fits bs = true → sesKind s sid ≠ 3 →
      Does .openAckPkt s (recParts ++ [.eth]) (alsoRegs recRegs [(.ETH_SESSION, 6, some sid.val)]) fun t =>
        sesState t sid = 2 ∧ (sesLive t sid).heard = nowUs s) ∧
    (∀ bs, firstRx 6 bs → sesState s sid ≠ 0 → Does .keepalivePkt s [.eth] [] fun t => sesLive t sid = { x with heard := nowUs s }) ∧
    (sesState s sid = 1 → Does (.openRetryTimer sid) s (timeParts ++ [.eth, .sent]) (alsoRegs timeRegs ethTx) fun t =>
      sends 1 t ∧ t.cc = max s.cc (s.pow.aonAt + (x.sent + 1000) * 1750)) ∧
    (sesOpen s sid = true → max (x.sent + 10000) (nowUs s) < x.heard + 100000 →
      Does (.keepaliveTimer sid) s (timeParts ++ [.eth, .sent]) (alsoRegs timeRegs ethTx) fun t =>
        sends 6 t ∧ t.cc = max s.cc (s.pow.aonAt + (x.sent + 10000) * 1750)) ∧
    -- closing
    (sesState s sid ≠ 0 → closes (.sessionClose sid) 1 [] [] (sends 5)) ∧
    (∀ bs, firstRx 5 bs → sesState s sid ≠ 0 → closes .closePkt 2 [] [] fun t => t.sent = s.sent) ∧
    (sesState s sid = 1 → closes (.ethOpenTimeout sid) 3 timeParts timeRegs (sends 5)) ∧
    (∀ psn d, sesOpen s sid = true → x.unacked.find? (·.psn = psn) = some d → d.tries = 16 →
      closes (.ethRto sid psn) 4 timeParts timeRegs (sends 5)) ∧
    (sesOpen s sid = true → x.heard + 100000 ≤ max (x.sent + 10000) (nowUs s) → closes (.keepaliveTimer sid) 5 timeParts timeRegs (sends 5)) ∧
    (∀ bs, firstRx 1 bs → sesState s sid ≠ 0 → fits bs = false → closes .openPkt 7 [] [] (sends 5)) ∧
    (∀ bs, firstRx 2 bs → sesState s sid ≠ 0 → fits bs = false → closes .openAckPkt 7 [] [] (sends 5))

/-- DATA of a RECV session lands in its window, once for each PSN, and is acknowledged with the sixteenth or 20 µs
after the last acknowledgement; an ACK frees what it names, lets DATA that waited for room leave, and ends a transfer
that has sent everything; ETH_RTO
sends a packet again (13 R507). GO starts a transfer by an OPEN session of kind SEND (R509). -/
def Obligations.DataIsDelivered : Prop :=
  ∀ (sid : Fin 256) (s : State), sesOpen s sid = true →
    let x := sesLive s sid
    let ethTx : List RegAt := [(.ETH_TX_BYTES, 6, some 0), (.ETH_TX_BYTES, 7, some 0)]
    let firstRx (typ : Nat) (bs : List Byte) : Prop := (s.eth.rx.find? fun e => tpType e.2 = typ).map (·.2) = some bs ∧ tpSid bs = sid.val
    let dataRegs := alsoRegs (flagRegs 6) ethTx
    (∀ bs, firstRx 3 bs → sesKind s sid = 2 → dataWaits s = false →
      let psn := tpPsn bs; let off := tpF bs 16 8; let data := bs.drop 32
      off + data.length ≤ sesF s sid 239 200 →
      let again := psn < x.rxNext ∨ psn ∈ x.rxLater
      (¬ again → Does .dataPkt s (signalParts ++ [.eth, .sent, .col, .mem, .poison, .loam]) dataRegs fun t =>
        t.mem = applyWr s.mem ((byteWrs (sesF s sid 287 240 + off) data).filter fun w => inStores s w.a (w.a + 1)) ∧
        ((sesLive t sid).rxNext, (sesLive t sid).rxLater) = rxAdvance (x.rxLater.length + 1) x.rxNext (psn :: x.rxLater) ∧
        (sesLive t sid).sinceAck = if 16 ≤ x.sinceAck + 1 then 0 else x.sinceAck + 1) ∧
      (again → Does .dataPkt s [.regs, .eth, .sent, .col] ethTx fun t =>
        (sesLive t sid).rxNext = x.rxNext ∧ (sesLive t sid).sinceAck = if 16 ≤ x.sinceAck + 1 then 0 else x.sinceAck + 1)) ∧
    (x.sinceAck ≠ 0 → Does (.ethAckTimer sid) s (timeParts ++ [.eth, .sent]) (alsoRegs timeRegs ethTx) fun t =>
      (sesLive t sid).sinceAck = 0 ∧ (sesLive t sid).ackFrom = nowUs t ∧
      t.cc = max s.cc (s.pow.aonAt + (x.ackFrom + 20) * 1750)) ∧
    (∀ bs, firstRx 4 bs →
      let cum := tpPsn bs
      let freed (n : Nat) : Bool := (cum != 2 ^ 64 - 1 && decide (n ≤ cum)) ||
        (List.range 64).any fun i => (tpF bs 16 8).testBit i && n = (cum + 1 + i) % 2 ^ 64
      let left := (x.unacked.filter fun d => !freed d.psn).map fun d =>
        { d with later := d.later + ((x.unacked.filter fun g => freed g.psn).filter fun g => d.psn < g.psn).length }
      (∀ d ∈ left, d.later < 3) →
      (xferBusy s = false → x.backlog = [] → Does .ackPkt s [.eth] [] fun t => (sesLive t sid).unacked = left ∧ (sesLive t sid).heard = nowUs s) ∧
      (∀ obj off last data, xferBusy s = false → x.backlog = [(obj, off, last, data)] → left.length < 4096 →
        Does .ackPkt s [.eth, .regs, .sent] ethTx fun t => (sesLive t sid).backlog = [] ∧
          (sesLive t sid).psn = x.psn + 1 ∧ (sesLive t sid).unacked = left ++ [⟨x.psn, obj, off, last, data, nowUs s, 0, 0⟩]) ∧
      (xferBusy s = true → x.backlog = [] → s.eth.xferSession = sid.val → s.eth.xferLeft = 0 → left = [] →
        Does .ackPkt s [.eth, .regs, .raised] [(.ETH_XFER_STATUS, 6, some 0)] fun t =>
          (sesLive t sid).unacked = [] ∧ xferBusy t = false ∧ rbit t .ETH_XFER_STATUS 6 0 30 = true ∧
          rfld t .ETH_XFER_STATUS 6 0 3 0 = 0 ∧ t.host.raised.testBit 12 = true)) ∧
    (∀ psn d, x.unacked.find? (·.psn = psn) = some d → d.tries < 16 →
      Does (.ethRto sid psn) s (timeParts ++ [.eth, .sent]) (alsoRegs timeRegs ethTx) fun t =>
        t.cc = max s.cc (s.pow.aonAt + (d.at_ + rget s .ETH_RTO 6 0) * 1750) ∧
        (∃ e ∈ (sesLive t sid).unacked, e.psn = psn ∧ e.tries = d.tries + 1 ∧ e.data = d.data) ∧
        ∀ p, sesPort s sid psn = some p → t.sent = s.sent ++ [.eth p sid (transportBytes 3 (b2n d.last) 0 (sesF s sid 159 144) sid psn d.off d.obj d.data)]) ∧
    (∀ v : BitVec 32, bits v.toNat 7 0 = sid.val → v.toNat.testBit 31 = true → xferBusy s = false → sesKind s sid = 1 → sesRoom s sid = true →
      let len := rfld s .ETH_XFER_LEN 6 0 47 0
      let src := rfld s .ETH_XFER_SRC 6 0 47 0
      len ≤ 8192 → underTest s src len = false → badLines s src len = [] → Does (.xferGo v) s [.regs, .eth, .sent, .loam] (alsoRegs ethTx [(.ETH_XFER_CMD, 6, some 0), (.ETH_XFER_STATUS, 6, some 0)]) fun t =>
        xferBusy t = true ∧ t.eth.xferSession = sid.val ∧ t.eth.xferLeft = 0 ∧ rget t .ETH_XFER_CMD 6 0 = bits v.toNat 23 0 ∧
        (sesLive t sid).psn = x.psn + 1 ∧ (sesLive t sid).unacked =
          x.unacked ++ [⟨x.psn, bits v.toNat 23 8, 0, true, rdBytes s.mem src len, nowUs s, 0, 0⟩]) ∧
    (∀ v : BitVec 32, v.toNat.testBit 31 = false → Does (.xferGo v) s [.regs] [(.ETH_XFER_CMD, 6, some 0)] fun t =>
      rget t .ETH_XFER_CMD 6 0 = bits v.toNat 23 0)

/-! ## Reset and boot -/

/-- A reset command is refused while a reset of an equal or lower code acts, and in recovery mode unless it is a full
reset; else a full, structural or management reset asserts at once, and a link or core reset first stops the issue of
commands and writes back, then asserts (12 R474, R475, R479). A beat that fails a fifth time and a training that fails outside
a start are structural faults (01 R25, R41). MCTP commands the same, with its answer (13 R502). A
watchdog, RESET_N low for 1.25 µs, a failed start's second and an AON power-on reset assert from their sources (R475,
R476, R481). -/
def Obligations.ResetsAssert : Prop :=
  (∀ s : State, let busy := s.rst.phase ≠ .idle
    let asserts (c : Instr) (scope cause : Nat) : Prop := ∃ t, exec c s = .next t ∧ ResetDone scope cause s t ∧ t.cc = s.cc
    let enters (c : Instr) (scope : Nat) : Prop := Does c s (recParts ++ [.flights, .queues, .slots, .col, .rst]) recRegs fun t =>
      t.rst = { s.rst with phase := .entry, scope := scope } ∧ t.cp.flights = [] ∧ t.cp.queues = [] ∧ t.cp.slots = [] ∧ t.col.ops = []
    let commands : List (Instr × Nat) := [(.rstCmdFull, 1), (.rstCmdStructural, 2), (.rstCmdLink, 3), (.rstCmdCore, 4), (.rstCmdManagement, 5)]
    (∀ e ∈ commands, (inRecovery s = true ∧ e.2 ≠ 1) ∨ (busy ∧ s.rst.scope ≤ e.2) →
      Does e.1 s recParts (alsoRegs recRegs [(.RST_STATUS, 8, some 0)]) fun t => rbit t .RST_STATUS 8 0 28 = true ∧ t.rst = s.rst) ∧
    (¬ busy → inRecovery s = false →
      asserts .rstCmdFull 1 3 ∧ asserts .rstCmdStructural 2 3 ∧ asserts .rstCmdManagement 5 3 ∧
      (starting s = false → enters .rstCmdLink 3 ∧ enters .rstCmdCore 4) ∧
      (starting s = true → asserts .rstCmdLink 3 3 ∧ asserts .rstCmdCore 4 3) ∧
      (∀ (l : D2D) (raw : Nat), let h := linkDir s l.key
        h.trained = true → h.retrain = false → received l.narrow raw = none → 4 ≤ h.tries → starting s = false →
        asserts (.d2dReplay l raw) 2 5) ∧
      (∀ (l : D2D) (r : TrainResult), starting s = false → trainingDue s l → trainingFails l r = true → asserts (.d2dTrainingDone l r) 2 5) ∧
      ∀ src : BitVec 8, mctpServed s = true → ∃ t, exec (.mctpReset src 1 0xA5A5) s = .next t ∧ ResetDone 1 3 s t ∧
        .mctp src.toNat [0] ∈ t.sent) ∧
    (¬ busy → asserts .onakanWatchdog 5 7) ∧
    (∀ (ns : Nat) (seen : Bool),
      (ns < 1000 → Does (.resetNAssert ns seen) s [.regs] [(.RST_RESETN_FILTERED, 8, some 0)] fun t =>
        Counted s t .RST_RESETN_FILTERED 8 0 31 1) ∧
      (1000 ≤ ns → ns < 1250 → seen = false → exec (.resetNAssert ns seen) s = .next s) ∧
      (1250 ≤ ns ∨ 1000 ≤ ns ∧ seen = true → ∃ t, exec (.resetNAssert ns seen) s = .next t ∧ ResetDone 1 2 s t ∧ t.cc = s.cc ∧ t.rst.resetN = true)) ∧
    Does .resetNRelease s [.rst] [] (fun t => t.rst = { s.rst with resetN := false, rowAt := if s.rst.rows.head? = some 1 then s.cc else s.rst.rowAt }) ∧
    (s.rst.phase = .entry → s.rst.scope = 3 ∨ s.rst.scope = 4 → asserts .loamWritebackDone s.rst.scope 3) ∧
    (s.rst.failedMs ≠ 0 → failCount s < 4 → ∃ t, exec .aonRestart s = .next t ∧ ResetDone 1 4 s t ∧
      t.cc = max s.cc (s.pow.aonAt + (s.rst.failedMs - 1 + 1000) * 1750000)) ∧
    (∀ (vin : Bool) (mv : Nat), s.pow.aonLost = true → ∃ t, exec (.aonPowerOnReset vin mv) s = .next t ∧ ResetDone 0 1 s t ∧
      t.cc = s.cc ∧ t.pow.aonLost = false ∧ t.pow.aonAt = s.cc ∧ t.pow.vbakMv = mv ∧ t.mem = [])) ∧
  -- a host reset acts on domain 3 alone
  (∀ s : State, alive s 3 = true →
    let host (c : Instr) (cause : Nat) (low : Bool) : Prop := ∃ t, exec c s = .next t ∧ alive t 3 = false ∧
      rfld t .RST_STATUS 8 0 27 24 = 6 ∧ rfld t .RST_STATUS 8 0 23 16 = cause ∧ t.rst.perst = low ∧ t.host.msix = [] ∧
      t.rst.hostAt = s.cc + 4097 ∧ Only (recParts ++ [.hostRest, .upd, .rst]) s t
    host .perst 8 true ∧ host .pcieHotReset 9 s.rst.perst ∧ (rbit s .HST_LINK 6 0 31 = true → host .hstLinkDown 9 s.rst.perst)) ∧
  ∀ s : State, s.rst.hostAt ≠ 0 → alive s 3 = false →
    Does .perstDeassert s (timeParts ++ [.rst]) (alsoRegs timeRegs [(.RST_DOMAINS, 8, some 0)]) fun t =>
      alive t 3 = true ∧ t.rst.perst = false ∧ t.rst.hostAt = 0 ∧ t.cc = max s.cc (s.rst.hostAt - 1)

/-- Domains are released row by row after their gaps; the first release of a start begins it, or enters recovery mode
(12 R478, R481, R485). The root PLL's lock and each training let the start go on; a training that fails, no lock in 10 ms
and 30 s without STEP_READY end it under their codes; with every condition held STEP_READY is set (R481, R482; 01 R40,
R41; 08 R301, R304, R319). -/
def Obligations.StartsProceed : Prop :=
  ∀ s : State,
    let failRegs := alsoRegs recRegs [(.RST_AON, 8, some 0), (.RST_STATUS, 8, some 0)]
    let fails (c : Instr) (code : Nat) (ps : List Part) (rs : List RegAt) (post : State → Prop) : Prop :=
      Does c s (recParts ++ [.rst] ++ ps) (alsoRegs failRegs rs) fun t => StartFailed code s t ∧ post t
    let rowRegs := alsoRegs (alsoRegs timeRegs failRegs) [(.RST_DOMAINS, 8, some 0), (.NET_PORT_STATUS, 6, none)]
    let row (post : State → Prop) : Prop := Does .domainRelease s (timeParts ++ recParts ++ [.rst, .net]) rowRegs post
    (∀ r rest, s.rst.phase = .releasing → s.rst.rows = r :: rest → rowWaits s r = false → (r = 3 → s.rst.perst = false) → r < 30 →
      (5 ≤ s.rst.scope ∨ s.rst.firstCc ≠ 0 → row fun t => (∀ d < 30, alive t d = (alive s d || d = rowDomain r)) ∧
        t.rst.rows = rest ∧ t.cc = max s.cc (s.rst.rowAt + rowGap s r)) ∧
      (s.rst.scope < 5 → s.rst.firstCc = 0 → recoveryDue s = false → row fun t => (∀ d < 30, alive t d = (alive s d || d = rowDomain r)) ∧
        t.rst.rows = rest ∧ starting t = true ∧ inRecovery t = false) ∧
      (s.rst.scope < 5 → s.rst.firstCc = 0 → recoveryDue s = true → row fun t => inRecovery t = true ∧
        rbit t .RST_AON 8 0 31 = false ∧ ∀ x ∈ t.rst.rows, x ≤ 3)) ∧
    (alive s 1 = true → s.pow.rootLock = false →
      Does .rootPllLock s [.pow, .rst] [] (fun t => t.pow = { s.pow with rootLock := true } ∧ t.rst = { s.rst with rowAt := s.cc }) ∧
      (starting s = true → fails .pllLockTimeout 6 timeParts timeRegs fun t => t.cc = max s.cc (s.rst.rowAt + 17500000))) ∧
    (starting s = true → fails .startTimeout 1 timeParts timeRegs fun t => t.cc = max s.cc (s.rst.firstCc - 1 + 52500000000)) ∧
    (∀ (l : D2D) (r : TrainResult), trainingDue s l →
      let h := linkDir s l.key; let n := linkNo l
      (trainingFails l r = false → Does (.d2dTrainingDone l r) s (recParts ++ [.rst, .fab]) recRegs fun t =>
        linkDir t l.key = { h with trained := true, retrain := false, width := if l.narrow && r.lanes < 32 then 16 else 32,
                                   repairs := r.repairs, corr := [], sent := [], tries := 0 } ∧
        (∀ k, k ≠ l.key → linkDir t k = linkDir s k) ∧
        t.rst.d2dDone = (if (linkDir s (2 * n + 1 - l.dir % 2)).trained = true ∧ n ∉ s.rst.d2dDone then s.rst.d2dDone ++ [n]
          else s.rst.d2dDone)) ∧
      (trainingFails l r = true → starting s = true → fails (.d2dTrainingDone l r) 3 [] [] fun _ => True)) ∧
    (∀ (l : D2D) (raw : Nat), let h := linkDir s l.key
      h.trained = true → h.retrain = false → received l.narrow raw = none → 4 ≤ h.tries → starting s = true →
      fails (.d2dReplay l raw) 3 [] [] fun _ => True) ∧
    (∀ (m : Fin 2) (c : Fin 64), alive s (10 + m) = true → alive s (12 + m) = true → chKey m c ∉ s.ms.trained →
      Does (.channelTrainingDone m c true) s (recParts ++ [.msRest]) recRegs (fun t => t.ms.trained = s.ms.trained ++ [chKey m c]) ∧
      (chActive s m c = true → s.rst.lost = false → starting s = true →
        fails (.channelTrainingDone m c false) 4 [.msRest] [] fun t => t.ms.trained = s.ms.trained ++ [chKey m c])) ∧
    (s.rst.lost = true → allTrained s = true → s.ms.filled = false → stepReady s = false →
      Does .memoryFillDone s [.mem, .poison, .msRest] [] fun t => t.ms.filled = true ∧ t.ms.poison = [] ∧ t.ms.odd = [] ∧
        ∀ a, rdByte t.mem a = if a < memTop s then 0#8 else rdByte s.mem a) ∧
    (let pk := (Config.falconKeygen (shake256 (ascii "ZARIUS-D" ++ Config.deviceSecret) 64)).1;
      alive s 4 = true → s.rst.keyDone = false →
      (pk = (Config.identityCert.drop 17).take 1793 → Does .identityKeyDerive s [.regs, .rst] [(.SEC_STATUS, 8, some 0)] fun t =>
        t.rst = { s.rst with keyDone := true } ∧ rbit t .SEC_STATUS 8 0 30 = true) ∧
      (pk ≠ (Config.identityCert.drop 17).take 1793 → starting s = true →
        fails .identityKeyDerive 5 [] [(.SEC_STATUS, 8, some 0)] fun t => rbit t .SEC_STATUS 8 0 30 = false)) ∧
    (readyToStep s = true → Does .rstStepReady s (recParts ++ [.rst]) (alsoRegs failRegs [(.RST_START_MS, 8, some 0)]) fun t =>
      stepReady t = true ∧ starting t = false ∧ failCount t = 0 ∧
      rget t .RST_START_MS 8 0 = (s.cc + 1 - s.rst.firstCc) / 1750000 % 2 ^ 32) ∧
    Does (.forceRecovery false) s [.regs] [(.RST_AON, 8, some 0)] (fun t => rbit t .RST_AON 8 0 31 = true) ∧
    exec (.forceRecovery true) s = .next s

/-! ## Images and fuses -/

/-- The boot ROM takes the ACTIVE slot's image into force, or the other's with the rejection kept, or fails the start
(12 R480). VERIFY accepts a staged image or answers the code of its first check; COMMIT writes an accepted one to the
other slot (R466, R487). ENROLL, REVOKE and RAISE_SVN burn their fuse, or answer why not (R465). -/
def Obligations.ImagesAndFusesChange : Prop :=
  ∀ s : State,
    let imgRegs : List RegAt := alsoRegs recRegs ([(.IMG_STATUS, 8, some 0), (.IMG_SVN, 8, some 0), (.IMG_DIGEST, 8, some 0)] ++
      ([0, 1, 2, 3].flatMap fun n => [(.ROW_STAT_CFG, n, some 0), (.CMD_DMA_RATE, n, some 0)]) ++
      ([4, 5].flatMap fun m => [(.MEM_LOAM_CFG, m, some 0), (.MEM_PARTITION, m, some 0), (.UPD_RATE, m, some 0), (.UPD_LS_CFG, m, some 0),
        (.UPD_LS_INTERVAL, m, some 0), (.MEM_MAP, m, some 0), (.MEM_CH_STATUS, m, none), (.MEM_HOME, m, some 0), (.MEM_HOME_SIZE, m, some 0)]))
    let verdict (slot : Nat) : Option Nat := if s.img.invalid.contains slot then some 1 else imgReject s (slotImage s slot)
    let a := s.img.active
    let taken (slot : Nat) (t : State) : Prop := t.rst.imageOk = true ∧ imageInForce t = true ∧ rfld t .IMG_STATUS 8 0 30 30 = slot ∧
      t.img.content = (slotImage s slot).content ∧ rget t .IMG_SVN 8 0 = (slotImage s slot).svn % 2 ^ RegName.IMG_SVN.info.width
    (alive s 2 = true → s.rst.scope ≤ 2 → s.rst.imageOk = false → starting s = true → inRecovery s = false → a ≤ 1 →
      (verdict a = none → Does .imageVerifyBoot s (recParts ++ [.img, .msRest, .rst]) imgRegs fun t => taken a t ∧
        rbit t .IMG_STATUS 8 0 29 = false ∧ t.img.active = a) ∧
      (∀ c, verdict a = some c → verdict (1 - a) = none → Does .imageVerifyBoot s (recParts ++ [.img, .msRest, .rst]) imgRegs fun t =>
        taken (1 - a) t ∧ rbit t .IMG_STATUS 8 0 29 = true ∧ t.img.active = 1 - a ∧
        (if a = 0 then rfld t .IMG_STATUS 8 0 23 16 else rfld t .IMG_STATUS 8 0 15 8) = c % 256) ∧
      (∀ c d, verdict a = some c → verdict (1 - a) = some d →
        Does .imageVerifyBoot s (recParts ++ [.rst]) (alsoRegs recRegs [(.IMG_STATUS, 8, some 0), (.RST_AON, 8, some 0), (.RST_STATUS, 8, some 0)]) fun t =>
        StartFailed 2 s t ∧ imageInForce t = false)) ∧
    (alive s 2 = true →
      let result (t : State) (n : Nat) : Prop := rget t .IMG_CMD_STATUS 8 0 = 2 ^ 30 + n * 2 ^ 16 ∧ t.host.raised.testBit 11 = true
      let status : List RegAt := [(.IMG_CMD_STATUS, 8, some 0)]
      (s.img.busy = 2 → Does .imgVerify s [.regs, .raised] status fun t => result t 0x11) ∧
      (s.img.busy ≠ 2 →
        (∀ c, imgReject s (stagedImage s) = some c → Does .imgVerify s [.regs, .raised, .img] status fun t =>
          result t c ∧ t.img = { s.img with busy := 0 }) ∧
        (imgReject s (stagedImage s) = none →
          Does .imgVerify s [.regs, .raised, .img] (alsoRegs status [(.IMG_STAGE_DIGEST, 8, some 0)]) fun t =>
          result t 0 ∧ t.img = { s.img with busy := 0, verified := true } ∧
          rget t .IMG_STAGE_DIGEST 8 0 = leNat (stagedImage s).digest % 2 ^ 256)) ∧
      (∀ ok, s.img.busy = 1 → Does (.imgCommit ok) s [.regs, .raised] status fun t => result t 0x11) ∧
      (s.img.busy ≠ 1 →
        (∀ ok, s.img.verified = false → Does (.imgCommit ok) s [.regs, .raised, .img] status fun t => result t 0x10 ∧ t.img = { s.img with busy := 0 }) ∧
        (s.img.verified = true → Does (.imgCommit false) s [.regs, .raised, .img] status fun t => result t 0x12 ∧ t.img = { s.img with busy := 0 }) ∧
        (s.img.verified = true → let slot := commitSlot s; let i := stagedImage s
          Does (.imgCommit true) s (recParts ++ [.img]) (alsoRegs (alsoRegs status recRegs) [(.RST_AON, 8, some 0)]) fun t =>
          result t 0 ∧ t.img.active = slot ∧ slot ∉ t.img.invalid ∧ failCount t = 0 ∧
          (∀ n, n < i.length → mget 0#8 t.img.flash (0x1000000 * slot + n) = (i.bytes 0 i.length).getD n 0) ∧
          ∀ n, n < 0x1000000 * slot ∨ 0x1000000 * slot + i.length ≤ n → mget 0#8 t.img.flash n = mget 0#8 s.img.flash n))) ∧
    (alive s 2 = true →
      let burns (c : Instr) (f : Fuses) : Prop := Does c s (recParts ++ [.fuses]) (alsoRegs recRegs [(.SEC_CMD_STATUS, 8, some 0)]) fun t =>
        t.fuses = f ∧ rget t .SEC_CMD_STATUS 8 0 = 2 ^ 30 ∧ t.host.raised.testBit 11 = true ∧ Wrote 0x010D 8 s t
      let answers (c : Instr) (n : Nat) : Prop := Does c s [.regs, .raised] [(.SEC_CMD_STATUS, 8, some 0)] fun t =>
        rget t .SEC_CMD_STATUS 8 0 = 2 ^ 30 + n * 2 ^ 16
      let mine := imageInForce s = true ∧ (s.fuses.owners.getD (imageOwner s) none).isSome = true ∧ s.fuses.revoked.testBit (imageOwner s) = false
      (imageInForce s = true → unowned s = true ∨ mine → ∀ n, s.fuses.owners.findIdx? (fun o => o.isNone) = some n →
        burns .enroll { s.fuses with owners := s.fuses.owners.set n (some s.img.nextKey) }) ∧
      (imageInForce s = true → unowned s = true ∨ mine → s.fuses.owners.findIdx? (fun o => o.isNone) = none → answers .enroll 2) ∧
      (imageInForce s = false ∨ (unowned s = false ∧ ¬ mine) → answers .enroll 1) ∧
      (∀ n : Fin 4, let stays := (s.fuses.owners.getD n none).isNone = true ∨ (imageInForce s = true ∧ unowned s = false ∧ imageOwner s = n.val)
        (¬ stays → burns (.revoke n) { s.fuses with revoked := s.fuses.revoked ||| 2 ^ n.val }) ∧ (stays → answers (.revoke n) 3)) ∧
      (imageInForce s = true → s.fuses.svnFloor < rget s .IMG_SVN 8 0 → burns .raiseSvn { s.fuses with svnFloor := rget s .IMG_SVN 8 0 }) ∧
      (imageInForce s = false ∨ rget s .IMG_SVN 8 0 ≤ s.fuses.svnFloor → answers .raiseSvn 4))

/-! ## Power, heat and clocks -/

/-- An input out of range and a faulty rail reset the module, latched; the held release counts again when the
input is back (14 R518-R525). VBAK below 2.7 V sets its fault bit once for each fall (R521). Each 1 ms window adds its energy and
moves the power level toward the cap, the hard limit holds level 15 for 10 ms (R526), each 1 ms tick moves the thermal
level toward THM_TARGET, and the gate level is the larger of the two (R529, R533). -/
def Obligations.PowerIsControlled : Prop :=
  (∀ (lvl : Vin) (mv : Nat) (s : State), lvl ≠ .inRange → s.pow.vin = .inRange →
    ∃ t, exec (.pwrInputFault lvl mv) s = .next t ∧ ResetDone 1 1 s t ∧ t.pow.vin = lvl ∧ t.pow.vinMv = mv ∧
      t.pow.aonLost = decide (s.pow.vbakMv < 2500) ∧ rbit t .PWR_FAULT 8 0 (if lvl = .under then 0 else 1) = true) ∧
  (∀ (mv : Nat) (s : State), s.pow.vin ≠ .inRange → s.pow.aonLost = false →
    Does (.inputBackInRange mv) s [.pow, .rst] [] fun t => t.pow = { s.pow with vin := .inRange, vinMv := mv } ∧
      t.rst = { s.rst with rowAt := if s.rst.rows.head? = some 1 then s.cc else s.rst.rowAt }) ∧
  (∀ (mv : Nat) (s : State), Does (.pwrVbakLow mv) s (recParts ++ [.pow]) (alsoRegs recRegs [(.PWR_FAULT, 8, some 0)]) fun t =>
    t.pow.vbakMv = mv ∧ t.pow.vbakLow = decide (mv < 2700) ∧
      (mv < 2700 → s.pow.vbakLow = false → rbit t .PWR_FAULT 8 0 2 = true) ∧ (s.pow.vbakLow = true → t.regs = s.regs)) ∧
  (∀ s : State, s.pow.vin ≠ .inRange → Does .aonSupplyLost s [.pow] [] fun t => t.pow = { s.pow with aonLost := true }) ∧
  (∀ (d : Fin 30) (rail kind : Fin 4) (s : State), ∃ t, exec (.pwrRailFault d rail kind) s = .next t ∧ ResetDone 1 1 s t ∧
    rbit t .PWR_FAULT 8 0 3 = true ∧ t.rst.badRail = d.val + 1 ∧ rbit t .PWR_RAIL_FAULT 8 0 31 = true) ∧
  ∀ s : State, alive s 2 = true →
    let gateRegs := alsoRegs recRegs [(.PWR_STATUS, 8, some 0), (.THM_STATUS, 8, some 0), (.THM_FAULT, 8, some 0)]
    let levels (t : State) : Prop := gateLevel t = max (thermalLevel t) (powerLevel t % 16) ∧ rfld t .PWR_STATUS 8 0 3 0 = powerLevel t % 16
    (∀ w : Nat, s.pow.pLevel < 16 → Does (.powerWindow w) s (timeParts ++ recParts ++ [.pow])
      (alsoRegs (alsoRegs timeRegs gateRegs) [(.PWR_ENERGY, 8, some 0), (.PWR_POWER, 8, some 0), (.PWR_FAULT, 8, some 0)]) fun t =>
      (t.pow.pLevel, t.pow.capRun) = levelAfter w (powerCap s) s.pow.capRun s.pow.pLevel ∧ levels t ∧
      Counted s t .PWR_ENERGY 8 0 63 w ∧ rfld t .PWR_POWER 8 0 31 16 = w % 2 ^ 16 ∧
      (powerCap s < w → s.pow.capOver = false → rbit t .PWR_FAULT 8 0 4 = true)) ∧
    (∀ amps : Nat, (if s.fuses.gradeS then 58 else 70) < amps →
      Does (.hardCurrentLimit amps) s (recParts ++ [.pow]) (alsoRegs gateRegs [(.PWR_FAULT, 8, some 0)]) fun t =>
      t.pow.current = 100 * amps ∧ t.pow.holdEnd = nowUs s + 10001 ∧ gateLevel t = 15 ∧ rbit t .PWR_FAULT 8 0 5 = true) ∧
    (s.pow.holdEnd ≠ 0 → s.pow.pLevel < 16 → Does .currentLimitHoldEnd s (timeParts ++ recParts ++ [.pow]) (alsoRegs timeRegs gateRegs) fun t =>
      t.pow.holdEnd = 0 ∧ levels t ∧ t.cc = max s.cc (s.pow.aonAt + (s.pow.holdEnd - 1) * 1750)) ∧
    (s.pow.pLevel < 16 → let T := (junction s).1
      let l := thermalLevel s
      let cool := T < 8 * (thmTarget s - 3)
      Does .thermalTick s (recParts ++ [.pow]) gateRegs fun t => levels t ∧
        (8 * thmTarget s < T → s.pow.hot = 0 → thermalLevel t = min 15 (l + 1)) ∧
        (T ≤ 8 * thmTarget s → s.pow.hot = 0 → thermalLevel t = if cool ∧ 9 ≤ s.pow.coolRun then l - 1 else l) ∧
        (s.pow.hot ≠ 0 → 8 ≤ thermalLevel t) ∧ (cool → t.pow.coolRun = min 10 (s.pow.coolRun + 1)) ∧ (¬ cool → t.pow.coolRun = 0))

/-- Sensors are read, and T_j at THM_WARN sets its fault bit once; a failed sensor stays failed (14 R527, R528, R531). A hot
package raises the thermal level to 8 at least (R530); a trip resets the module and holds it until every sensor is
below 85 °C (R532). A gate window starts with the level in force, and at its held part the commands at work carry
THROTTLE (R534). -/
def Obligations.HeatIsControlled : Prop :=
  (∀ (temps : List (BitVec 12)) (s : State), alive s 2 = true →
    let s' : State := { s with pow := { s.pow with temps := temps.map (·.toNat) } }
    let reached := 8 * thmWarn s ≤ (junction s').1
    Does (.sensorSample temps) s (recParts ++ [.pow]) (alsoRegs recRegs [(.THM_FAULT, 8, some 0)]) fun t =>
      t.pow.temps = temps.map (·.toNat) ∧ (reached → s.pow.warned = false → t.pow.warned = true ∧ rbit t .THM_FAULT 8 0 0 = true) ∧
      ((junction s').1 < 8 * (thmWarn s - 3) → t.pow.warned = false)) ∧
  (∀ (i : Fin 28) (s : State), s.pow.failed.testBit i = false →
    Does (.thmSensorFail i) s (recParts ++ [.pow]) (alsoRegs recRegs [(.THM_FAULT, 8, some 0)]) fun t =>
      t.pow.failed = s.pow.failed ||| 2 ^ i.val ∧ rbit t .THM_FAULT 8 0 4 = true) ∧
  (∀ (pkg : Fin 16) (s : State), rbit s .MEM_PKG_STATUS (4 + pkg.val / 8) (pkg.val % 8) 29 = true → s.pow.hot.testBit pkg = false →
    Does (.thmMemHot pkg) s (recParts ++ [.pow])
      (alsoRegs recRegs [(.PWR_STATUS, 8, some 0), (.THM_STATUS, 8, some 0), (.THM_FAULT, 8, some 0)]) fun t =>
      t.pow.hot = s.pow.hot ||| 2 ^ pkg.val ∧ thermalLevel t = max 8 (thermalLevel s) ∧ rbit t .THM_FAULT 8 0 2 = true) ∧
  (∀ (i : Fin 28) (v : BitVec 12) (s : State), let limit : Int := if i.val < 24 then 115 * 8 else 125 * 8
    (rawTemp v.toNat < limit → exec (.thmTrip i v) s = .next s) ∧
    (limit ≤ rawTemp v.toNat → ∃ t, exec (.thmTrip i v) s = .next t ∧ ResetDone 1 6 s t ∧ t.pow.tripped = true ∧
      rbit t .THM_FAULT 8 0 3 = true ∧ rfld t .THM_TRIP_INFO 8 0 4 0 = i ∧
      rfld t .THM_TRIP_INFO 8 0 15 8 = (rawTemp v.toNat / 8 % 256).toNat)) ∧
  (∀ (temps : List (BitVec 12)) (s : State), s.pow.tripped = true → (∀ i < 28, rawTemp (temps.getD i 0).toNat < 680) →
    Does (.tripCooldownPoll temps) s [.pow, .rst] [] fun t => t.pow = { s.pow with tripped := false, temps := temps.map (·.toNat) } ∧
      t.rst = { s.rst with rowAt := if s.rst.rows.head? = some 1 then s.cc else s.rst.rowAt }) ∧
  (∀ s : State, alive s 4 = true →
    (s.cp.flights = [] → Does .gateWindowStart s (timeParts ++ [.pow]) timeRegs fun t =>
      t.pow.gate = gateLevel s ∧ t.pow.gateAt = t.sync.dt + 1 ∧
      t.cc = s.cc + (if s.sync.dt % 65536 = 0 ∧ s.pow.gateAt ≠ s.sync.dt + 1 then 0 else 65536 - s.sync.dt % 65536)) ∧
    (0 < s.pow.gate → Does .gateHoldStart s (timeParts ++ [.flights]) timeRegs fun t =>
      t.cp.flights = s.cp.flights.map (fun f => if gatedWork f then { f with marks := f.marks ||| 2 } else f) ∧
      t.cc = s.cc + (s.sync.dt / 65536 * 65536 + 65536 - 4096 * s.pow.gate - s.sync.dt)))

/-- A clock that fails is latched under its bit: SYNC_REF puts the module in holdover and unlocks DT
until it is back; the root PLL without SYNC_REF's loss resets the module, or ends a start; a SerDes PLL fails its
torus ports, which train again with its lock, and takes its Ethernet port down; REFCLK takes the PCIe link down (14
R538-R540, R549). -/
def Obligations.ClocksFailAndReturn : Prop :=
  ∀ s : State, let clk : List RegAt := alsoRegs recRegs [(.CLK_FAULT, 8, some 0)]
    (s.pow.syncRef = true → Does .clkSyncRefLost s (recParts ++ [.pow])
      (alsoRegs clk [(.CLK_STATUS, 8, some 0), (.CLK_SYNC_LOSS_COUNT, 8, some 0), (.SYNC_STATUS, 6, some 0), (.SYNC_FAULT, 6, some 0)]) fun t =>
      t.pow = { s.pow with syncRef := false, holdoverAt := nowUs s } ∧ rbit t .CLK_STATUS 8 0 29 = true ∧ rbit t .CLK_FAULT 8 0 0 = true ∧
      Counted s t .CLK_SYNC_LOSS_COUNT 8 0 31 1 ∧
      (alive s 4 = true → rbit t .SYNC_STATUS 6 0 31 = false ∧ rbit t .SYNC_FAULT 6 0 2 = true)) ∧
    (s.pow.syncRef = false → Does .clkSyncRefBack s (recParts ++ [.pow])
      (alsoRegs recRegs [(.CLK_STATUS, 8, some 0), (.CLK_HOLDOVER_US, 8, some 0)]) fun t =>
      t.pow = { s.pow with syncRef := true } ∧ rbit t .CLK_STATUS 8 0 29 = false ∧
      rget t .CLK_HOLDOVER_US 8 0 = min (2 ^ 32 - 1) (nowUs s - s.pow.holdoverAt)) ∧
    (s.pow.rootLock = true → s.pow.syncRef = true →
      (starting s = true → Does .clkRootUnlock s (recParts ++ [.pow, .rst]) (alsoRegs recRegs [(.RST_AON, 8, some 0), (.RST_STATUS, 8, some 0)]) fun t =>
        StartFailed 6 s t ∧ t.pow = { s.pow with rootLock := false }) ∧
      (starting s = false → ∃ t, exec .clkRootUnlock s = .next t ∧ ResetDone 1 4 s t ∧ rbit t .CLK_FAULT 8 0 1 = true)) ∧
    (∀ l : Fin 2,
      (s.pow.serdes.testBit l = true → (∀ sid < 256, sesState s sid = 0) →
        Does (.serdesUnlock l) s (recParts ++ [.pow, .net]) (alsoRegs clk [(.NET_PORT_STATUS, 6, none), (.NET_PORT_CFG, 6, none),
          (.NET_PORT_CAUSE, 6, none), (.NET_FAULT, 6, some 0), (.NET_DROP_COUNT, 6, none), (.ETH_PORT_STATUS, 6 + l, some 0),
          (.ETH_FAULT, 6, some 0)]) fun t =>
        t.pow.serdes.testBit l = false ∧ rbit t .CLK_FAULT 8 0 3 = true ∧ ethUp t l = false ∧
        ∀ p < 6, p % 2 = l.val → portUp s p = true ∨ portState s p = 2 → portState t p = 4 ∧ rfld t .NET_PORT_CAUSE 6 p 3 0 = 1) ∧
      (s.pow.serdes.testBit l = false → alive s (6 + l) = true →
        Does (.serdesRelock l) s [.pow, .regs, .net] [(.NET_PORT_STATUS, 6, none)] fun t => t.pow.serdes.testBit l = true ∧
        ∀ p < 6, portState t p = if p % 2 = l.val ∧ portState s p = 4 then 1 else portState s p)) ∧
    (s.pow.refclk = true → rbit s .HST_LINK 6 0 31 = false →
      Does .clkRefclkLost s (recParts ++ [.pow]) clk fun t => t.pow = { s.pow with refclk := false } ∧ rbit t .CLK_FAULT 8 0 2 = true) ∧
    (s.pow.refclk = true → rbit s .HST_LINK 6 0 31 = true → alive s 3 = true → ∃ t, exec .clkRefclkLost s = .next t ∧
      t.pow.refclk = false ∧ rbit t .CLK_FAULT 8 0 2 = true ∧ alive t 3 = false ∧ rfld t .RST_STATUS 8 0 23 16 = 9) ∧
    (s.pow.xtal = true → Does .xtalFail s [.pow, .regs, .raised] [(.CLK_FAULT, 8, some 0)] fun t =>
      t.pow = { s.pow with xtal := false } ∧ rbit t .CLK_FAULT 8 0 4 = true)
end

