-- ==== Sys2Proof/Laws/Map.lean ====
section
/-!
SUPPORT. Laws of the sparse maps: what a lookup answers after an update, and that the canonical form is kept.
-/
namespace Sys2Proof.Machine

theorem mget_mdel_ne {α : Type} (d : α) {x y : Nat} (h : y ≠ x) :
    ∀ m : List (Nat × α), mget d (mdel m x) y = mget d m y
  | [] => rfl
  | (k, v) :: t => by
    have ih := mget_mdel_ne d h t
    simp only [mdel, List.filter_cons] at ih ⊢
    by_cases hk : k = x
    · subst hk; simp [mget, h, ih]
    · simp [hk, mget, ih]

@[simp] theorem mget_mdel_self {α : Type} (d : α) (x : Nat) :
    ∀ m : List (Nat × α), mget d (mdel m x) x = d
  | [] => rfl
  | (k, v) :: t => by
    have ih := mget_mdel_self d x t
    simp only [mdel, List.filter_cons] at ih ⊢
    by_cases hk : k = x
    · simp [hk, ih]
    · simp [hk, mget, ih, Ne.symm hk]

/-- A lookup of the key that was set. -/
@[simp] theorem mget_mset_self {α : Type} [DecidableEq α] (d : α) (x : Nat) (v : α) :
    ∀ m : List (Nat × α), mget d (mset d m x v) x = v
  | [] => by by_cases hv : v = d <;> simp [mset, mget, hv]
  | (k, w) :: t => by
    have ih := mget_mset_self d x v t
    unfold mset
    split
    · rename_i hlt
      have hne : x ≠ k := by omega
      split
      · rename_i hv; simp [mget, hne, hv]
      · simp [mget]
    · split
      · rename_i heq
        subst heq
        split
        · rename_i hv; simp [hv]
        · simp [mget]
      · rename_i hne; simp [mget, hne, ih]

/-- A lookup of another key, whatever default the lookup has. -/
theorem mget_mset_other {α : Type} [DecidableEq α] (d d' : α) {x y : Nat} (v : α) (h : y ≠ x) :
    ∀ m : List (Nat × α), mget d' (mset d m x v) y = mget d' m y
  | [] => by by_cases hv : v = d <;> simp [mset, mget, hv, h]
  | (k, w) :: t => by
    have ih := mget_mset_other d d' v h t
    unfold mset
    split
    · split
      · simp [mget, mget_mdel_ne d' h t]
      · simp [mget, h]
    · split
      · rename_i heq
        subst heq
        split
        · simp [mget, h, mget_mdel_ne d' h t]
        · simp [mget, h]
      · simp [mget, ih]

/-- A lookup of another key. -/
theorem mget_mset_ne {α : Type} [DecidableEq α] (d : α) {x y : Nat} (v : α) (h : y ≠ x) (m : List (Nat × α)) :
    mget d (mset d m x v) y = mget d m y := mget_mset_other d d v h m

/-- A lookup after an update. -/
theorem mget_mset {α : Type} [DecidableEq α] (d : α) (m : List (Nat × α)) (x y : Nat) (v : α) :
    mget d (mset d m x v) y = if y = x then v else mget d m y := by
  by_cases h : y = x
  · subst h; simp
  · simp [h, mget_mset_ne]

/-! ## The canonical form -/

theorem mwfFrom_mono {α : Type} [DecidableEq α] (d : α) {a b : Nat} (hab : a ≤ b) :
    ∀ m : List (Nat × α), mwfFrom d b m = true → mwfFrom d a m = true
  | [], _ => rfl
  | (k, v) :: t, h => by
    simp only [mwfFrom, Bool.and_eq_true, decide_eq_true_eq] at h ⊢
    exact ⟨⟨by omega, h.1.2⟩, h.2⟩

theorem mwfFrom_mdel {α : Type} [DecidableEq α] (d : α) (x : Nat) :
    ∀ (a : Nat) (m : List (Nat × α)), mwfFrom d a m = true → mwfFrom d a (mdel m x) = true
  | _, [], _ => rfl
  | a, (k, v) :: t, h => by
    simp only [mwfFrom, Bool.and_eq_true, decide_eq_true_eq] at h
    have ih := mwfFrom_mdel d x (k + 1) t h.2
    simp only [mdel, List.filter_cons] at ih ⊢
    by_cases hk : k = x
    · simp only [hk, bne_self_eq_false, Bool.false_eq_true, if_false]
      subst hk
      exact mwfFrom_mono d (by omega) _ ih
    · simp only [bne_iff_ne, ne_eq, hk, not_false_eq_true, if_true, mwfFrom, Bool.and_eq_true, decide_eq_true_eq]
      exact ⟨⟨h.1.1, h.1.2⟩, ih⟩

theorem mwfFrom_mset {α : Type} [DecidableEq α] (d : α) (x : Nat) (v : α) :
    ∀ (a : Nat) (m : List (Nat × α)), mwfFrom d a m = true → mwfFrom d (min a x) (mset d m x v) = true
  | a, [], _ => by
    by_cases hv : v = d
    · simp [mset, hv, mwfFrom]
    · simp [mset, hv, mwfFrom, Nat.min_le_right]
  | a, (k, w) :: t, h => by
    have h0 := h
    simp only [mwfFrom, Bool.and_eq_true, decide_eq_true_eq] at h
    unfold mset
    split
    · rename_i hlt
      split
      · have hm := mwfFrom_mdel d x (k + 1) t h.2
        simp only [mwfFrom, Bool.and_eq_true, decide_eq_true_eq]
        exact ⟨⟨by omega, h.1.2⟩, hm⟩
      · rename_i hv
        simp only [mwfFrom, Bool.and_eq_true, decide_eq_true_eq]
        exact ⟨⟨by omega, hv⟩, ⟨by omega, h.1.2⟩, h.2⟩
    · split
      · rename_i heq
        split
        · exact mwfFrom_mono d (by omega) _ (mwfFrom_mdel d x (k + 1) t h.2)
        · rename_i hv
          simp only [mwfFrom, Bool.and_eq_true, decide_eq_true_eq]
          exact ⟨⟨by omega, hv⟩, h.2⟩
      · have ih := mwfFrom_mset d x v (k + 1) t h.2
        simp only [mwfFrom, Bool.and_eq_true, decide_eq_true_eq]
        exact ⟨⟨by omega, h.1.2⟩, by rwa [show min (k + 1) x = k + 1 by omega] at ih⟩

/-- Setting a key keeps the canonical form. -/
theorem mwf_mset {α : Type} [DecidableEq α] (d : α) (m : List (Nat × α)) (x : Nat) (v : α) (h : mwf d m = true) :
    mwf d (mset d m x v) = true := by
  simpa [mwf] using mwfFrom_mset d x v 0 m h

theorem mwfFrom_mkeep {α : Type} [DecidableEq α] (d : α) (p : Nat → Bool) :
    ∀ (a : Nat) (m : List (Nat × α)), mwfFrom d a m = true → mwfFrom d a (mkeep p m) = true
  | _, [], _ => rfl
  | a, (k, v) :: t, h => by
    simp only [mwfFrom, Bool.and_eq_true, decide_eq_true_eq] at h
    have ih := mwfFrom_mkeep d p (k + 1) t h.2
    simp only [mkeep, List.filter_cons] at ih ⊢
    by_cases hp : p k = true
    · simp only [hp, if_true, mwfFrom, Bool.and_eq_true, decide_eq_true_eq]
      exact ⟨⟨h.1.1, h.1.2⟩, ih⟩
    · simp only [hp, Bool.false_eq_true, if_false]
      exact mwfFrom_mono d (by omega) _ ih

/-- Keeping some keys keeps the canonical form. -/
theorem mwf_mkeep {α : Type} [DecidableEq α] (d : α) (p : Nat → Bool) (m : List (Nat × α)) (h : mwf d m = true) :
    mwf d (mkeep p m) = true := mwfFrom_mkeep d p 0 m h

/-! ## Rising keys -/

theorem mrising_cons {α : Type} (e : Nat × α) (t : List (Nat × α)) :
    mrising (e :: t) = true ↔ (∀ b ∈ t, e.1 < b.1) ∧ mrising t = true := by
  simp [mrising]

theorem mem_mset {α : Type} [DecidableEq α] (d : α) (x : Nat) (v : α) (e : Nat × α) :
    ∀ m : List (Nat × α), e ∈ mset d m x v → e = (x, v) ∨ e ∈ m
  | [], h => by
    by_cases hv : v = d <;> simp [mset, hv] at h
    exact .inl h
  | (k, w) :: t, h => by
    unfold mset at h
    split at h
    · split at h
      · simp only [mdel, List.mem_cons, List.mem_filter] at h ⊢
        rcases h with h | h
        · exact .inr (.inl h)
        · exact .inr (.inr h.1)
      · simp only [List.mem_cons] at h ⊢
        rcases h with h | h | h
        · exact .inl h
        · exact .inr (.inl h)
        · exact .inr (.inr h)
    · split at h
      · rename_i heq
        split at h
        · simp only [mdel, List.mem_cons, List.mem_filter] at h ⊢; exact .inr (.inr h.1)
        · simp only [List.mem_cons] at h ⊢
          rcases h with h | h
          · exact .inl (by rw [h, heq])
          · exact .inr (.inr h)
      · simp only [List.mem_cons] at h ⊢
        rcases h with h | h
        · exact .inr (.inl h)
        · rcases mem_mset d x v e t h with h | h
          · exact .inl h
          · exact .inr (.inr h)

theorem mrising_filter {α : Type} (p : Nat × α → Bool) (m : List (Nat × α)) (h : mrising m = true) :
    mrising (m.filter p) = true := by
  simp only [mrising, decide_eq_true_eq] at h ⊢
  exact h.filter p

/-- Setting a key keeps the keys rising. -/
theorem mrising_mset {α : Type} [DecidableEq α] (d : α) (x : Nat) (v : α) :
    ∀ m : List (Nat × α), mrising m = true → mrising (mset d m x v) = true
  | [], _ => by by_cases hv : v = d <;> simp [mset, hv, mrising]
  | (k, w) :: t, h => by
    rw [mrising_cons] at h
    obtain ⟨h1, h2⟩ := h
    unfold mset
    split
    · rename_i hlt
      split
      · rw [mrising_cons]
        exact ⟨fun b hb => h1 b (List.mem_filter.mp hb).1, mrising_filter _ _ h2⟩
      · rw [mrising_cons, mrising_cons]
        refine ⟨fun b hb => ?_, h1, h2⟩
        rcases List.mem_cons.mp hb with hb | hb
        · rw [hb]; exact hlt
        · exact Nat.lt_trans hlt (h1 b hb)
    · split
      · split
        · exact mrising_filter _ _ h2
        · rw [mrising_cons]; exact ⟨h1, h2⟩
      · rw [mrising_cons]
        refine ⟨fun b hb => ?_, mrising_mset d x v t h2⟩
        rcases mem_mset d x v b t hb with hb | hb
        · rw [hb]; show k < x; omega
        · exact h1 b hb

end Sys2Proof.Machine
end

