-- ==== Sys2Proof/Laws/State.lean ====
section
/-!
SUPPORT. What each primitive update leaves in each field of the state, and how effects run.
-/
namespace Sys2Proof.Machine

/-! ## Primitive updates, field by field -/

section
variable (s : State)

@[simp] theorem run_reg_pending (r : RegName) (die idx v : Nat) : (Act.run (.reg r die idx v) s).pending = s.pending := rfl
@[simp] theorem run_reg_cc (r : RegName) (die idx v : Nat) : (Act.run (.reg r die idx v) s).cc = s.cc := rfl
@[simp] theorem run_reg_regs (r : RegName) (die idx v : Nat) : (Act.run (.reg r die idx v) s).regs = mset (r.resetIn s.fuses.gradeS) s.regs (regKey r die idx) (v % 2 ^ r.info.width) := rfl
@[simp] theorem run_reg_flags (r : RegName) (die idx v : Nat) : (Act.run (.reg r die idx v) s).flags = s.flags := rfl
@[simp] theorem run_reg_flagOld (r : RegName) (die idx v : Nat) : (Act.run (.reg r die idx v) s).flagOld = s.flagOld := rfl
@[simp] theorem run_reg_tensors (r : RegName) (die idx v : Nat) : (Act.run (.reg r die idx v) s).tensors = s.tensors := rfl
@[simp] theorem run_reg_mem (r : RegName) (die idx v : Nat) : (Act.run (.reg r die idx v) s).mem = s.mem := rfl
@[simp] theorem run_reg_freeCtr (r : RegName) (die idx v : Nat) : (Act.run (.reg r die idx v) s).freeCtr = s.freeCtr := rfl
@[simp] theorem run_reg_fuses (r : RegName) (die idx v : Nat) : (Act.run (.reg r die idx v) s).fuses = s.fuses := rfl
@[simp] theorem run_reg_fab (r : RegName) (die idx v : Nat) : (Act.run (.reg r die idx v) s).fab = s.fab := rfl
@[simp] theorem run_reg_cp (r : RegName) (die idx v : Nat) : (Act.run (.reg r die idx v) s).cp = s.cp := rfl
@[simp] theorem run_reg_upd (r : RegName) (die idx v : Nat) : (Act.run (.reg r die idx v) s).upd = s.upd := rfl
@[simp] theorem run_reg_ms (r : RegName) (die idx v : Nat) : (Act.run (.reg r die idx v) s).ms = s.ms := rfl
@[simp] theorem run_reg_net (r : RegName) (die idx v : Nat) : (Act.run (.reg r die idx v) s).net = s.net := rfl
@[simp] theorem run_reg_col (r : RegName) (die idx v : Nat) : (Act.run (.reg r die idx v) s).col = s.col := rfl
@[simp] theorem run_reg_sync (r : RegName) (die idx v : Nat) : (Act.run (.reg r die idx v) s).sync = s.sync := rfl
@[simp] theorem run_reg_dig (r : RegName) (die idx v : Nat) : (Act.run (.reg r die idx v) s).dig = s.dig := rfl
@[simp] theorem run_reg_rst (r : RegName) (die idx v : Nat) : (Act.run (.reg r die idx v) s).rst = s.rst := rfl
@[simp] theorem run_reg_img (r : RegName) (die idx v : Nat) : (Act.run (.reg r die idx v) s).img = s.img := rfl
@[simp] theorem run_reg_host (r : RegName) (die idx v : Nat) : (Act.run (.reg r die idx v) s).host = s.host := rfl
@[simp] theorem run_reg_eth (r : RegName) (die idx v : Nat) : (Act.run (.reg r die idx v) s).eth = s.eth := rfl
@[simp] theorem run_reg_recd (r : RegName) (die idx v : Nat) : (Act.run (.reg r die idx v) s).recd = s.recd := rfl
@[simp] theorem run_reg_pow (r : RegName) (die idx v : Nat) : (Act.run (.reg r die idx v) s).pow = s.pow := rfl
@[simp] theorem run_reg_sent (r : RegName) (die idx v : Nat) : (Act.run (.reg r die idx v) s).sent = s.sent := rfl

@[simp] theorem run_wr_pending (ws : List Wr) : (Act.run (.wr ws) s).pending = s.pending := rfl
@[simp] theorem run_wr_cc (ws : List Wr) : (Act.run (.wr ws) s).cc = s.cc := rfl
@[simp] theorem run_wr_regs (ws : List Wr) : (Act.run (.wr ws) s).regs = s.regs := rfl
@[simp] theorem run_wr_flags (ws : List Wr) : (Act.run (.wr ws) s).flags = s.flags := rfl
@[simp] theorem run_wr_flagOld (ws : List Wr) : (Act.run (.wr ws) s).flagOld = s.flagOld := rfl
@[simp] theorem run_wr_tensors (ws : List Wr) : (Act.run (.wr ws) s).tensors = s.tensors := rfl
@[simp] theorem run_wr_mem (ws : List Wr) : (Act.run (.wr ws) s).mem = applyWr s.mem ws := rfl
@[simp] theorem run_wr_freeCtr (ws : List Wr) : (Act.run (.wr ws) s).freeCtr = s.freeCtr := rfl
@[simp] theorem run_wr_fuses (ws : List Wr) : (Act.run (.wr ws) s).fuses = s.fuses := rfl
@[simp] theorem run_wr_fab (ws : List Wr) : (Act.run (.wr ws) s).fab = s.fab := rfl
@[simp] theorem run_wr_cp (ws : List Wr) : (Act.run (.wr ws) s).cp = s.cp := rfl
@[simp] theorem run_wr_upd (ws : List Wr) : (Act.run (.wr ws) s).upd = s.upd := rfl
@[simp] theorem run_wr_ms (ws : List Wr) : (Act.run (.wr ws) s).ms = { s.ms with
    poison := s.ms.poison.filter fun l => !coversLine ws l
    odd := s.ms.odd.filter fun e => !coversLine ws e.1
    loam := (wrLines ws).foldl (loamTouch s true) s.ms.loam } := rfl
@[simp] theorem run_wr_net (ws : List Wr) : (Act.run (.wr ws) s).net = s.net := rfl
@[simp] theorem run_wr_col (ws : List Wr) : (Act.run (.wr ws) s).col = s.col := rfl
@[simp] theorem run_wr_sync (ws : List Wr) : (Act.run (.wr ws) s).sync = s.sync := rfl
@[simp] theorem run_wr_dig (ws : List Wr) : (Act.run (.wr ws) s).dig = s.dig := rfl
@[simp] theorem run_wr_rst (ws : List Wr) : (Act.run (.wr ws) s).rst = s.rst := rfl
@[simp] theorem run_wr_img (ws : List Wr) : (Act.run (.wr ws) s).img = s.img := rfl
@[simp] theorem run_wr_host (ws : List Wr) : (Act.run (.wr ws) s).host = s.host := rfl
@[simp] theorem run_wr_eth (ws : List Wr) : (Act.run (.wr ws) s).eth = s.eth := rfl
@[simp] theorem run_wr_recd (ws : List Wr) : (Act.run (.wr ws) s).recd = s.recd := rfl
@[simp] theorem run_wr_pow (ws : List Wr) : (Act.run (.wr ws) s).pow = s.pow := rfl
@[simp] theorem run_wr_sent (ws : List Wr) : (Act.run (.wr ws) s).sent = s.sent := rfl

@[simp] theorem run_rd_pending (runs : List (Nat × Nat)) : (Act.run (.rd runs) s).pending = s.pending := rfl
@[simp] theorem run_rd_cc (runs : List (Nat × Nat)) : (Act.run (.rd runs) s).cc = s.cc := rfl
@[simp] theorem run_rd_regs (runs : List (Nat × Nat)) : (Act.run (.rd runs) s).regs = s.regs := rfl
@[simp] theorem run_rd_flags (runs : List (Nat × Nat)) : (Act.run (.rd runs) s).flags = s.flags := rfl
@[simp] theorem run_rd_flagOld (runs : List (Nat × Nat)) : (Act.run (.rd runs) s).flagOld = s.flagOld := rfl
@[simp] theorem run_rd_tensors (runs : List (Nat × Nat)) : (Act.run (.rd runs) s).tensors = s.tensors := rfl
@[simp] theorem run_rd_mem (runs : List (Nat × Nat)) : (Act.run (.rd runs) s).mem = s.mem := rfl
@[simp] theorem run_rd_freeCtr (runs : List (Nat × Nat)) : (Act.run (.rd runs) s).freeCtr = s.freeCtr := rfl
@[simp] theorem run_rd_fuses (runs : List (Nat × Nat)) : (Act.run (.rd runs) s).fuses = s.fuses := rfl
@[simp] theorem run_rd_fab (runs : List (Nat × Nat)) : (Act.run (.rd runs) s).fab = s.fab := rfl
@[simp] theorem run_rd_cp (runs : List (Nat × Nat)) : (Act.run (.rd runs) s).cp = s.cp := rfl
@[simp] theorem run_rd_upd (runs : List (Nat × Nat)) : (Act.run (.rd runs) s).upd = s.upd := rfl
@[simp] theorem run_rd_ms (runs : List (Nat × Nat)) : (Act.run (.rd runs) s).ms = { s.ms with loam := (runLines runs).foldl (loamTouch s false) s.ms.loam } := rfl
@[simp] theorem run_rd_net (runs : List (Nat × Nat)) : (Act.run (.rd runs) s).net = s.net := rfl
@[simp] theorem run_rd_col (runs : List (Nat × Nat)) : (Act.run (.rd runs) s).col = s.col := rfl
@[simp] theorem run_rd_sync (runs : List (Nat × Nat)) : (Act.run (.rd runs) s).sync = s.sync := rfl
@[simp] theorem run_rd_dig (runs : List (Nat × Nat)) : (Act.run (.rd runs) s).dig = s.dig := rfl
@[simp] theorem run_rd_rst (runs : List (Nat × Nat)) : (Act.run (.rd runs) s).rst = s.rst := rfl
@[simp] theorem run_rd_img (runs : List (Nat × Nat)) : (Act.run (.rd runs) s).img = s.img := rfl
@[simp] theorem run_rd_host (runs : List (Nat × Nat)) : (Act.run (.rd runs) s).host = s.host := rfl
@[simp] theorem run_rd_eth (runs : List (Nat × Nat)) : (Act.run (.rd runs) s).eth = s.eth := rfl
@[simp] theorem run_rd_recd (runs : List (Nat × Nat)) : (Act.run (.rd runs) s).recd = s.recd := rfl
@[simp] theorem run_rd_pow (runs : List (Nat × Nat)) : (Act.run (.rd runs) s).pow = s.pow := rfl
@[simp] theorem run_rd_sent (runs : List (Nat × Nat)) : (Act.run (.rd runs) s).sent = s.sent := rfl

@[simp] theorem run_mark_pending (l : Nat) : (Act.run (.mark l) s).pending = s.pending := rfl
@[simp] theorem run_mark_cc (l : Nat) : (Act.run (.mark l) s).cc = s.cc := rfl
@[simp] theorem run_mark_regs (l : Nat) : (Act.run (.mark l) s).regs = s.regs := rfl
@[simp] theorem run_mark_flags (l : Nat) : (Act.run (.mark l) s).flags = s.flags := rfl
@[simp] theorem run_mark_flagOld (l : Nat) : (Act.run (.mark l) s).flagOld = s.flagOld := rfl
@[simp] theorem run_mark_tensors (l : Nat) : (Act.run (.mark l) s).tensors = s.tensors := rfl
@[simp] theorem run_mark_mem (l : Nat) : (Act.run (.mark l) s).mem = s.mem := rfl
@[simp] theorem run_mark_freeCtr (l : Nat) : (Act.run (.mark l) s).freeCtr = s.freeCtr := rfl
@[simp] theorem run_mark_fuses (l : Nat) : (Act.run (.mark l) s).fuses = s.fuses := rfl
@[simp] theorem run_mark_fab (l : Nat) : (Act.run (.mark l) s).fab = s.fab := rfl
@[simp] theorem run_mark_cp (l : Nat) : (Act.run (.mark l) s).cp = s.cp := rfl
@[simp] theorem run_mark_upd (l : Nat) : (Act.run (.mark l) s).upd = s.upd := rfl
@[simp] theorem run_mark_ms (l : Nat) : (Act.run (.mark l) s).ms = { s.ms with poison := if s.ms.poison.contains l then s.ms.poison else l :: s.ms.poison } := rfl
@[simp] theorem run_mark_net (l : Nat) : (Act.run (.mark l) s).net = s.net := rfl
@[simp] theorem run_mark_col (l : Nat) : (Act.run (.mark l) s).col = s.col := rfl
@[simp] theorem run_mark_sync (l : Nat) : (Act.run (.mark l) s).sync = s.sync := rfl
@[simp] theorem run_mark_dig (l : Nat) : (Act.run (.mark l) s).dig = s.dig := rfl
@[simp] theorem run_mark_rst (l : Nat) : (Act.run (.mark l) s).rst = s.rst := rfl
@[simp] theorem run_mark_img (l : Nat) : (Act.run (.mark l) s).img = s.img := rfl
@[simp] theorem run_mark_host (l : Nat) : (Act.run (.mark l) s).host = s.host := rfl
@[simp] theorem run_mark_eth (l : Nat) : (Act.run (.mark l) s).eth = s.eth := rfl
@[simp] theorem run_mark_recd (l : Nat) : (Act.run (.mark l) s).recd = s.recd := rfl
@[simp] theorem run_mark_pow (l : Nat) : (Act.run (.mark l) s).pow = s.pow := rfl
@[simp] theorem run_mark_sent (l : Nat) : (Act.run (.mark l) s).sent = s.sent := rfl

@[simp] theorem run_flagAdd_pending (k i : Nat) : (Act.run (.flagAdd k i) s).pending = s.pending := rfl
@[simp] theorem run_flagAdd_cc (k i : Nat) : (Act.run (.flagAdd k i) s).cc = s.cc := rfl
@[simp] theorem run_flagAdd_regs (k i : Nat) : (Act.run (.flagAdd k i) s).regs = s.regs := rfl
@[simp] theorem run_flagAdd_flags (k i : Nat) : (Act.run (.flagAdd k i) s).flags = mset 0 s.flags k (flagSum (mget 0 s.flags k) i) := rfl
@[simp] theorem run_flagAdd_flagOld (k i : Nat) : (Act.run (.flagAdd k i) s).flagOld = if mget 0 s.flagOld k = 0 then mset 0 s.flagOld k (mget 0 s.flags k + 1) else s.flagOld := rfl
@[simp] theorem run_flagAdd_tensors (k i : Nat) : (Act.run (.flagAdd k i) s).tensors = s.tensors := rfl
@[simp] theorem run_flagAdd_mem (k i : Nat) : (Act.run (.flagAdd k i) s).mem = s.mem := rfl
@[simp] theorem run_flagAdd_freeCtr (k i : Nat) : (Act.run (.flagAdd k i) s).freeCtr = s.freeCtr := rfl
@[simp] theorem run_flagAdd_fuses (k i : Nat) : (Act.run (.flagAdd k i) s).fuses = s.fuses := rfl
@[simp] theorem run_flagAdd_fab (k i : Nat) : (Act.run (.flagAdd k i) s).fab = s.fab := rfl
@[simp] theorem run_flagAdd_cp (k i : Nat) : (Act.run (.flagAdd k i) s).cp = s.cp := rfl
@[simp] theorem run_flagAdd_upd (k i : Nat) : (Act.run (.flagAdd k i) s).upd = s.upd := rfl
@[simp] theorem run_flagAdd_ms (k i : Nat) : (Act.run (.flagAdd k i) s).ms = s.ms := rfl
@[simp] theorem run_flagAdd_net (k i : Nat) : (Act.run (.flagAdd k i) s).net = s.net := rfl
@[simp] theorem run_flagAdd_col (k i : Nat) : (Act.run (.flagAdd k i) s).col = s.col := rfl
@[simp] theorem run_flagAdd_sync (k i : Nat) : (Act.run (.flagAdd k i) s).sync = s.sync := rfl
@[simp] theorem run_flagAdd_dig (k i : Nat) : (Act.run (.flagAdd k i) s).dig = s.dig := rfl
@[simp] theorem run_flagAdd_rst (k i : Nat) : (Act.run (.flagAdd k i) s).rst = s.rst := rfl
@[simp] theorem run_flagAdd_img (k i : Nat) : (Act.run (.flagAdd k i) s).img = s.img := rfl
@[simp] theorem run_flagAdd_host (k i : Nat) : (Act.run (.flagAdd k i) s).host = s.host := rfl
@[simp] theorem run_flagAdd_eth (k i : Nat) : (Act.run (.flagAdd k i) s).eth = s.eth := rfl
@[simp] theorem run_flagAdd_recd (k i : Nat) : (Act.run (.flagAdd k i) s).recd = s.recd := rfl
@[simp] theorem run_flagAdd_pow (k i : Nat) : (Act.run (.flagAdd k i) s).pow = s.pow := rfl
@[simp] theorem run_flagAdd_sent (k i : Nat) : (Act.run (.flagAdd k i) s).sent = s.sent := rfl

@[simp] theorem run_vtag_pending (d i : Nat) : (Act.run (.vtag d i) s).pending = s.pending := rfl
@[simp] theorem run_vtag_cc (d i : Nat) : (Act.run (.vtag d i) s).cc = s.cc := rfl
@[simp] theorem run_vtag_regs (d i : Nat) : (Act.run (.vtag d i) s).regs = s.regs := rfl
@[simp] theorem run_vtag_flags (d i : Nat) : (Act.run (.vtag d i) s).flags = s.flags := rfl
@[simp] theorem run_vtag_flagOld (d i : Nat) : (Act.run (.vtag d i) s).flagOld = s.flagOld := rfl
@[simp] theorem run_vtag_tensors (d i : Nat) : (Act.run (.vtag d i) s).tensors = mset 0#256 s.tensors (d * 8192 + i) ((tget s d i).setVtag (((tget s d i).vtag + 1) % 2 ^ 16)) := rfl
@[simp] theorem run_vtag_mem (d i : Nat) : (Act.run (.vtag d i) s).mem = s.mem := rfl
@[simp] theorem run_vtag_freeCtr (d i : Nat) : (Act.run (.vtag d i) s).freeCtr = s.freeCtr := rfl
@[simp] theorem run_vtag_fuses (d i : Nat) : (Act.run (.vtag d i) s).fuses = s.fuses := rfl
@[simp] theorem run_vtag_fab (d i : Nat) : (Act.run (.vtag d i) s).fab = s.fab := rfl
@[simp] theorem run_vtag_cp (d i : Nat) : (Act.run (.vtag d i) s).cp = s.cp := rfl
@[simp] theorem run_vtag_upd (d i : Nat) : (Act.run (.vtag d i) s).upd = s.upd := rfl
@[simp] theorem run_vtag_ms (d i : Nat) : (Act.run (.vtag d i) s).ms = s.ms := rfl
@[simp] theorem run_vtag_net (d i : Nat) : (Act.run (.vtag d i) s).net = s.net := rfl
@[simp] theorem run_vtag_col (d i : Nat) : (Act.run (.vtag d i) s).col = s.col := rfl
@[simp] theorem run_vtag_sync (d i : Nat) : (Act.run (.vtag d i) s).sync = s.sync := rfl
@[simp] theorem run_vtag_dig (d i : Nat) : (Act.run (.vtag d i) s).dig = s.dig := rfl
@[simp] theorem run_vtag_rst (d i : Nat) : (Act.run (.vtag d i) s).rst = s.rst := rfl
@[simp] theorem run_vtag_img (d i : Nat) : (Act.run (.vtag d i) s).img = s.img := rfl
@[simp] theorem run_vtag_host (d i : Nat) : (Act.run (.vtag d i) s).host = s.host := rfl
@[simp] theorem run_vtag_eth (d i : Nat) : (Act.run (.vtag d i) s).eth = s.eth := rfl
@[simp] theorem run_vtag_recd (d i : Nat) : (Act.run (.vtag d i) s).recd = s.recd := rfl
@[simp] theorem run_vtag_pow (d i : Nat) : (Act.run (.vtag d i) s).pow = s.pow := rfl
@[simp] theorem run_vtag_sent (d i : Nat) : (Act.run (.vtag d i) s).sent = s.sent := rfl

@[simp] theorem run_poison_pending (d i : Nat) (p : Bool) (q : Nat) : (Act.run (.poison d i p q) s).pending = s.pending := rfl
@[simp] theorem run_poison_cc (d i : Nat) (p : Bool) (q : Nat) : (Act.run (.poison d i p q) s).cc = s.cc := rfl
@[simp] theorem run_poison_regs (d i : Nat) (p : Bool) (q : Nat) : (Act.run (.poison d i p q) s).regs = s.regs := rfl
@[simp] theorem run_poison_flags (d i : Nat) (p : Bool) (q : Nat) : (Act.run (.poison d i p q) s).flags = s.flags := rfl
@[simp] theorem run_poison_flagOld (d i : Nat) (p : Bool) (q : Nat) : (Act.run (.poison d i p q) s).flagOld = s.flagOld := rfl
@[simp] theorem run_poison_tensors (d i : Nat) (p : Bool) (q : Nat) : (Act.run (.poison d i p q) s).tensors = mset 0#256 s.tensors (d * 8192 + i) ((tget s d i).setPoison p q) := rfl
@[simp] theorem run_poison_mem (d i : Nat) (p : Bool) (q : Nat) : (Act.run (.poison d i p q) s).mem = s.mem := rfl
@[simp] theorem run_poison_freeCtr (d i : Nat) (p : Bool) (q : Nat) : (Act.run (.poison d i p q) s).freeCtr = s.freeCtr := rfl
@[simp] theorem run_poison_fuses (d i : Nat) (p : Bool) (q : Nat) : (Act.run (.poison d i p q) s).fuses = s.fuses := rfl
@[simp] theorem run_poison_fab (d i : Nat) (p : Bool) (q : Nat) : (Act.run (.poison d i p q) s).fab = s.fab := rfl
@[simp] theorem run_poison_cp (d i : Nat) (p : Bool) (q : Nat) : (Act.run (.poison d i p q) s).cp = s.cp := rfl
@[simp] theorem run_poison_upd (d i : Nat) (p : Bool) (q : Nat) : (Act.run (.poison d i p q) s).upd = s.upd := rfl
@[simp] theorem run_poison_ms (d i : Nat) (p : Bool) (q : Nat) : (Act.run (.poison d i p q) s).ms = s.ms := rfl
@[simp] theorem run_poison_net (d i : Nat) (p : Bool) (q : Nat) : (Act.run (.poison d i p q) s).net = s.net := rfl
@[simp] theorem run_poison_col (d i : Nat) (p : Bool) (q : Nat) : (Act.run (.poison d i p q) s).col = s.col := rfl
@[simp] theorem run_poison_sync (d i : Nat) (p : Bool) (q : Nat) : (Act.run (.poison d i p q) s).sync = s.sync := rfl
@[simp] theorem run_poison_dig (d i : Nat) (p : Bool) (q : Nat) : (Act.run (.poison d i p q) s).dig = s.dig := rfl
@[simp] theorem run_poison_rst (d i : Nat) (p : Bool) (q : Nat) : (Act.run (.poison d i p q) s).rst = s.rst := rfl
@[simp] theorem run_poison_img (d i : Nat) (p : Bool) (q : Nat) : (Act.run (.poison d i p q) s).img = s.img := rfl
@[simp] theorem run_poison_host (d i : Nat) (p : Bool) (q : Nat) : (Act.run (.poison d i p q) s).host = s.host := rfl
@[simp] theorem run_poison_eth (d i : Nat) (p : Bool) (q : Nat) : (Act.run (.poison d i p q) s).eth = s.eth := rfl
@[simp] theorem run_poison_recd (d i : Nat) (p : Bool) (q : Nat) : (Act.run (.poison d i p q) s).recd = s.recd := rfl
@[simp] theorem run_poison_pow (d i : Nat) (p : Bool) (q : Nat) : (Act.run (.poison d i p q) s).pow = s.pow := rfl
@[simp] theorem run_poison_sent (d i : Nat) (p : Bool) (q : Nat) : (Act.run (.poison d i p q) s).sent = s.sent := rfl

@[simp] theorem run_otag_pending (d i t : Nat) : (Act.run (.otag d i t) s).pending = s.pending := rfl
@[simp] theorem run_otag_cc (d i t : Nat) : (Act.run (.otag d i t) s).cc = s.cc := rfl
@[simp] theorem run_otag_regs (d i t : Nat) : (Act.run (.otag d i t) s).regs = s.regs := rfl
@[simp] theorem run_otag_flags (d i t : Nat) : (Act.run (.otag d i t) s).flags = s.flags := rfl
@[simp] theorem run_otag_flagOld (d i t : Nat) : (Act.run (.otag d i t) s).flagOld = s.flagOld := rfl
@[simp] theorem run_otag_tensors (d i t : Nat) : (Act.run (.otag d i t) s).tensors = mset 0#256 s.tensors (d * 8192 + i) ((tget s d i).setOtag t) := rfl
@[simp] theorem run_otag_mem (d i t : Nat) : (Act.run (.otag d i t) s).mem = s.mem := rfl
@[simp] theorem run_otag_freeCtr (d i t : Nat) : (Act.run (.otag d i t) s).freeCtr = s.freeCtr := rfl
@[simp] theorem run_otag_fuses (d i t : Nat) : (Act.run (.otag d i t) s).fuses = s.fuses := rfl
@[simp] theorem run_otag_fab (d i t : Nat) : (Act.run (.otag d i t) s).fab = s.fab := rfl
@[simp] theorem run_otag_cp (d i t : Nat) : (Act.run (.otag d i t) s).cp = s.cp := rfl
@[simp] theorem run_otag_upd (d i t : Nat) : (Act.run (.otag d i t) s).upd = s.upd := rfl
@[simp] theorem run_otag_ms (d i t : Nat) : (Act.run (.otag d i t) s).ms = s.ms := rfl
@[simp] theorem run_otag_net (d i t : Nat) : (Act.run (.otag d i t) s).net = s.net := rfl
@[simp] theorem run_otag_col (d i t : Nat) : (Act.run (.otag d i t) s).col = s.col := rfl
@[simp] theorem run_otag_sync (d i t : Nat) : (Act.run (.otag d i t) s).sync = s.sync := rfl
@[simp] theorem run_otag_dig (d i t : Nat) : (Act.run (.otag d i t) s).dig = s.dig := rfl
@[simp] theorem run_otag_rst (d i t : Nat) : (Act.run (.otag d i t) s).rst = s.rst := rfl
@[simp] theorem run_otag_img (d i t : Nat) : (Act.run (.otag d i t) s).img = s.img := rfl
@[simp] theorem run_otag_host (d i t : Nat) : (Act.run (.otag d i t) s).host = s.host := rfl
@[simp] theorem run_otag_eth (d i t : Nat) : (Act.run (.otag d i t) s).eth = s.eth := rfl
@[simp] theorem run_otag_recd (d i t : Nat) : (Act.run (.otag d i t) s).recd = s.recd := rfl
@[simp] theorem run_otag_pow (d i t : Nat) : (Act.run (.otag d i t) s).pow = s.pow := rfl
@[simp] theorem run_otag_sent (d i t : Nat) : (Act.run (.otag d i t) s).sent = s.sent := rfl

@[simp] theorem run_clock_pending (n : Nat) : (Act.run (.clock n) s).pending = s.pending := rfl
@[simp] theorem run_clock_cc (n : Nat) : (Act.run (.clock n) s).cc = s.cc + n := rfl
@[simp] theorem run_clock_regs (n : Nat) : (Act.run (.clock n) s).regs = s.regs := rfl
@[simp] theorem run_clock_flags (n : Nat) : (Act.run (.clock n) s).flags = s.flags := rfl
@[simp] theorem run_clock_flagOld (n : Nat) : (Act.run (.clock n) s).flagOld = if n = 0 then s.flagOld else [] := rfl
@[simp] theorem run_clock_tensors (n : Nat) : (Act.run (.clock n) s).tensors = s.tensors := rfl
@[simp] theorem run_clock_mem (n : Nat) : (Act.run (.clock n) s).mem = s.mem := rfl
@[simp] theorem run_clock_freeCtr (n : Nat) : (Act.run (.clock n) s).freeCtr = s.freeCtr := rfl
@[simp] theorem run_clock_fuses (n : Nat) : (Act.run (.clock n) s).fuses = s.fuses := rfl
@[simp] theorem run_clock_fab (n : Nat) : (Act.run (.clock n) s).fab = s.fab := rfl
@[simp] theorem run_clock_cp (n : Nat) : (Act.run (.clock n) s).cp = s.cp := rfl
@[simp] theorem run_clock_upd (n : Nat) : (Act.run (.clock n) s).upd = s.upd := rfl
@[simp] theorem run_clock_ms (n : Nat) : (Act.run (.clock n) s).ms = s.ms := rfl
@[simp] theorem run_clock_net (n : Nat) : (Act.run (.clock n) s).net = s.net := rfl
@[simp] theorem run_clock_col (n : Nat) : (Act.run (.clock n) s).col = s.col := rfl
@[simp] theorem run_clock_sync (n : Nat) : (Act.run (.clock n) s).sync = { s.sync with dt := (s.sync.dt + n) % 2 ^ 64 } := rfl
@[simp] theorem run_clock_dig (n : Nat) : (Act.run (.clock n) s).dig = s.dig := rfl
@[simp] theorem run_clock_rst (n : Nat) : (Act.run (.clock n) s).rst = s.rst := rfl
@[simp] theorem run_clock_img (n : Nat) : (Act.run (.clock n) s).img = s.img := rfl
@[simp] theorem run_clock_host (n : Nat) : (Act.run (.clock n) s).host = s.host := rfl
@[simp] theorem run_clock_eth (n : Nat) : (Act.run (.clock n) s).eth = s.eth := rfl
@[simp] theorem run_clock_recd (n : Nat) : (Act.run (.clock n) s).recd = s.recd := rfl
@[simp] theorem run_clock_pow (n : Nat) : (Act.run (.clock n) s).pow = s.pow := rfl
@[simp] theorem run_clock_sent (n : Nat) : (Act.run (.clock n) s).sent = s.sent := rfl

@[simp] theorem run_free_pending : (Act.run (.free) s).pending = s.pending := rfl
@[simp] theorem run_free_cc : (Act.run (.free) s).cc = s.cc := rfl
@[simp] theorem run_free_regs : (Act.run (.free) s).regs = s.regs := rfl
@[simp] theorem run_free_flags : (Act.run (.free) s).flags = s.flags := rfl
@[simp] theorem run_free_flagOld : (Act.run (.free) s).flagOld = s.flagOld := rfl
@[simp] theorem run_free_tensors : (Act.run (.free) s).tensors = s.tensors := rfl
@[simp] theorem run_free_mem : (Act.run (.free) s).mem = s.mem := rfl
@[simp] theorem run_free_freeCtr : (Act.run (.free) s).freeCtr = s.freeCtr + 1 := rfl
@[simp] theorem run_free_fuses : (Act.run (.free) s).fuses = s.fuses := rfl
@[simp] theorem run_free_fab : (Act.run (.free) s).fab = s.fab := rfl
@[simp] theorem run_free_cp : (Act.run (.free) s).cp = s.cp := rfl
@[simp] theorem run_free_upd : (Act.run (.free) s).upd = s.upd := rfl
@[simp] theorem run_free_ms : (Act.run (.free) s).ms = s.ms := rfl
@[simp] theorem run_free_net : (Act.run (.free) s).net = s.net := rfl
@[simp] theorem run_free_col : (Act.run (.free) s).col = s.col := rfl
@[simp] theorem run_free_sync : (Act.run (.free) s).sync = s.sync := rfl
@[simp] theorem run_free_dig : (Act.run (.free) s).dig = s.dig := rfl
@[simp] theorem run_free_rst : (Act.run (.free) s).rst = s.rst := rfl
@[simp] theorem run_free_img : (Act.run (.free) s).img = s.img := rfl
@[simp] theorem run_free_host : (Act.run (.free) s).host = s.host := rfl
@[simp] theorem run_free_eth : (Act.run (.free) s).eth = s.eth := rfl
@[simp] theorem run_free_recd : (Act.run (.free) s).recd = s.recd := rfl
@[simp] theorem run_free_pow : (Act.run (.free) s).pow = s.pow := rfl
@[simp] theorem run_free_sent : (Act.run (.free) s).sent = s.sent := rfl

@[simp] theorem run_out_pending (x : Out) : (Act.run (.out x) s).pending = s.pending := rfl
@[simp] theorem run_out_cc (x : Out) : (Act.run (.out x) s).cc = s.cc := rfl
@[simp] theorem run_out_regs (x : Out) : (Act.run (.out x) s).regs = s.regs := rfl
@[simp] theorem run_out_flags (x : Out) : (Act.run (.out x) s).flags = s.flags := rfl
@[simp] theorem run_out_flagOld (x : Out) : (Act.run (.out x) s).flagOld = s.flagOld := rfl
@[simp] theorem run_out_tensors (x : Out) : (Act.run (.out x) s).tensors = s.tensors := rfl
@[simp] theorem run_out_mem (x : Out) : (Act.run (.out x) s).mem = s.mem := rfl
@[simp] theorem run_out_freeCtr (x : Out) : (Act.run (.out x) s).freeCtr = s.freeCtr := rfl
@[simp] theorem run_out_fuses (x : Out) : (Act.run (.out x) s).fuses = s.fuses := rfl
@[simp] theorem run_out_fab (x : Out) : (Act.run (.out x) s).fab = s.fab := rfl
@[simp] theorem run_out_cp (x : Out) : (Act.run (.out x) s).cp = s.cp := rfl
@[simp] theorem run_out_upd (x : Out) : (Act.run (.out x) s).upd = s.upd := rfl
@[simp] theorem run_out_ms (x : Out) : (Act.run (.out x) s).ms = s.ms := rfl
@[simp] theorem run_out_net (x : Out) : (Act.run (.out x) s).net = s.net := rfl
@[simp] theorem run_out_col (x : Out) : (Act.run (.out x) s).col = s.col := rfl
@[simp] theorem run_out_sync (x : Out) : (Act.run (.out x) s).sync = s.sync := rfl
@[simp] theorem run_out_dig (x : Out) : (Act.run (.out x) s).dig = s.dig := rfl
@[simp] theorem run_out_rst (x : Out) : (Act.run (.out x) s).rst = s.rst := rfl
@[simp] theorem run_out_img (x : Out) : (Act.run (.out x) s).img = s.img := rfl
@[simp] theorem run_out_host (x : Out) : (Act.run (.out x) s).host = s.host := rfl
@[simp] theorem run_out_eth (x : Out) : (Act.run (.out x) s).eth = s.eth := rfl
@[simp] theorem run_out_recd (x : Out) : (Act.run (.out x) s).recd = s.recd := rfl
@[simp] theorem run_out_pow (x : Out) : (Act.run (.out x) s).pow = s.pow := rfl
@[simp] theorem run_out_sent (x : Out) : (Act.run (.out x) s).sent = s.sent ++ [x] := rfl

@[simp] theorem run_fab_pending (x : Fabric) : (Act.run (.fab x) s).pending = s.pending := rfl
@[simp] theorem run_fab_cc (x : Fabric) : (Act.run (.fab x) s).cc = s.cc := rfl
@[simp] theorem run_fab_regs (x : Fabric) : (Act.run (.fab x) s).regs = s.regs := rfl
@[simp] theorem run_fab_flags (x : Fabric) : (Act.run (.fab x) s).flags = s.flags := rfl
@[simp] theorem run_fab_flagOld (x : Fabric) : (Act.run (.fab x) s).flagOld = s.flagOld := rfl
@[simp] theorem run_fab_tensors (x : Fabric) : (Act.run (.fab x) s).tensors = s.tensors := rfl
@[simp] theorem run_fab_mem (x : Fabric) : (Act.run (.fab x) s).mem = s.mem := rfl
@[simp] theorem run_fab_freeCtr (x : Fabric) : (Act.run (.fab x) s).freeCtr = s.freeCtr := rfl
@[simp] theorem run_fab_fuses (x : Fabric) : (Act.run (.fab x) s).fuses = s.fuses := rfl
@[simp] theorem run_fab_fab (x : Fabric) : (Act.run (.fab x) s).fab = x := rfl
@[simp] theorem run_fab_cp (x : Fabric) : (Act.run (.fab x) s).cp = s.cp := rfl
@[simp] theorem run_fab_upd (x : Fabric) : (Act.run (.fab x) s).upd = s.upd := rfl
@[simp] theorem run_fab_ms (x : Fabric) : (Act.run (.fab x) s).ms = s.ms := rfl
@[simp] theorem run_fab_net (x : Fabric) : (Act.run (.fab x) s).net = s.net := rfl
@[simp] theorem run_fab_col (x : Fabric) : (Act.run (.fab x) s).col = s.col := rfl
@[simp] theorem run_fab_sync (x : Fabric) : (Act.run (.fab x) s).sync = s.sync := rfl
@[simp] theorem run_fab_dig (x : Fabric) : (Act.run (.fab x) s).dig = s.dig := rfl
@[simp] theorem run_fab_rst (x : Fabric) : (Act.run (.fab x) s).rst = s.rst := rfl
@[simp] theorem run_fab_img (x : Fabric) : (Act.run (.fab x) s).img = s.img := rfl
@[simp] theorem run_fab_host (x : Fabric) : (Act.run (.fab x) s).host = s.host := rfl
@[simp] theorem run_fab_eth (x : Fabric) : (Act.run (.fab x) s).eth = s.eth := rfl
@[simp] theorem run_fab_recd (x : Fabric) : (Act.run (.fab x) s).recd = s.recd := rfl
@[simp] theorem run_fab_pow (x : Fabric) : (Act.run (.fab x) s).pow = s.pow := rfl
@[simp] theorem run_fab_sent (x : Fabric) : (Act.run (.fab x) s).sent = s.sent := rfl

@[simp] theorem run_cp_pending (x : Cp) : (Act.run (.cp x) s).pending = s.pending := rfl
@[simp] theorem run_cp_cc (x : Cp) : (Act.run (.cp x) s).cc = s.cc := rfl
@[simp] theorem run_cp_regs (x : Cp) : (Act.run (.cp x) s).regs = s.regs := rfl
@[simp] theorem run_cp_flags (x : Cp) : (Act.run (.cp x) s).flags = s.flags := rfl
@[simp] theorem run_cp_flagOld (x : Cp) : (Act.run (.cp x) s).flagOld = s.flagOld := rfl
@[simp] theorem run_cp_tensors (x : Cp) : (Act.run (.cp x) s).tensors = s.tensors := rfl
@[simp] theorem run_cp_mem (x : Cp) : (Act.run (.cp x) s).mem = s.mem := rfl
@[simp] theorem run_cp_freeCtr (x : Cp) : (Act.run (.cp x) s).freeCtr = s.freeCtr := rfl
@[simp] theorem run_cp_fuses (x : Cp) : (Act.run (.cp x) s).fuses = s.fuses := rfl
@[simp] theorem run_cp_fab (x : Cp) : (Act.run (.cp x) s).fab = s.fab := rfl
@[simp] theorem run_cp_cp (x : Cp) : (Act.run (.cp x) s).cp = x := rfl
@[simp] theorem run_cp_upd (x : Cp) : (Act.run (.cp x) s).upd = s.upd := rfl
@[simp] theorem run_cp_ms (x : Cp) : (Act.run (.cp x) s).ms = s.ms := rfl
@[simp] theorem run_cp_net (x : Cp) : (Act.run (.cp x) s).net = s.net := rfl
@[simp] theorem run_cp_col (x : Cp) : (Act.run (.cp x) s).col = s.col := rfl
@[simp] theorem run_cp_sync (x : Cp) : (Act.run (.cp x) s).sync = s.sync := rfl
@[simp] theorem run_cp_dig (x : Cp) : (Act.run (.cp x) s).dig = s.dig := rfl
@[simp] theorem run_cp_rst (x : Cp) : (Act.run (.cp x) s).rst = s.rst := rfl
@[simp] theorem run_cp_img (x : Cp) : (Act.run (.cp x) s).img = s.img := rfl
@[simp] theorem run_cp_host (x : Cp) : (Act.run (.cp x) s).host = s.host := rfl
@[simp] theorem run_cp_eth (x : Cp) : (Act.run (.cp x) s).eth = s.eth := rfl
@[simp] theorem run_cp_recd (x : Cp) : (Act.run (.cp x) s).recd = s.recd := rfl
@[simp] theorem run_cp_pow (x : Cp) : (Act.run (.cp x) s).pow = s.pow := rfl
@[simp] theorem run_cp_sent (x : Cp) : (Act.run (.cp x) s).sent = s.sent := rfl

@[simp] theorem run_upd_pending (x : Upd) : (Act.run (.upd x) s).pending = s.pending := rfl
@[simp] theorem run_upd_cc (x : Upd) : (Act.run (.upd x) s).cc = s.cc := rfl
@[simp] theorem run_upd_regs (x : Upd) : (Act.run (.upd x) s).regs = s.regs := rfl
@[simp] theorem run_upd_flags (x : Upd) : (Act.run (.upd x) s).flags = s.flags := rfl
@[simp] theorem run_upd_flagOld (x : Upd) : (Act.run (.upd x) s).flagOld = s.flagOld := rfl
@[simp] theorem run_upd_tensors (x : Upd) : (Act.run (.upd x) s).tensors = s.tensors := rfl
@[simp] theorem run_upd_mem (x : Upd) : (Act.run (.upd x) s).mem = s.mem := rfl
@[simp] theorem run_upd_freeCtr (x : Upd) : (Act.run (.upd x) s).freeCtr = s.freeCtr := rfl
@[simp] theorem run_upd_fuses (x : Upd) : (Act.run (.upd x) s).fuses = s.fuses := rfl
@[simp] theorem run_upd_fab (x : Upd) : (Act.run (.upd x) s).fab = s.fab := rfl
@[simp] theorem run_upd_cp (x : Upd) : (Act.run (.upd x) s).cp = s.cp := rfl
@[simp] theorem run_upd_upd (x : Upd) : (Act.run (.upd x) s).upd = x := rfl
@[simp] theorem run_upd_ms (x : Upd) : (Act.run (.upd x) s).ms = s.ms := rfl
@[simp] theorem run_upd_net (x : Upd) : (Act.run (.upd x) s).net = s.net := rfl
@[simp] theorem run_upd_col (x : Upd) : (Act.run (.upd x) s).col = s.col := rfl
@[simp] theorem run_upd_sync (x : Upd) : (Act.run (.upd x) s).sync = s.sync := rfl
@[simp] theorem run_upd_dig (x : Upd) : (Act.run (.upd x) s).dig = s.dig := rfl
@[simp] theorem run_upd_rst (x : Upd) : (Act.run (.upd x) s).rst = s.rst := rfl
@[simp] theorem run_upd_img (x : Upd) : (Act.run (.upd x) s).img = s.img := rfl
@[simp] theorem run_upd_host (x : Upd) : (Act.run (.upd x) s).host = s.host := rfl
@[simp] theorem run_upd_eth (x : Upd) : (Act.run (.upd x) s).eth = s.eth := rfl
@[simp] theorem run_upd_recd (x : Upd) : (Act.run (.upd x) s).recd = s.recd := rfl
@[simp] theorem run_upd_pow (x : Upd) : (Act.run (.upd x) s).pow = s.pow := rfl
@[simp] theorem run_upd_sent (x : Upd) : (Act.run (.upd x) s).sent = s.sent := rfl

@[simp] theorem run_ms_pending (x : MemSys) : (Act.run (.ms x) s).pending = s.pending := rfl
@[simp] theorem run_ms_cc (x : MemSys) : (Act.run (.ms x) s).cc = s.cc := rfl
@[simp] theorem run_ms_regs (x : MemSys) : (Act.run (.ms x) s).regs = s.regs := rfl
@[simp] theorem run_ms_flags (x : MemSys) : (Act.run (.ms x) s).flags = s.flags := rfl
@[simp] theorem run_ms_flagOld (x : MemSys) : (Act.run (.ms x) s).flagOld = s.flagOld := rfl
@[simp] theorem run_ms_tensors (x : MemSys) : (Act.run (.ms x) s).tensors = s.tensors := rfl
@[simp] theorem run_ms_mem (x : MemSys) : (Act.run (.ms x) s).mem = s.mem := rfl
@[simp] theorem run_ms_freeCtr (x : MemSys) : (Act.run (.ms x) s).freeCtr = s.freeCtr := rfl
@[simp] theorem run_ms_fuses (x : MemSys) : (Act.run (.ms x) s).fuses = s.fuses := rfl
@[simp] theorem run_ms_fab (x : MemSys) : (Act.run (.ms x) s).fab = s.fab := rfl
@[simp] theorem run_ms_cp (x : MemSys) : (Act.run (.ms x) s).cp = s.cp := rfl
@[simp] theorem run_ms_upd (x : MemSys) : (Act.run (.ms x) s).upd = s.upd := rfl
@[simp] theorem run_ms_ms (x : MemSys) : (Act.run (.ms x) s).ms = x := rfl
@[simp] theorem run_ms_net (x : MemSys) : (Act.run (.ms x) s).net = s.net := rfl
@[simp] theorem run_ms_col (x : MemSys) : (Act.run (.ms x) s).col = s.col := rfl
@[simp] theorem run_ms_sync (x : MemSys) : (Act.run (.ms x) s).sync = s.sync := rfl
@[simp] theorem run_ms_dig (x : MemSys) : (Act.run (.ms x) s).dig = s.dig := rfl
@[simp] theorem run_ms_rst (x : MemSys) : (Act.run (.ms x) s).rst = s.rst := rfl
@[simp] theorem run_ms_img (x : MemSys) : (Act.run (.ms x) s).img = s.img := rfl
@[simp] theorem run_ms_host (x : MemSys) : (Act.run (.ms x) s).host = s.host := rfl
@[simp] theorem run_ms_eth (x : MemSys) : (Act.run (.ms x) s).eth = s.eth := rfl
@[simp] theorem run_ms_recd (x : MemSys) : (Act.run (.ms x) s).recd = s.recd := rfl
@[simp] theorem run_ms_pow (x : MemSys) : (Act.run (.ms x) s).pow = s.pow := rfl
@[simp] theorem run_ms_sent (x : MemSys) : (Act.run (.ms x) s).sent = s.sent := rfl

@[simp] theorem run_net_pending (x : Net) : (Act.run (.net x) s).pending = s.pending := rfl
@[simp] theorem run_net_cc (x : Net) : (Act.run (.net x) s).cc = s.cc := rfl
@[simp] theorem run_net_regs (x : Net) : (Act.run (.net x) s).regs = s.regs := rfl
@[simp] theorem run_net_flags (x : Net) : (Act.run (.net x) s).flags = s.flags := rfl
@[simp] theorem run_net_flagOld (x : Net) : (Act.run (.net x) s).flagOld = s.flagOld := rfl
@[simp] theorem run_net_tensors (x : Net) : (Act.run (.net x) s).tensors = s.tensors := rfl
@[simp] theorem run_net_mem (x : Net) : (Act.run (.net x) s).mem = s.mem := rfl
@[simp] theorem run_net_freeCtr (x : Net) : (Act.run (.net x) s).freeCtr = s.freeCtr := rfl
@[simp] theorem run_net_fuses (x : Net) : (Act.run (.net x) s).fuses = s.fuses := rfl
@[simp] theorem run_net_fab (x : Net) : (Act.run (.net x) s).fab = s.fab := rfl
@[simp] theorem run_net_cp (x : Net) : (Act.run (.net x) s).cp = s.cp := rfl
@[simp] theorem run_net_upd (x : Net) : (Act.run (.net x) s).upd = s.upd := rfl
@[simp] theorem run_net_ms (x : Net) : (Act.run (.net x) s).ms = s.ms := rfl
@[simp] theorem run_net_net (x : Net) : (Act.run (.net x) s).net = x := rfl
@[simp] theorem run_net_col (x : Net) : (Act.run (.net x) s).col = s.col := rfl
@[simp] theorem run_net_sync (x : Net) : (Act.run (.net x) s).sync = s.sync := rfl
@[simp] theorem run_net_dig (x : Net) : (Act.run (.net x) s).dig = s.dig := rfl
@[simp] theorem run_net_rst (x : Net) : (Act.run (.net x) s).rst = s.rst := rfl
@[simp] theorem run_net_img (x : Net) : (Act.run (.net x) s).img = s.img := rfl
@[simp] theorem run_net_host (x : Net) : (Act.run (.net x) s).host = s.host := rfl
@[simp] theorem run_net_eth (x : Net) : (Act.run (.net x) s).eth = s.eth := rfl
@[simp] theorem run_net_recd (x : Net) : (Act.run (.net x) s).recd = s.recd := rfl
@[simp] theorem run_net_pow (x : Net) : (Act.run (.net x) s).pow = s.pow := rfl
@[simp] theorem run_net_sent (x : Net) : (Act.run (.net x) s).sent = s.sent := rfl

@[simp] theorem run_col_pending (x : Col) : (Act.run (.col x) s).pending = s.pending := rfl
@[simp] theorem run_col_cc (x : Col) : (Act.run (.col x) s).cc = s.cc := rfl
@[simp] theorem run_col_regs (x : Col) : (Act.run (.col x) s).regs = s.regs := rfl
@[simp] theorem run_col_flags (x : Col) : (Act.run (.col x) s).flags = s.flags := rfl
@[simp] theorem run_col_flagOld (x : Col) : (Act.run (.col x) s).flagOld = s.flagOld := rfl
@[simp] theorem run_col_tensors (x : Col) : (Act.run (.col x) s).tensors = s.tensors := rfl
@[simp] theorem run_col_mem (x : Col) : (Act.run (.col x) s).mem = s.mem := rfl
@[simp] theorem run_col_freeCtr (x : Col) : (Act.run (.col x) s).freeCtr = s.freeCtr := rfl
@[simp] theorem run_col_fuses (x : Col) : (Act.run (.col x) s).fuses = s.fuses := rfl
@[simp] theorem run_col_fab (x : Col) : (Act.run (.col x) s).fab = s.fab := rfl
@[simp] theorem run_col_cp (x : Col) : (Act.run (.col x) s).cp = s.cp := rfl
@[simp] theorem run_col_upd (x : Col) : (Act.run (.col x) s).upd = s.upd := rfl
@[simp] theorem run_col_ms (x : Col) : (Act.run (.col x) s).ms = s.ms := rfl
@[simp] theorem run_col_net (x : Col) : (Act.run (.col x) s).net = s.net := rfl
@[simp] theorem run_col_col (x : Col) : (Act.run (.col x) s).col = x := rfl
@[simp] theorem run_col_sync (x : Col) : (Act.run (.col x) s).sync = s.sync := rfl
@[simp] theorem run_col_dig (x : Col) : (Act.run (.col x) s).dig = s.dig := rfl
@[simp] theorem run_col_rst (x : Col) : (Act.run (.col x) s).rst = s.rst := rfl
@[simp] theorem run_col_img (x : Col) : (Act.run (.col x) s).img = s.img := rfl
@[simp] theorem run_col_host (x : Col) : (Act.run (.col x) s).host = s.host := rfl
@[simp] theorem run_col_eth (x : Col) : (Act.run (.col x) s).eth = s.eth := rfl
@[simp] theorem run_col_recd (x : Col) : (Act.run (.col x) s).recd = s.recd := rfl
@[simp] theorem run_col_pow (x : Col) : (Act.run (.col x) s).pow = s.pow := rfl
@[simp] theorem run_col_sent (x : Col) : (Act.run (.col x) s).sent = s.sent := rfl

@[simp] theorem run_sync_pending (x : Sync) : (Act.run (.sync x) s).pending = s.pending := rfl
@[simp] theorem run_sync_cc (x : Sync) : (Act.run (.sync x) s).cc = s.cc := rfl
@[simp] theorem run_sync_regs (x : Sync) : (Act.run (.sync x) s).regs = s.regs := rfl
@[simp] theorem run_sync_flags (x : Sync) : (Act.run (.sync x) s).flags = s.flags := rfl
@[simp] theorem run_sync_flagOld (x : Sync) : (Act.run (.sync x) s).flagOld = s.flagOld := rfl
@[simp] theorem run_sync_tensors (x : Sync) : (Act.run (.sync x) s).tensors = s.tensors := rfl
@[simp] theorem run_sync_mem (x : Sync) : (Act.run (.sync x) s).mem = s.mem := rfl
@[simp] theorem run_sync_freeCtr (x : Sync) : (Act.run (.sync x) s).freeCtr = s.freeCtr := rfl
@[simp] theorem run_sync_fuses (x : Sync) : (Act.run (.sync x) s).fuses = s.fuses := rfl
@[simp] theorem run_sync_fab (x : Sync) : (Act.run (.sync x) s).fab = s.fab := rfl
@[simp] theorem run_sync_cp (x : Sync) : (Act.run (.sync x) s).cp = s.cp := rfl
@[simp] theorem run_sync_upd (x : Sync) : (Act.run (.sync x) s).upd = s.upd := rfl
@[simp] theorem run_sync_ms (x : Sync) : (Act.run (.sync x) s).ms = s.ms := rfl
@[simp] theorem run_sync_net (x : Sync) : (Act.run (.sync x) s).net = s.net := rfl
@[simp] theorem run_sync_col (x : Sync) : (Act.run (.sync x) s).col = s.col := rfl
@[simp] theorem run_sync_sync (x : Sync) : (Act.run (.sync x) s).sync = x := rfl
@[simp] theorem run_sync_dig (x : Sync) : (Act.run (.sync x) s).dig = s.dig := rfl
@[simp] theorem run_sync_rst (x : Sync) : (Act.run (.sync x) s).rst = s.rst := rfl
@[simp] theorem run_sync_img (x : Sync) : (Act.run (.sync x) s).img = s.img := rfl
@[simp] theorem run_sync_host (x : Sync) : (Act.run (.sync x) s).host = s.host := rfl
@[simp] theorem run_sync_eth (x : Sync) : (Act.run (.sync x) s).eth = s.eth := rfl
@[simp] theorem run_sync_recd (x : Sync) : (Act.run (.sync x) s).recd = s.recd := rfl
@[simp] theorem run_sync_pow (x : Sync) : (Act.run (.sync x) s).pow = s.pow := rfl
@[simp] theorem run_sync_sent (x : Sync) : (Act.run (.sync x) s).sent = s.sent := rfl

@[simp] theorem run_dig_pending (x : Dig) : (Act.run (.dig x) s).pending = s.pending := rfl
@[simp] theorem run_dig_cc (x : Dig) : (Act.run (.dig x) s).cc = s.cc := rfl
@[simp] theorem run_dig_regs (x : Dig) : (Act.run (.dig x) s).regs = s.regs := rfl
@[simp] theorem run_dig_flags (x : Dig) : (Act.run (.dig x) s).flags = s.flags := rfl
@[simp] theorem run_dig_flagOld (x : Dig) : (Act.run (.dig x) s).flagOld = s.flagOld := rfl
@[simp] theorem run_dig_tensors (x : Dig) : (Act.run (.dig x) s).tensors = s.tensors := rfl
@[simp] theorem run_dig_mem (x : Dig) : (Act.run (.dig x) s).mem = s.mem := rfl
@[simp] theorem run_dig_freeCtr (x : Dig) : (Act.run (.dig x) s).freeCtr = s.freeCtr := rfl
@[simp] theorem run_dig_fuses (x : Dig) : (Act.run (.dig x) s).fuses = s.fuses := rfl
@[simp] theorem run_dig_fab (x : Dig) : (Act.run (.dig x) s).fab = s.fab := rfl
@[simp] theorem run_dig_cp (x : Dig) : (Act.run (.dig x) s).cp = s.cp := rfl
@[simp] theorem run_dig_upd (x : Dig) : (Act.run (.dig x) s).upd = s.upd := rfl
@[simp] theorem run_dig_ms (x : Dig) : (Act.run (.dig x) s).ms = s.ms := rfl
@[simp] theorem run_dig_net (x : Dig) : (Act.run (.dig x) s).net = s.net := rfl
@[simp] theorem run_dig_col (x : Dig) : (Act.run (.dig x) s).col = s.col := rfl
@[simp] theorem run_dig_sync (x : Dig) : (Act.run (.dig x) s).sync = s.sync := rfl
@[simp] theorem run_dig_dig (x : Dig) : (Act.run (.dig x) s).dig = x := rfl
@[simp] theorem run_dig_rst (x : Dig) : (Act.run (.dig x) s).rst = s.rst := rfl
@[simp] theorem run_dig_img (x : Dig) : (Act.run (.dig x) s).img = s.img := rfl
@[simp] theorem run_dig_host (x : Dig) : (Act.run (.dig x) s).host = s.host := rfl
@[simp] theorem run_dig_eth (x : Dig) : (Act.run (.dig x) s).eth = s.eth := rfl
@[simp] theorem run_dig_recd (x : Dig) : (Act.run (.dig x) s).recd = s.recd := rfl
@[simp] theorem run_dig_pow (x : Dig) : (Act.run (.dig x) s).pow = s.pow := rfl
@[simp] theorem run_dig_sent (x : Dig) : (Act.run (.dig x) s).sent = s.sent := rfl

@[simp] theorem run_rst_pending (x : Rst) : (Act.run (.rst x) s).pending = s.pending := rfl
@[simp] theorem run_rst_cc (x : Rst) : (Act.run (.rst x) s).cc = s.cc := rfl
@[simp] theorem run_rst_regs (x : Rst) : (Act.run (.rst x) s).regs = s.regs := rfl
@[simp] theorem run_rst_flags (x : Rst) : (Act.run (.rst x) s).flags = s.flags := rfl
@[simp] theorem run_rst_flagOld (x : Rst) : (Act.run (.rst x) s).flagOld = s.flagOld := rfl
@[simp] theorem run_rst_tensors (x : Rst) : (Act.run (.rst x) s).tensors = s.tensors := rfl
@[simp] theorem run_rst_mem (x : Rst) : (Act.run (.rst x) s).mem = s.mem := rfl
@[simp] theorem run_rst_freeCtr (x : Rst) : (Act.run (.rst x) s).freeCtr = s.freeCtr := rfl
@[simp] theorem run_rst_fuses (x : Rst) : (Act.run (.rst x) s).fuses = s.fuses := rfl
@[simp] theorem run_rst_fab (x : Rst) : (Act.run (.rst x) s).fab = s.fab := rfl
@[simp] theorem run_rst_cp (x : Rst) : (Act.run (.rst x) s).cp = s.cp := rfl
@[simp] theorem run_rst_upd (x : Rst) : (Act.run (.rst x) s).upd = s.upd := rfl
@[simp] theorem run_rst_ms (x : Rst) : (Act.run (.rst x) s).ms = s.ms := rfl
@[simp] theorem run_rst_net (x : Rst) : (Act.run (.rst x) s).net = s.net := rfl
@[simp] theorem run_rst_col (x : Rst) : (Act.run (.rst x) s).col = s.col := rfl
@[simp] theorem run_rst_sync (x : Rst) : (Act.run (.rst x) s).sync = s.sync := rfl
@[simp] theorem run_rst_dig (x : Rst) : (Act.run (.rst x) s).dig = s.dig := rfl
@[simp] theorem run_rst_rst (x : Rst) : (Act.run (.rst x) s).rst = x := rfl
@[simp] theorem run_rst_img (x : Rst) : (Act.run (.rst x) s).img = s.img := rfl
@[simp] theorem run_rst_host (x : Rst) : (Act.run (.rst x) s).host = s.host := rfl
@[simp] theorem run_rst_eth (x : Rst) : (Act.run (.rst x) s).eth = s.eth := rfl
@[simp] theorem run_rst_recd (x : Rst) : (Act.run (.rst x) s).recd = s.recd := rfl
@[simp] theorem run_rst_pow (x : Rst) : (Act.run (.rst x) s).pow = s.pow := rfl
@[simp] theorem run_rst_sent (x : Rst) : (Act.run (.rst x) s).sent = s.sent := rfl

@[simp] theorem run_img_pending (x : Img) : (Act.run (.img x) s).pending = s.pending := rfl
@[simp] theorem run_img_cc (x : Img) : (Act.run (.img x) s).cc = s.cc := rfl
@[simp] theorem run_img_regs (x : Img) : (Act.run (.img x) s).regs = s.regs := rfl
@[simp] theorem run_img_flags (x : Img) : (Act.run (.img x) s).flags = s.flags := rfl
@[simp] theorem run_img_flagOld (x : Img) : (Act.run (.img x) s).flagOld = s.flagOld := rfl
@[simp] theorem run_img_tensors (x : Img) : (Act.run (.img x) s).tensors = s.tensors := rfl
@[simp] theorem run_img_mem (x : Img) : (Act.run (.img x) s).mem = s.mem := rfl
@[simp] theorem run_img_freeCtr (x : Img) : (Act.run (.img x) s).freeCtr = s.freeCtr := rfl
@[simp] theorem run_img_fuses (x : Img) : (Act.run (.img x) s).fuses = s.fuses := rfl
@[simp] theorem run_img_fab (x : Img) : (Act.run (.img x) s).fab = s.fab := rfl
@[simp] theorem run_img_cp (x : Img) : (Act.run (.img x) s).cp = s.cp := rfl
@[simp] theorem run_img_upd (x : Img) : (Act.run (.img x) s).upd = s.upd := rfl
@[simp] theorem run_img_ms (x : Img) : (Act.run (.img x) s).ms = s.ms := rfl
@[simp] theorem run_img_net (x : Img) : (Act.run (.img x) s).net = s.net := rfl
@[simp] theorem run_img_col (x : Img) : (Act.run (.img x) s).col = s.col := rfl
@[simp] theorem run_img_sync (x : Img) : (Act.run (.img x) s).sync = s.sync := rfl
@[simp] theorem run_img_dig (x : Img) : (Act.run (.img x) s).dig = s.dig := rfl
@[simp] theorem run_img_rst (x : Img) : (Act.run (.img x) s).rst = s.rst := rfl
@[simp] theorem run_img_img (x : Img) : (Act.run (.img x) s).img = x := rfl
@[simp] theorem run_img_host (x : Img) : (Act.run (.img x) s).host = s.host := rfl
@[simp] theorem run_img_eth (x : Img) : (Act.run (.img x) s).eth = s.eth := rfl
@[simp] theorem run_img_recd (x : Img) : (Act.run (.img x) s).recd = s.recd := rfl
@[simp] theorem run_img_pow (x : Img) : (Act.run (.img x) s).pow = s.pow := rfl
@[simp] theorem run_img_sent (x : Img) : (Act.run (.img x) s).sent = s.sent := rfl

@[simp] theorem run_host_pending (x : HostIf) : (Act.run (.host x) s).pending = s.pending := rfl
@[simp] theorem run_host_cc (x : HostIf) : (Act.run (.host x) s).cc = s.cc := rfl
@[simp] theorem run_host_regs (x : HostIf) : (Act.run (.host x) s).regs = s.regs := rfl
@[simp] theorem run_host_flags (x : HostIf) : (Act.run (.host x) s).flags = s.flags := rfl
@[simp] theorem run_host_flagOld (x : HostIf) : (Act.run (.host x) s).flagOld = s.flagOld := rfl
@[simp] theorem run_host_tensors (x : HostIf) : (Act.run (.host x) s).tensors = s.tensors := rfl
@[simp] theorem run_host_mem (x : HostIf) : (Act.run (.host x) s).mem = s.mem := rfl
@[simp] theorem run_host_freeCtr (x : HostIf) : (Act.run (.host x) s).freeCtr = s.freeCtr := rfl
@[simp] theorem run_host_fuses (x : HostIf) : (Act.run (.host x) s).fuses = s.fuses := rfl
@[simp] theorem run_host_fab (x : HostIf) : (Act.run (.host x) s).fab = s.fab := rfl
@[simp] theorem run_host_cp (x : HostIf) : (Act.run (.host x) s).cp = s.cp := rfl
@[simp] theorem run_host_upd (x : HostIf) : (Act.run (.host x) s).upd = s.upd := rfl
@[simp] theorem run_host_ms (x : HostIf) : (Act.run (.host x) s).ms = s.ms := rfl
@[simp] theorem run_host_net (x : HostIf) : (Act.run (.host x) s).net = s.net := rfl
@[simp] theorem run_host_col (x : HostIf) : (Act.run (.host x) s).col = s.col := rfl
@[simp] theorem run_host_sync (x : HostIf) : (Act.run (.host x) s).sync = s.sync := rfl
@[simp] theorem run_host_dig (x : HostIf) : (Act.run (.host x) s).dig = s.dig := rfl
@[simp] theorem run_host_rst (x : HostIf) : (Act.run (.host x) s).rst = s.rst := rfl
@[simp] theorem run_host_img (x : HostIf) : (Act.run (.host x) s).img = s.img := rfl
@[simp] theorem run_host_host (x : HostIf) : (Act.run (.host x) s).host = x := rfl
@[simp] theorem run_host_eth (x : HostIf) : (Act.run (.host x) s).eth = s.eth := rfl
@[simp] theorem run_host_recd (x : HostIf) : (Act.run (.host x) s).recd = s.recd := rfl
@[simp] theorem run_host_pow (x : HostIf) : (Act.run (.host x) s).pow = s.pow := rfl
@[simp] theorem run_host_sent (x : HostIf) : (Act.run (.host x) s).sent = s.sent := rfl

@[simp] theorem run_eth_pending (x : Eth) : (Act.run (.eth x) s).pending = s.pending := rfl
@[simp] theorem run_eth_cc (x : Eth) : (Act.run (.eth x) s).cc = s.cc := rfl
@[simp] theorem run_eth_regs (x : Eth) : (Act.run (.eth x) s).regs = s.regs := rfl
@[simp] theorem run_eth_flags (x : Eth) : (Act.run (.eth x) s).flags = s.flags := rfl
@[simp] theorem run_eth_flagOld (x : Eth) : (Act.run (.eth x) s).flagOld = s.flagOld := rfl
@[simp] theorem run_eth_tensors (x : Eth) : (Act.run (.eth x) s).tensors = s.tensors := rfl
@[simp] theorem run_eth_mem (x : Eth) : (Act.run (.eth x) s).mem = s.mem := rfl
@[simp] theorem run_eth_freeCtr (x : Eth) : (Act.run (.eth x) s).freeCtr = s.freeCtr := rfl
@[simp] theorem run_eth_fuses (x : Eth) : (Act.run (.eth x) s).fuses = s.fuses := rfl
@[simp] theorem run_eth_fab (x : Eth) : (Act.run (.eth x) s).fab = s.fab := rfl
@[simp] theorem run_eth_cp (x : Eth) : (Act.run (.eth x) s).cp = s.cp := rfl
@[simp] theorem run_eth_upd (x : Eth) : (Act.run (.eth x) s).upd = s.upd := rfl
@[simp] theorem run_eth_ms (x : Eth) : (Act.run (.eth x) s).ms = s.ms := rfl
@[simp] theorem run_eth_net (x : Eth) : (Act.run (.eth x) s).net = s.net := rfl
@[simp] theorem run_eth_col (x : Eth) : (Act.run (.eth x) s).col = s.col := rfl
@[simp] theorem run_eth_sync (x : Eth) : (Act.run (.eth x) s).sync = s.sync := rfl
@[simp] theorem run_eth_dig (x : Eth) : (Act.run (.eth x) s).dig = s.dig := rfl
@[simp] theorem run_eth_rst (x : Eth) : (Act.run (.eth x) s).rst = s.rst := rfl
@[simp] theorem run_eth_img (x : Eth) : (Act.run (.eth x) s).img = s.img := rfl
@[simp] theorem run_eth_host (x : Eth) : (Act.run (.eth x) s).host = s.host := rfl
@[simp] theorem run_eth_eth (x : Eth) : (Act.run (.eth x) s).eth = x := rfl
@[simp] theorem run_eth_recd (x : Eth) : (Act.run (.eth x) s).recd = s.recd := rfl
@[simp] theorem run_eth_pow (x : Eth) : (Act.run (.eth x) s).pow = s.pow := rfl
@[simp] theorem run_eth_sent (x : Eth) : (Act.run (.eth x) s).sent = s.sent := rfl

@[simp] theorem run_recd_pending (x : Recorder) : (Act.run (.recd x) s).pending = s.pending := rfl
@[simp] theorem run_recd_cc (x : Recorder) : (Act.run (.recd x) s).cc = s.cc := rfl
@[simp] theorem run_recd_regs (x : Recorder) : (Act.run (.recd x) s).regs = s.regs := rfl
@[simp] theorem run_recd_flags (x : Recorder) : (Act.run (.recd x) s).flags = s.flags := rfl
@[simp] theorem run_recd_flagOld (x : Recorder) : (Act.run (.recd x) s).flagOld = s.flagOld := rfl
@[simp] theorem run_recd_tensors (x : Recorder) : (Act.run (.recd x) s).tensors = s.tensors := rfl
@[simp] theorem run_recd_mem (x : Recorder) : (Act.run (.recd x) s).mem = s.mem := rfl
@[simp] theorem run_recd_freeCtr (x : Recorder) : (Act.run (.recd x) s).freeCtr = s.freeCtr := rfl
@[simp] theorem run_recd_fuses (x : Recorder) : (Act.run (.recd x) s).fuses = s.fuses := rfl
@[simp] theorem run_recd_fab (x : Recorder) : (Act.run (.recd x) s).fab = s.fab := rfl
@[simp] theorem run_recd_cp (x : Recorder) : (Act.run (.recd x) s).cp = s.cp := rfl
@[simp] theorem run_recd_upd (x : Recorder) : (Act.run (.recd x) s).upd = s.upd := rfl
@[simp] theorem run_recd_ms (x : Recorder) : (Act.run (.recd x) s).ms = s.ms := rfl
@[simp] theorem run_recd_net (x : Recorder) : (Act.run (.recd x) s).net = s.net := rfl
@[simp] theorem run_recd_col (x : Recorder) : (Act.run (.recd x) s).col = s.col := rfl
@[simp] theorem run_recd_sync (x : Recorder) : (Act.run (.recd x) s).sync = s.sync := rfl
@[simp] theorem run_recd_dig (x : Recorder) : (Act.run (.recd x) s).dig = s.dig := rfl
@[simp] theorem run_recd_rst (x : Recorder) : (Act.run (.recd x) s).rst = s.rst := rfl
@[simp] theorem run_recd_img (x : Recorder) : (Act.run (.recd x) s).img = s.img := rfl
@[simp] theorem run_recd_host (x : Recorder) : (Act.run (.recd x) s).host = s.host := rfl
@[simp] theorem run_recd_eth (x : Recorder) : (Act.run (.recd x) s).eth = s.eth := rfl
@[simp] theorem run_recd_recd (x : Recorder) : (Act.run (.recd x) s).recd = x := rfl
@[simp] theorem run_recd_pow (x : Recorder) : (Act.run (.recd x) s).pow = s.pow := rfl
@[simp] theorem run_recd_sent (x : Recorder) : (Act.run (.recd x) s).sent = s.sent := rfl

@[simp] theorem run_pow_pending (x : Pow) : (Act.run (.pow x) s).pending = s.pending := rfl
@[simp] theorem run_pow_cc (x : Pow) : (Act.run (.pow x) s).cc = s.cc := rfl
@[simp] theorem run_pow_regs (x : Pow) : (Act.run (.pow x) s).regs = s.regs := rfl
@[simp] theorem run_pow_flags (x : Pow) : (Act.run (.pow x) s).flags = s.flags := rfl
@[simp] theorem run_pow_flagOld (x : Pow) : (Act.run (.pow x) s).flagOld = s.flagOld := rfl
@[simp] theorem run_pow_tensors (x : Pow) : (Act.run (.pow x) s).tensors = s.tensors := rfl
@[simp] theorem run_pow_mem (x : Pow) : (Act.run (.pow x) s).mem = s.mem := rfl
@[simp] theorem run_pow_freeCtr (x : Pow) : (Act.run (.pow x) s).freeCtr = s.freeCtr := rfl
@[simp] theorem run_pow_fuses (x : Pow) : (Act.run (.pow x) s).fuses = s.fuses := rfl
@[simp] theorem run_pow_fab (x : Pow) : (Act.run (.pow x) s).fab = s.fab := rfl
@[simp] theorem run_pow_cp (x : Pow) : (Act.run (.pow x) s).cp = s.cp := rfl
@[simp] theorem run_pow_upd (x : Pow) : (Act.run (.pow x) s).upd = s.upd := rfl
@[simp] theorem run_pow_ms (x : Pow) : (Act.run (.pow x) s).ms = s.ms := rfl
@[simp] theorem run_pow_net (x : Pow) : (Act.run (.pow x) s).net = s.net := rfl
@[simp] theorem run_pow_col (x : Pow) : (Act.run (.pow x) s).col = s.col := rfl
@[simp] theorem run_pow_sync (x : Pow) : (Act.run (.pow x) s).sync = s.sync := rfl
@[simp] theorem run_pow_dig (x : Pow) : (Act.run (.pow x) s).dig = s.dig := rfl
@[simp] theorem run_pow_rst (x : Pow) : (Act.run (.pow x) s).rst = s.rst := rfl
@[simp] theorem run_pow_img (x : Pow) : (Act.run (.pow x) s).img = s.img := rfl
@[simp] theorem run_pow_host (x : Pow) : (Act.run (.pow x) s).host = s.host := rfl
@[simp] theorem run_pow_eth (x : Pow) : (Act.run (.pow x) s).eth = s.eth := rfl
@[simp] theorem run_pow_recd (x : Pow) : (Act.run (.pow x) s).recd = s.recd := rfl
@[simp] theorem run_pow_pow (x : Pow) : (Act.run (.pow x) s).pow = x := rfl
@[simp] theorem run_pow_sent (x : Pow) : (Act.run (.pow x) s).sent = s.sent := rfl

end

/-! ## Effects -/

@[simp] theorem Eff.run_skip (s : State) : Eff.skip.run s = s := rfl
@[simp] theorem Eff.run_act (a : Act) (s : State) : (Eff.act a).run s = a.run s := rfl
@[simp] theorem Eff.run_seq (p q : Eff) (s : State) : (Eff.seq p q).run s = q.run (p.run s) := rfl
@[simp] theorem Eff.run_get (f : State → Eff) (s : State) : (Eff.get f).run s = (f s).run s := rfl
@[simp] theorem Eff.all_nil : Eff.all [] = .skip := rfl
@[simp] theorem Eff.all_cons (e : Eff) (l : List Eff) : Eff.all (e :: l) = .seq e (Eff.all l) := rfl
@[simp] theorem Eff.each_nil {α : Type} (f : α → Eff) : Eff.each [] f = .skip := rfl
@[simp] theorem Eff.each_cons {α : Type} (a : α) (l : List α) (f : α → Eff) :
    Eff.each (a :: l) f = .seq (f a) (Eff.each l f) := rfl
@[simp] theorem Eff.when_true (e : Eff) : Eff.when true e = e := rfl
@[simp] theorem Eff.when_false (e : Eff) : Eff.when false e = .skip := rfl
@[simp] theorem Eff.opt_none {α : Type} (f : α → Eff) : Eff.opt none f = .skip := rfl
@[simp] theorem Eff.opt_some {α : Type} (a : α) (f : α → Eff) : Eff.opt (some a) f = f a := rfl

/-- A meaning answers the state its effect leaves. -/
@[simp] theorem done_next (e : Eff) (s : State) : done e s = .next (e.run s) := rfl

@[simp] theorem run_modFab (f : Fabric → Fabric) (s : State) : (modFab f).run s = Act.run (.fab (f s.fab)) s := rfl
@[simp] theorem run_modCp (f : Cp → Cp) (s : State) : (modCp f).run s = Act.run (.cp (f s.cp)) s := rfl
@[simp] theorem run_modUpd (f : Upd → Upd) (s : State) : (modUpd f).run s = Act.run (.upd (f s.upd)) s := rfl
@[simp] theorem run_modMs (f : MemSys → MemSys) (s : State) : (modMs f).run s = Act.run (.ms (f s.ms)) s := rfl
@[simp] theorem run_modNet (f : Net → Net) (s : State) : (modNet f).run s = Act.run (.net (f s.net)) s := rfl
@[simp] theorem run_modCol (f : Col → Col) (s : State) : (modCol f).run s = Act.run (.col (f s.col)) s := rfl
@[simp] theorem run_modSync (f : Sync → Sync) (s : State) : (modSync f).run s = Act.run (.sync (f s.sync)) s := rfl
@[simp] theorem run_modDig (f : Dig → Dig) (s : State) : (modDig f).run s = Act.run (.dig (f s.dig)) s := rfl
@[simp] theorem run_modRst (f : Rst → Rst) (s : State) : (modRst f).run s = Act.run (.rst (f s.rst)) s := rfl
@[simp] theorem run_modImg (f : Img → Img) (s : State) : (modImg f).run s = Act.run (.img (f s.img)) s := rfl
@[simp] theorem run_modHost (f : HostIf → HostIf) (s : State) : (modHost f).run s = Act.run (.host (f s.host)) s := rfl
@[simp] theorem run_modEth (f : Eth → Eth) (s : State) : (modEth f).run s = Act.run (.eth (f s.eth)) s := rfl
@[simp] theorem run_modRecd (f : Recorder → Recorder) (s : State) : (modRecd f).run s = Act.run (.recd (f s.recd)) s := rfl
@[simp] theorem run_modPow (f : Pow → Pow) (s : State) : (modPow f).run s = Act.run (.pow (f s.pow)) s := rfl
@[simp] theorem run_setR (r : RegName) (die idx v : Nat) (s : State) :
    (setR r die idx v).run s = Act.run (.reg r die idx v) s := rfl
@[simp] theorem run_modR (r : RegName) (die idx : Nat) (f : Nat → Nat) (s : State) :
    (modR r die idx f).run s = Act.run (.reg r die idx (f (rget s r die idx))) s := rfl
@[simp] theorem run_putR (r : RegName) (die idx hi lo v : Nat) (s : State) :
    (putR r die idx hi lo v).run s = Act.run (.reg r die idx (putBits (rget s r die idx) hi lo v)) s := rfl
@[simp] theorem run_demand (runs : List (Nat × Nat)) (s : State) : (demand runs).run s = Act.run (.rd runs) s := rfl
@[simp] theorem run_drawFree (w : Nat) (f : Nat → Eff) (s : State) :
    (drawFree w f).run s = (f (Config.freeValue s.freeCtr % 2 ^ w)).run (Act.run .free s) := rfl

/-! ## Registers -/

theorem RegName.ctorIdx_inj {a b : RegName} (h : a.ctorIdx = b.ctorIdx) : a = b := by
  rw [← RegName.ofNat_ctorIdx a, ← RegName.ofNat_ctorIdx b, h]

/-- The key of a register tells its name, die and index. -/
theorem regKey_inj (r r' : RegName) (d d' i i' : Nat) :
    regKey r d i = regKey r' d' i' ↔ r = r' ∧ d % 16 = d' % 16 ∧ i % 2 ^ 22 = i' % 2 ^ 22 := by
  constructor
  · intro h
    unfold regKey at h
    refine ⟨RegName.ctorIdx_inj ?_, ?_, ?_⟩ <;> omega
  · rintro ⟨rfl, h1, h2⟩
    unfold regKey; rw [h1, h2]

/-- Two states with the same registers and grade read the same. -/
theorem rget_congr {s t : State} (h : t.regs = s.regs) (hg : t.fuses.gradeS = s.fuses.gradeS) (r : RegName) (die idx : Nat) :
    rget t r die idx = rget s r die idx := by simp [rget, h, hg]

/-- A register after a write: its new value, cut to its width, at the place written; unchanged elsewhere. -/
theorem rget_run_reg (s : State) (r r' : RegName) (d d' i i' v : Nat) :
    rget (Act.run (.reg r d i v) s) r' d' i' =
      if r' = r ∧ d' % 16 = d % 16 ∧ i' % 2 ^ 22 = i % 2 ^ 22 then v % 2 ^ r.info.width else rget s r' d' i' := by
  simp only [rget, run_reg_regs]
  by_cases h : r' = r ∧ d' % 16 = d % 16 ∧ i' % 2 ^ 22 = i % 2 ^ 22
  · have hk := (regKey_inj r' r d' d i' i).2 h
    rw [if_pos h, hk]
    obtain ⟨rfl, -, -⟩ := h
    exact mget_mset_self _ _ _ _
  · rw [if_neg h]
    by_cases hr : r' = r
    · subst hr
      exact mget_mset_ne _ _ (fun hk => h ((regKey_inj _ _ _ _ _ _).1 hk)) _
    · have hk : regKey r' d' i' ≠ regKey r d i := fun hk => hr ((regKey_inj _ _ _ _ _ _).1 hk).1
      exact mget_mset_other _ _ _ hk _

end Sys2Proof.Machine
end

