-- ==== Sys2Proof/Laws/Frame.lean ====
section
/-!
SUPPORT. What effects leave unchanged: `Eff.Keeps` says that an effect changes only the parts and registers named,
from every state. One rule for each way of building an effect, one lemma for each shared operation.
-/
namespace Sys2Proof.Machine

/-! ## The relation -/

theorem OnlyChanges.refl (ps : List Part) (rs : List RegAt) (s : State) : OnlyChanges ps rs s s :=
  ⟨⟨rfl, fun p => .inr (by cases p <;> rfl)⟩, fun _ _ _ _ _ => .inr (.inr rfl)⟩

theorem OnlyChanges.trans {ps : List Part} {rs : List RegAt} {s t u : State} (h : OnlyChanges ps rs s t)
    (k : OnlyChanges ps rs t u) : OnlyChanges ps rs s u := by
  refine ⟨⟨k.1.1.trans h.1.1, fun p => ?_⟩, fun r d i hd hi => ?_⟩
  · rcases h.1.2 p with a | a
    · exact .inl a
    · rcases k.1.2 p with b | b
      · exact .inl b
      · refine .inr ?_
        cases p <;> simp only [Part.same] at a b ⊢ <;> rw [b, a]
  · rcases h.2 r d i hd hi with a | a | a
    · exact .inl a
    · exact .inr (.inl a)
    · rcases k.2 r d i hd hi with b | b | b
      · exact .inl b
      · exact .inr (.inl b)
      · exact .inr (.inr (b.trans a))

/-- A part not named stays. -/
theorem OnlyChanges.part {ps : List Part} {rs : List RegAt} {s t : State} (h : OnlyChanges ps rs s t) (p : Part)
    (hp : p ∉ ps) : p.same s t := (h.1.2 p).resolve_left hp

/-- A register not named stays. -/
theorem OnlyChanges.reg {ps : List Part} {rs : List RegAt} {s t : State} (h : OnlyChanges ps rs s t) {r : RegName}
    {die idx : Nat} (hd : die < 16) (hi : idx < 2 ^ 22) (h1 : (r, die, none) ∉ rs) (h2 : (r, die, some idx) ∉ rs) :
    rget t r die idx = rget s r die idx := ((h.2 r die idx hd hi).resolve_left h1).resolve_left h2

/-- An effect changes only the parts and registers named, from every state. -/
def Eff.Keeps (ps : List Part) (rs : List RegAt) (e : Eff) : Prop := ∀ s, OnlyChanges ps rs s (e.run s)

theorem OnlyChanges.mono {ps qs : List Part} {rs us : List RegAt} {s t : State} (h : OnlyChanges ps rs s t)
    (hp : ps ⊆ qs) (hr : rs ⊆ us) : OnlyChanges qs us s t := by
  refine ⟨⟨h.1.1, fun p => ?_⟩, fun r d i hd hi => ?_⟩
  · exact (h.1.2 p).imp (fun x => hp x) id
  · rcases h.2 r d i hd hi with a | a | a
    · exact .inl (hr a)
    · exact .inr (.inl (hr a))
    · exact .inr (.inr a)

theorem Eff.Keeps.mono {ps qs : List Part} {rs us : List RegAt} {e : Eff} (h : e.Keeps ps rs) (hp : ps ⊆ qs)
    (hr : rs ⊆ us) : e.Keeps qs us := fun s => (h s).mono hp hr

section
variable {ps : List Part} {rs : List RegAt}

/-! ## Building effects -/

theorem keeps_skip : Eff.skip.Keeps ps rs := fun s => .refl ps rs s

theorem keeps_seq {p q : Eff} (hp : p.Keeps ps rs) (hq : q.Keeps ps rs) : (Eff.seq p q).Keeps ps rs :=
  fun s => (hp s).trans (hq _)

theorem keeps_get {f : State → Eff} (h : ∀ s, (f s).Keeps ps rs) : (Eff.get f).Keeps ps rs := fun s => h s s

theorem keeps_all_nil : (Eff.all []).Keeps ps rs := keeps_skip

theorem keeps_all_cons {e : Eff} {l : List Eff} (he : e.Keeps ps rs) (hl : (Eff.all l).Keeps ps rs) :
    (Eff.all (e :: l)).Keeps ps rs := keeps_seq he hl

theorem keeps_all {l : List Eff} (h : ∀ e ∈ l, e.Keeps ps rs) : (Eff.all l).Keeps ps rs := by
  induction l with
  | nil => exact keeps_skip
  | cons e l ih => exact keeps_seq (h e (by simp)) (ih fun x hx => h x (by simp [hx]))

theorem keeps_each_mem {α : Type} {l : List α} {f : α → Eff} (h : ∀ a ∈ l, (f a).Keeps ps rs) :
    (Eff.each l f).Keeps ps rs := keeps_all (by simpa using h)

theorem keeps_each {α : Type} {l : List α} {f : α → Eff} (h : ∀ a, (f a).Keeps ps rs) : (Eff.each l f).Keeps ps rs :=
  keeps_each_mem fun a _ => h a

theorem keeps_when {b : Bool} {e : Eff} (h : b = true → e.Keeps ps rs) : (Eff.when b e).Keeps ps rs := by
  cases b
  · exact keeps_skip
  · exact h rfl

theorem keeps_opt {α : Type} {o : Option α} {f : α → Eff} (h : ∀ a, o = some a → (f a).Keeps ps rs) :
    (Eff.opt o f).Keeps ps rs := by
  cases o
  · exact keeps_skip
  · exact h _ rfl

theorem keeps_ite {c : Prop} [Decidable c] {p q : Eff} (hp : c → p.Keeps ps rs) (hq : ¬ c → q.Keeps ps rs) :
    (if c then p else q).Keeps ps rs := by
  split
  · exact hp ‹_›
  · exact hq ‹_›

/-! ## Primitive updates -/

theorem keeps_reg {r : RegName} {die idx v : Nat} (hp : Part.regs ∈ ps)
    (hr : (r, die % 16, none) ∈ rs ∨ (r, die % 16, some (idx % 2 ^ 22)) ∈ rs) : (Eff.act (.reg r die idx v)).Keeps ps rs := by
  refine fun s => ⟨⟨rfl, fun p => ?_⟩, fun r' d' i' hd hi => ?_⟩
  · cases p <;> first | exact .inl hp | exact .inr rfl
  · rw [Eff.run_act, rget_run_reg]
    by_cases h : r' = r ∧ d' % 16 = die % 16 ∧ i' % 2 ^ 22 = idx % 2 ^ 22
    · obtain ⟨rfl, h1, h2⟩ := h
      rw [Nat.mod_eq_of_lt hd] at h1
      rw [Nat.mod_eq_of_lt hi] at h2
      rw [h1, h2]
      exact hr.imp id .inl
    · rw [if_neg h]; exact .inr (.inr rfl)

theorem keeps_wr {ws : List Wr} (hp : Part.mem ∈ ps) (hq : Part.poison ∈ ps) (hl : Part.loam ∈ ps) :
    (Eff.act (.wr ws)).Keeps ps rs := by
  refine fun s => ⟨⟨rfl, fun p => ?_⟩, fun r' d' i' _ _ => .inr (.inr rfl)⟩
  cases p <;> first | exact .inl hp | exact .inl hq | exact .inl hl | exact .inr rfl

theorem keeps_rd {runs : List (Nat × Nat)} (hl : Part.loam ∈ ps) : (Eff.act (.rd runs)).Keeps ps rs := by
  refine fun s => ⟨⟨rfl, fun p => ?_⟩, fun r' d' i' _ _ => .inr (.inr rfl)⟩
  cases p <;> first | exact .inl hl | exact .inr rfl

theorem keeps_demand {runs : List (Nat × Nat)} (hl : Part.loam ∈ ps) : (demand runs).Keeps ps rs := keeps_rd hl

theorem keeps_mark {l : Nat} (hp : Part.poison ∈ ps) : (Eff.act (.mark l)).Keeps ps rs := by
  refine fun s => ⟨⟨rfl, fun p => ?_⟩, fun r' d' i' _ _ => .inr (.inr rfl)⟩
  cases p <;> first | exact .inl hp | exact .inr rfl

theorem keeps_flagAdd {k i : Nat} (hp : Part.flags ∈ ps) (hq : Part.flagOld ∈ ps) :
    (Eff.act (.flagAdd k i)).Keeps ps rs := by
  refine fun s => ⟨⟨rfl, fun p => ?_⟩, fun r' d' i' _ _ => .inr (.inr rfl)⟩
  cases p <;> first | exact .inl hp | exact .inl hq | exact .inr rfl

theorem keeps_vtag {d i : Nat} (hp : Part.tensors ∈ ps) : (Eff.act (.vtag d i)).Keeps ps rs := by
  refine fun s => ⟨⟨rfl, fun p => ?_⟩, fun r' d' i' _ _ => .inr (.inr rfl)⟩
  cases p <;> first | exact .inl hp | exact .inr rfl

theorem keeps_poison {d i q : Nat} {b : Bool} (hp : Part.tensors ∈ ps) : (Eff.act (.poison d i b q)).Keeps ps rs := by
  refine fun s => ⟨⟨rfl, fun p => ?_⟩, fun r' d' i' _ _ => .inr (.inr rfl)⟩
  cases p <;> first | exact .inl hp | exact .inr rfl

theorem keeps_otag {d i t : Nat} (hp : Part.tensors ∈ ps) : (Eff.act (.otag d i t)).Keeps ps rs := by
  refine fun s => ⟨⟨rfl, fun p => ?_⟩, fun r' d' i' _ _ => .inr (.inr rfl)⟩
  cases p <;> first | exact .inl hp | exact .inr rfl

theorem keeps_clock {n : Nat} (h1 : Part.cc ∈ ps) (h2 : Part.dt ∈ ps) (h3 : Part.flagOld ∈ ps) :
    (Eff.act (.clock n)).Keeps ps rs := by
  refine fun s => ⟨⟨rfl, fun p => ?_⟩, fun r' d' i' _ _ => .inr (.inr rfl)⟩
  cases p <;> first | exact .inl h1 | exact .inl h2 | exact .inl h3 | exact .inr rfl

theorem keeps_free (hp : Part.freeCtr ∈ ps) : (Eff.act .free).Keeps ps rs := by
  refine fun s => ⟨⟨rfl, fun p => ?_⟩, fun r' d' i' _ _ => .inr (.inr rfl)⟩
  cases p <;> first | exact .inl hp | exact .inr rfl

theorem keeps_out {x : Out} (hp : Part.sent ∈ ps) : (Eff.act (.out x)).Keeps ps rs := by
  refine fun s => ⟨⟨rfl, fun p => ?_⟩, fun r' d' i' _ _ => .inr (.inr rfl)⟩
  cases p <;> first | exact .inl hp | exact .inr rfl

/-- An update of the command processor keeps what its function keeps. -/
theorem keeps_modCp {f : Cp → Cp} (h1 : Part.queues ∈ ps ∨ ∀ c, (f c).queues = c.queues)
    (h2 : Part.slots ∈ ps ∨ ∀ c, (f c).slots = c.slots) (h3 : Part.flights ∈ ps ∨ ∀ c, (f c).flights = c.flights)
    (h4 : Part.signals ∈ ps ∨ ∀ c, (f c).signals = c.signals) (h5 : Part.steps ∈ ps ∨ ∀ c, (f c).steps = c.steps)
    (h6 : Part.umbra ∈ ps ∨ ∀ c, (f c).umbra = c.umbra) (h7 : Part.cpRest ∈ ps ∨ ∀ c, (f c).rest = c.rest) :
    (modCp f).Keeps ps rs := by
  refine fun s => ⟨⟨rfl, fun p => ?_⟩, fun r' d' i' _ _ => .inr (.inr rfl)⟩
  cases p
  case queues => exact h1.imp id fun h => h _
  case slots => exact h2.imp id fun h => h _
  case flights => exact h3.imp id fun h => h _
  case signals => exact h4.imp id fun h => h _
  case steps => exact h5.imp id fun h => h _
  case umbra => exact h6.imp id fun h => h _
  case cpRest => exact h7.imp id fun h => h _
  all_goals exact .inr rfl

theorem keeps_modSync {f : Sync → Sync} (h1 : Part.dt ∈ ps ∨ ∀ c, (f c).dt = c.dt) (h2 : Part.syncRest ∈ ps) :
    (modSync f).Keeps ps rs := by
  refine fun s => ⟨⟨rfl, fun p => ?_⟩, fun r' d' i' _ _ => .inr (.inr rfl)⟩
  cases p
  case dt => exact h1.imp id fun h => h _
  case syncRest => exact .inl h2
  all_goals exact .inr rfl

theorem keeps_modMs {f : MemSys → MemSys} (h1 : Part.poison ∈ ps ∨ ∀ c, ((f c).poison, (f c).odd) = (c.poison, c.odd))
    (h2 : Part.msRest ∈ ps) (h3 : Part.loam ∈ ps ∨ ∀ c, (f c).loam = c.loam) : (modMs f).Keeps ps rs := by
  refine fun s => ⟨⟨rfl, fun p => ?_⟩, fun r' d' i' _ _ => .inr (.inr rfl)⟩
  cases p
  case poison => exact h1.imp id fun h => h _
  case loam => exact h3.imp id fun h => h _
  case msRest => exact .inl h2
  all_goals exact .inr rfl

theorem keeps_modHost {f : HostIf → HostIf} (h1 : Part.raised ∈ ps ∨ ∀ c, (f c).raised = c.raised)
    (h2 : Part.hostRest ∈ ps ∨ ∀ c, { f c with raised := 0 } = { c with raised := 0 }) : (modHost f).Keeps ps rs := by
  refine fun s => ⟨⟨rfl, fun p => ?_⟩, fun r' d' i' _ _ => .inr (.inr rfl)⟩
  cases p
  case raised => exact h1.imp id fun h => h _
  case hostRest => exact h2.imp id fun h => h _
  all_goals exact .inr rfl

theorem keeps_modFab {f : Fabric → Fabric} (hp : Part.fab ∈ ps) : (modFab f).Keeps ps rs := by
  refine fun s => ⟨⟨rfl, fun p => ?_⟩, fun r' d' i' _ _ => .inr (.inr rfl)⟩
  cases p <;> first | exact .inl hp | exact .inr rfl

theorem keeps_modUpd {f : Upd → Upd} (hp : Part.upd ∈ ps) : (modUpd f).Keeps ps rs := by
  refine fun s => ⟨⟨rfl, fun p => ?_⟩, fun r' d' i' _ _ => .inr (.inr rfl)⟩
  cases p <;> first | exact .inl hp | exact .inr rfl

theorem keeps_modNet {f : Net → Net} (hp : Part.net ∈ ps) : (modNet f).Keeps ps rs := by
  refine fun s => ⟨⟨rfl, fun p => ?_⟩, fun r' d' i' _ _ => .inr (.inr rfl)⟩
  cases p <;> first | exact .inl hp | exact .inr rfl

theorem keeps_modCol {f : Col → Col} (hp : Part.col ∈ ps) : (modCol f).Keeps ps rs := by
  refine fun s => ⟨⟨rfl, fun p => ?_⟩, fun r' d' i' _ _ => .inr (.inr rfl)⟩
  cases p <;> first | exact .inl hp | exact .inr rfl

theorem keeps_modDig {f : Dig → Dig} (hp : Part.dig ∈ ps) : (modDig f).Keeps ps rs := by
  refine fun s => ⟨⟨rfl, fun p => ?_⟩, fun r' d' i' _ _ => .inr (.inr rfl)⟩
  cases p <;> first | exact .inl hp | exact .inr rfl

theorem keeps_modRst {f : Rst → Rst} (hp : Part.rst ∈ ps) : (modRst f).Keeps ps rs := by
  refine fun s => ⟨⟨rfl, fun p => ?_⟩, fun r' d' i' _ _ => .inr (.inr rfl)⟩
  cases p <;> first | exact .inl hp | exact .inr rfl

theorem keeps_modImg {f : Img → Img} (hp : Part.img ∈ ps) : (modImg f).Keeps ps rs := by
  refine fun s => ⟨⟨rfl, fun p => ?_⟩, fun r' d' i' _ _ => .inr (.inr rfl)⟩
  cases p <;> first | exact .inl hp | exact .inr rfl

theorem keeps_modEth {f : Eth → Eth} (hp : Part.eth ∈ ps) : (modEth f).Keeps ps rs := by
  refine fun s => ⟨⟨rfl, fun p => ?_⟩, fun r' d' i' _ _ => .inr (.inr rfl)⟩
  cases p <;> first | exact .inl hp | exact .inr rfl

theorem keeps_modRecd {f : Recorder → Recorder} (hp : Part.recd ∈ ps) : (modRecd f).Keeps ps rs := by
  refine fun s => ⟨⟨rfl, fun p => ?_⟩, fun r' d' i' _ _ => .inr (.inr rfl)⟩
  cases p <;> first | exact .inl hp | exact .inr rfl

theorem keeps_modPow {f : Pow → Pow} (hp : Part.pow ∈ ps) : (modPow f).Keeps ps rs := by
  refine fun s => ⟨⟨rfl, fun p => ?_⟩, fun r' d' i' _ _ => .inr (.inr rfl)⟩
  cases p <;> first | exact .inl hp | exact .inr rfl

theorem keeps_setR {r : RegName} {die idx v : Nat} (hp : Part.regs ∈ ps)
    (hr : (r, die % 16, none) ∈ rs ∨ (r, die % 16, some (idx % 2 ^ 22)) ∈ rs) : (setR r die idx v).Keeps ps rs :=
  keeps_reg hp hr

theorem keeps_modR {r : RegName} {die idx : Nat} {f : Nat → Nat} (hp : Part.regs ∈ ps)
    (hr : (r, die % 16, none) ∈ rs ∨ (r, die % 16, some (idx % 2 ^ 22)) ∈ rs) : (modR r die idx f).Keeps ps rs :=
  keeps_get fun _ => keeps_reg hp hr

theorem keeps_putR {r : RegName} {die idx hi lo v : Nat} (hp : Part.regs ∈ ps)
    (hr : (r, die % 16, none) ∈ rs ∨ (r, die % 16, some (idx % 2 ^ 22)) ∈ rs) : (putR r die idx hi lo v).Keeps ps rs :=
  keeps_modR hp hr

theorem keeps_incFld {r : RegName} {die idx hi lo n : Nat} (hp : Part.regs ∈ ps)
    (hr : (r, die % 16, none) ∈ rs ∨ (r, die % 16, some (idx % 2 ^ 22)) ∈ rs) : (incFld r die idx hi lo n).Keeps ps rs :=
  keeps_modR hp hr

theorem keeps_incR {r : RegName} {die idx n : Nat} (hp : Part.regs ∈ ps)
    (hr : (r, die % 16, none) ∈ rs ∨ (r, die % 16, some (idx % 2 ^ 22)) ∈ rs) : (incR r die idx n).Keeps ps rs :=
  keeps_incFld hp hr

theorem keeps_incR64 {r : RegName} {die idx n : Nat} (hp : Part.regs ∈ ps)
    (hr : (r, die % 16, none) ∈ rs ∨ (r, die % 16, some (idx % 2 ^ 22)) ∈ rs) : (incR64 r die idx n).Keeps ps rs :=
  keeps_incFld hp hr

theorem keeps_drawFree {w : Nat} {f : Nat → Eff} (hp : Part.freeCtr ∈ ps) (h : ∀ v, (f v).Keeps ps rs) :
    (drawFree w f).Keeps ps rs := keeps_get fun _ => keeps_seq (keeps_free hp) (h _)

/-! ## Shared operations -/

theorem keeps_raiseVec {v : Nat} (hp : Part.raised ∈ ps) : (raiseVec v).Keeps ps rs :=
  keeps_modHost (.inl hp) (.inr fun _ => rfl)

theorem keeps_setFault {r : RegName} {die b : Nat} (hp : Part.regs ∈ ps) (hh : Part.raised ∈ ps)
    (hr : (r, die % 16, none) ∈ rs ∨ (r, die % 16, some 0) ∈ rs) : (setFault r die b).Keeps ps rs :=
  keeps_get fun _ => keeps_seq (keeps_when fun _ => keeps_raiseVec hh) (keeps_modR hp hr)

theorem keeps_setFaultBoth {r : RegName} {d1 d2 b : Nat} (hp : Part.regs ∈ ps) (hh : Part.raised ∈ ps)
    (h1 : (r, d1 % 16, none) ∈ rs ∨ (r, d1 % 16, some 0) ∈ rs)
    (h2 : (r, d2 % 16, none) ∈ rs ∨ (r, d2 % 16, some 0) ∈ rs) : (setFaultBoth r d1 d2 b).Keeps ps rs :=
  keeps_get fun _ => keeps_all_cons (keeps_when fun _ => keeps_raiseVec hh) (keeps_all_cons (keeps_modR hp h1)
    (keeps_all_cons (keeps_modR hp h2) keeps_all_nil))

theorem keeps_writeMem {ws : List Wr} (hp : Part.mem ∈ ps) (hq : Part.poison ∈ ps) (hl : Part.loam ∈ ps) :
    (writeMem ws).Keeps ps rs := keeps_wr hp hq hl

theorem keeps_writeBytes {a : Nat} {bs : List Byte} (hp : Part.mem ∈ ps) (hq : Part.poison ∈ ps) (hl : Part.loam ∈ ps) :
    (writeBytes a bs).Keeps ps rs := keeps_wr hp hq hl

/-! ### Records. -/

theorem keeps_pathRecord {x : Rec} (hp : recParts ⊆ ps) (hr : recRegs ⊆ rs) : (pathRecord x).Keeps ps rs := by
  have h1 : Part.regs ∈ ps := hp (by decide)
  have h2 : Part.recd ∈ ps := hp (by decide)
  have h3 : Part.raised ∈ ps := hp (by decide)
  refine keeps_get fun s => keeps_ite (fun _ => keeps_modRecd h2) fun _ => ?_
  refine keeps_all_cons (keeps_incR h1 (.inr (hr ?_))) (keeps_all_cons (keeps_setFault h1 h3 (.inr (hr (by decide))))
    (keeps_all_cons (keeps_modRecd h2) keeps_all_nil))
  split <;> decide

theorem keeps_throughFilter {t : Nat} {e : Eff} (hp : recParts ⊆ ps) (hr : recRegs ⊆ rs) (h : e.Keeps ps rs) :
    (throughFilter t e).Keeps ps rs := by
  refine keeps_get fun s => ?_
  split
  · exact keeps_ite (fun _ => keeps_incR (hp (by decide)) (.inr (hr (by decide))))
      fun _ => keeps_seq (keeps_modRecd (hp (by decide))) h
  · exact h

theorem keeps_emitBytes {t src : Nat} {bs : List Byte} (hp : recParts ⊆ ps) (hr : recRegs ⊆ rs) :
    (emitBytes t src bs).Keeps ps rs := keeps_throughFilter hp hr (keeps_get fun _ => keeps_pathRecord hp hr)

theorem keeps_emit {t src : Nat} {items : List Item} (hp : recParts ⊆ ps) (hr : recRegs ⊆ rs) :
    (emit t src items).Keeps ps rs := keeps_emitBytes hp hr

theorem keeps_emitListGo {t src : Nat} {pre : List Item} (hp : recParts ⊆ ps) (hr : recRegs ⊆ rs) :
    ∀ (fuel first : Nat) (es : List (List Byte)), ∀ e ∈ emitListGo t src pre fuel first es, e.Keeps ps rs
  | 0, _, _, _, h => by simp [emitListGo] at h
  | fuel + 1, first, es, e, h => by
    rw [emitListGo, List.mem_cons] at h
    rcases h with h | h
    · exact h ▸ keeps_emit hp hr
    · by_cases hb : (fitEntries (4064 - roundUp ((layItems (if first = 0 then pre else pre ++ [.num 4 first])).length + 8) 8)
          es).2.isEmpty = true
      · rw [if_pos hb] at h; simp at h
      · rw [if_neg hb] at h; exact keeps_emitListGo hp hr _ _ _ e h

theorem keeps_emitList {t src : Nat} {pre : List Item} {es : List (List Byte)} (hp : recParts ⊆ ps)
    (hr : recRegs ⊆ rs) : (emitList t src pre es).Keeps ps rs := keeps_all (keeps_emitListGo hp hr _ _ _)

theorem keeps_oncePerSecond {k : Nat} {e : Eff} (hp : Part.recd ∈ ps) (h : e.Keeps ps rs) :
    (oncePerSecond k e).Keeps ps rs :=
  keeps_get fun _ => keeps_when fun _ => keeps_seq (keeps_modRecd hp) h

/-! ### Queues, steps, flights. -/

theorem keeps_modQueue {die q : Nat} {f : Queue → Queue} (hp : Part.queues ∈ ps) : (modQueue die q f).Keeps ps rs := by
  refine keeps_modCp (.inl hp) ?_ ?_ ?_ ?_ ?_ ?_ <;> exact .inr fun _ => rfl

theorem keeps_modStep {n : Nat} {f : StepInfo → StepInfo} (hp : Part.steps ∈ ps) : (modStep n f).Keeps ps rs := by
  refine keeps_modCp ?_ ?_ ?_ ?_ (.inl hp) ?_ ?_ <;> exact .inr fun _ => rfl

theorem keeps_putFlight {f : Flight} (hp : Part.flights ∈ ps) : (putFlight f).Keeps ps rs := by
  refine keeps_modCp ?_ ?_ (.inl hp) ?_ ?_ ?_ ?_ <;> exact .inr fun _ => rfl

/-! ### Time. -/

theorem keeps_countUnit {n k : Nat} (hk : k ∈ countedUnits) (hp : Part.regs ∈ ps) (hr : timeRegs ⊆ rs) :
    (countUnit n k).Keeps ps rs := by
  have hcases : k / 64 = 0 ∨ k / 64 = 1 ∨ k / 64 = 2 ∨ k / 64 = 3 ∨ k / 64 = 4 ∨ k / 64 = 5 ∨ k / 64 = 6 ∨ k / 64 = 7 := by
    simp only [countedUnits, List.mem_append, List.mem_flatMap, List.mem_map, List.mem_range, List.mem_cons,
      List.not_mem_nil, or_false] at hk
    rcases hk with (⟨d, hd, u, hu, rfl⟩ | ⟨d, hd, u, hu, rfl⟩) | hk <;> omega
  refine keeps_get fun s => keeps_ite (fun _ => keeps_skip) fun _ => keeps_ite (fun _ => keeps_opt fun a ha => ?_) fun _ => ?_
  · refine keeps_incFld hp ?_
    simp only [activeReg] at ha
    rcases hcases with h | h | h | h | h | h | h | h <;> simp only [h] at ha <;> (repeat' split at ha) <;> first
      | omega
      | (cases ha; done)
      | cases ha
        dsimp only
        first | exact .inl (hr (by decide)) | exact .inr (hr (by decide))
  · have hi : ∀ c, ((idleReg k c).1, (idleReg k c).2.1 % 16, none) ∈ timeRegs := by
      intro c
      rcases hcases with h | h | h | h | h | h | h | h
      · rw [show idleReg k c = (.CMD_IDLE, 0, k % 64 * 9 + c) by simp [idleReg, h]]; dsimp only; decide
      · rw [show idleReg k c = (.CMD_IDLE, 1, k % 64 * 9 + c) by simp [idleReg, h]]; dsimp only; decide
      · rw [show idleReg k c = (.CMD_IDLE, 2, k % 64 * 9 + c) by simp [idleReg, h]]; dsimp only; decide
      · rw [show idleReg k c = (.CMD_IDLE, 3, k % 64 * 9 + c) by simp [idleReg, h]]; dsimp only; decide
      · rw [show idleReg k c = (.UPD_IDLE, 4, k % 64 * 9 + c) by simp [idleReg, h]]; dsimp only; decide
      · rw [show idleReg k c = (.UPD_IDLE, 5, k % 64 * 9 + c) by simp [idleReg, h]]; dsimp only; decide
      · rw [show idleReg k c = (.COL_IDLE, 6, c) by simp [idleReg, h]]; dsimp only; decide
      · rw [show idleReg k c = (.COL_IDLE, 7, c) by simp [idleReg, h]]; dsimp only; decide
    exact keeps_incFld hp (.inl (hr (hi _)))

theorem keeps_countCc {n : Nat} (hp : timeParts ⊆ ps) (hr : timeRegs ⊆ rs) : (countCc n).Keeps ps rs := by
  have h1 : Part.regs ∈ ps := hp (by decide)
  refine keeps_get fun s => keeps_all_cons (keeps_when fun _ => keeps_seq
    (keeps_each_mem fun k hk => keeps_countUnit hk h1 hr) (keeps_get fun s => ?_)) (keeps_all_cons (keeps_when fun _ =>
      keeps_incFld h1 (.inr (hr (by decide)))) keeps_all_nil)
  refine keeps_modCp ?_ ?_ ?_ ?_ ?_ (.inl (hp (by decide))) ?_ <;> exact .inr fun _ => rfl

theorem keeps_advance {n : Nat} (hp : timeParts ⊆ ps) (hr : timeRegs ⊆ rs) : (advance n).Keeps ps rs := by
  have hc (m : Nat) : (Eff.act (.clock m)).Keeps ps rs := keeps_clock (hp (by decide)) (hp (by decide)) (hp (by decide))
  match n with
  | 0 => exact keeps_skip
  | 1 => exact keeps_seq (keeps_countCc hp hr) (hc 1)
  | m + 2 => exact keeps_all_cons (keeps_countCc hp hr) (keeps_all_cons (hc 1) (keeps_all_cons (keeps_countCc hp hr)
      (keeps_all_cons (hc (m + 1)) keeps_all_nil)))

theorem keeps_advanceTo {n : Nat} (hp : timeParts ⊆ ps) (hr : timeRegs ⊆ rs) : (advanceTo n).Keeps ps rs :=
  keeps_get fun _ => keeps_advance hp hr

end

end Sys2Proof.Machine
end

