-- ==== Sys2Proof/Laws/Queue.lean ====
section
/-!
SUPPORT. Laws of the heads of queues: a head that is ready issues, what leaving a queue and sending signals do, and
what the shared operations at the head leave unchanged.
-/
namespace Sys2Proof.Machine

/-! ## Heads -/

theorem Ready.waitViols_nil {s : State} {op die q : Nat} {d : Desc} (h : Ready s op die q d) :
    waitViols d (queueOf s die q).step = [] := by
  have := h.legal
  simp only [allViols, List.append_eq_nil_iff] at this
  exact this.1.1.1.1.1.2

/-- A head that is ready issues, unless it is STEP.END. -/
theorem Ready.attempt {s : State} {op die q : Nat} {d : Desc} (h : Ready s op die q d) (hop : op ≠ 0xF0) :
    attemptOf s op die q = .issue := by
  have ho := h.opcode
  simp [attemptOf, h.head, ho, hop, h.waits, h.legal, firstViol, h.data.1, h.data.2, canPass, h.units, h.first,
    h.free]

/-- Nothing has to pass before a head that is ready is looked at. -/
theorem Ready.settled {s : State} {op die q : Nat} {d : Desc} (h : Ready s op die q d) :
    (settle op die q).run s = s := by
  have h1 := h.once
  simp [settle, h.head, h.waits, h1]

/-- The row of an opcode at a head that is ready. -/
theorem Ready.run_opcodeRow {s : State} {op die q : Nat} {d : Desc} (h : Ready s op die q d) (hop : op ≠ 0xF0)
    (start : Flight → Eff) :
    (opcodeRow op die q start).run s =
      if atIssue op then (sendSignals die d).run ((start (newFlight s die q d)).run ((popHead die q).run s))
      else (start (newFlight s die q d)).run
        ((modCp fun c => { c with flights := c.flights ++ [newFlight s die q d] }).run ((popHead die q).run s)) := by
  simp only [opcodeRow, Eff.run_seq, h.settled, Eff.run_get, h.attempt hop, issueHead, h.head, h.opcode]
  split <;> simp

theorem popHead_headLeft (die q : Nat) (s : State) : HeadLeft die q s ((popHead die q).run s) := by
  refine ⟨?_, ?_, fun k hk => ⟨?_, ?_⟩⟩
  · simp [popHead, modQueue, queueOf]
  · simp [popHead, modQueue, slotsOf]
  · simp [popHead, modQueue, mget_mset_ne _ _ hk]
  · simp [popHead, modQueue, mget_mset_ne _ _ hk]

/-- What has left stays left while queues and slots stay. -/
theorem HeadLeft.trans {die q : Nat} {s t u : State} (h : HeadLeft die q s t) (hq : u.cp.queues = t.cp.queues)
    (hs : u.cp.slots = t.cp.slots) : HeadLeft die q s u := by
  simpa only [HeadLeft, queueOf, slotsOf, hq, hs] using h

/-! ## Signals -/

/-- A flag after an addition. -/
theorem addFlag_flags (die idx inc k : Nat) (s : State) :
    mget 0 ((addFlag die idx inc).run s).flags k =
      if k = die * 4096 + idx then min (mget 0 s.flags k + inc) 0xFFFFFFFF else mget 0 s.flags k := by
  have hk : (Eff.when (mget 0 s.flags (die * 4096 + idx) + inc > 0xFFFFFFFF) (Eff.all [
      Eff.when (die < 4) (.seq (setFault .CMD_FAULT die 5) (incR .CMD_FLAG_SAT_COUNT die 0 1)),
      emit 0x0307 die []])).Keeps recParts (flagRegs die) := by
    refine keeps_when fun _ => keeps_all_cons (keeps_when fun _ => keeps_seq (keeps_setFault ?_ ?_ ?_) (keeps_incR ?_ ?_))
      (keeps_all_cons (keeps_emit ?_ ?_) keeps_all_nil) <;> simp [recParts, flagRegs, recRegs]
  have := (hk (Act.run (.flagAdd (die * 4096 + idx) inc) s)).part .flags (by decide)
  simp only [Part.same] at this
  simp only [addFlag, Eff.run_get, Eff.run_seq, Eff.run_act, this, run_flagAdd_flags, mget_mset, flagSum, satAdd]
  split <;> rename_i h <;> simp [h]

theorem keeps_addFlag {ps : List Part} {rs : List RegAt} {die idx inc : Nat}
    (hp : alsoParts recParts [.flags, .flagOld] ⊆ ps) (hr : flagRegs die ⊆ rs) : (addFlag die idx inc).Keeps ps rs := by
  refine Eff.Keeps.mono (ps := alsoParts recParts [.flags, .flagOld]) (rs := flagRegs die) ?_ hp hr
  refine keeps_get fun s => keeps_seq (keeps_flagAdd ?_ ?_) (keeps_when fun _ => keeps_all_cons (keeps_when fun _ =>
    keeps_seq (keeps_setFault ?_ ?_ ?_) (keeps_incR ?_ ?_)) (keeps_all_cons (keeps_emit ?_ ?_) keeps_all_nil)) <;>
    simp [recParts, flagRegs, recRegs]

theorem keeps_sendSignals {ps : List Part} {rs : List RegAt} {die : Nat} {d : Desc} (hp : signalParts ⊆ ps)
    (hr : flagRegs die ⊆ rs) : (sendSignals die d).Keeps ps rs := by
  refine Eff.Keeps.mono (ps := signalParts) (rs := flagRegs die) ?_ hp hr
  refine keeps_each fun a => keeps_ite (fun _ => keeps_addFlag (by decide) (List.Subset.refl _)) fun _ => ?_
  refine keeps_modCp ?_ ?_ ?_ (.inl (by decide)) ?_ ?_ ?_ <;> exact .inr fun _ => rfl

/-- The signals of a list of references, one after another. -/
theorem signals_run (die : Nat) (l : List (FlagRef × Nat)) (s : State) :
    let e : Eff := Eff.each l fun (r, inc) =>
      if r.die = die then addFlag die r.idx inc
      else modCp fun c => { c with signals := c.signals ++ [⟨r.die, r.idx, inc, die⟩] }
    (∀ k, mget 0 (e.run s).flags k =
      let incs := (l.filter fun e => e.1.die = die && e.1.key = k).map (·.2)
      if incs = [] then mget 0 s.flags k else min (mget 0 s.flags k + incs.sum) 0xFFFFFFFF) ∧
    (e.run s).cp.signals = s.cp.signals ++ (l.filter fun e => e.1.die != die).map fun e => ⟨e.1.die, e.1.idx, e.2, die⟩ := by
  induction l generalizing s with
  | nil => simp
  | cons a l ih =>
    obtain ⟨r, inc⟩ := a
    simp only [Eff.each_cons, Eff.run_seq]
    by_cases h : r.die = die
    · simp only [h, if_true]
      obtain ⟨i1, i2⟩ := ih ((addFlag die r.idx inc).run s)
      have hs := (keeps_addFlag (die := die) (idx := r.idx) (inc := inc) (List.Subset.refl _) (List.Subset.refl _) s).part
        .signals (by decide)
      simp only [Part.same] at hs
      refine ⟨fun k => ?_, ?_⟩
      · rw [i1 k, addFlag_flags]
        by_cases hk : r.key = k
        · have hk' : k = die * 4096 + r.idx := by rw [← hk, FlagRef.key, h]
          simp only [List.filter_cons, h, hk, hk', decide_true, Bool.and_self, if_true, List.map_cons, List.sum_cons,
            reduceCtorEq, if_false]
          split
          · rename_i hn; simp [hn]
          · omega
        · have hk' : ¬ k = die * 4096 + r.idx := by rw [FlagRef.key, h] at hk; exact fun e => hk e.symm
          rw [if_neg hk', List.filter_cons_of_neg (by simp [hk])]
      · rw [i2, hs]; simp [h]
    · simp only [h, if_false]
      obtain ⟨i1, i2⟩ := ih ((modCp fun c => { c with signals := c.signals ++ [⟨r.die, r.idx, inc, die⟩] }).run s)
      refine ⟨fun k => ?_, ?_⟩
      · rw [i1 k, List.filter_cons_of_neg (by simp [h])]; rfl
      · rw [i2]; simp [h]

/-- Sending the signals of a command does what R210 to R212 say. -/
theorem sendSignals_signalled (die : Nat) (d : Desc) (s : State) : Signalled die d s ((sendSignals die d).run s) :=
  signals_run die (cmdSignals d) s

/-- Signals count from a state with the same flags and signals. -/
theorem Signalled.congr {die : Nat} {d : Desc} {s s' t : State} (h : Signalled die d s' t) (hf : s'.flags = s.flags)
    (hs : s'.cp.signals = s.cp.signals) : Signalled die d s t := by
  simpa only [Signalled, hf, hs] using h

/-! ## Operations at the head -/

theorem keeps_popHead {ps : List Part} {rs : List RegAt} {die q : Nat} (h1 : Part.queues ∈ ps) (h2 : Part.slots ∈ ps) :
    (popHead die q).Keeps ps rs := by
  refine keeps_get fun s => keeps_seq (keeps_modQueue h1) ?_
  refine keeps_modCp ?_ (.inl h2) ?_ ?_ ?_ ?_ ?_ <;> exact .inr fun _ => rfl

end Sys2Proof.Machine
end

