-- ==== Sys2Proof/Laws/Issue.lean ====
section
/-!
SUPPORT. Laws of issue: what starting units leaves unchanged, and that a head that is ready is in flight afterwards.
-/
namespace Sys2Proof.Machine

/-! ## The last command in flight -/

theorem putFirst_snoc {α : Type} (p : α → Bool) (y f : α) (l : List α) :
    ∃ l', putFirst p y (l ++ [f]) = l' ++ [f] ∨
      (p f = true ∧ (∀ x ∈ l, p x = false) ∧ putFirst p y (l ++ [f]) = l ++ [y]) := by
  induction l with
  | nil => by_cases h : p f <;> simp [putFirst, h]
  | cons a l ih =>
    by_cases h : p a
    · exact ⟨y :: l, by simp [putFirst, h]⟩
    · obtain ⟨l', h' | h'⟩ := ih
      · exact ⟨a :: l', .inl (by simp [putFirst, h, h'])⟩
      · exact ⟨[], .inr ⟨h'.1, by simp; exact ⟨by simpa using h, h'.2.1⟩, by simp [putFirst, h, h'.2.2]⟩⟩

/-- The last command in flight has a property. -/
def LastFlight (P : Flight → Prop) (s : State) : Prop := ∃ l f, s.cp.flights = l ++ [f] ∧ P f

theorem LastFlight.of_keeps {P : Flight → Prop} {ps : List Part} {rs : List RegAt} {e : Eff} {s : State}
    (hk : e.Keeps ps rs) (h : Part.flights ∉ ps) (hl : LastFlight P s) : LastFlight P (e.run s) := by
  have := (hk s).part .flights h
  simp only [Part.same] at this
  simpa [LastFlight, this] using hl

theorem LastFlight.put {P : Flight → Prop} {s : State} {g : Flight} (hl : LastFlight P s)
    (hg : ∀ f, P f → (∀ x ∈ s.cp.flights, x.die = g.die → x.q = g.q → x.pos = g.pos → x = f) → P g) :
    LastFlight P ((putFlight g).run s) := by
  obtain ⟨l, f, h, hf⟩ := hl
  simp only [LastFlight, putFlight, run_modCp, run_cp_cp, h]
  obtain ⟨l', h' | ⟨h1, h2, h3⟩⟩ :=
    putFirst_snoc (fun x => decide (x.die = g.die) && decide (x.q = g.q) && decide (x.pos = g.pos)) g f l
  · exact ⟨l', f, h', hf⟩
  · refine ⟨l, g, h3, hg f hf fun x hx a b c => ?_⟩
    simp only [Bool.and_eq_false_iff, decide_eq_false_iff_not] at h2
    rw [h] at hx
    rcases List.mem_append.1 hx with hx | hx
    · rcases h2 x hx with (k | k) | k <;> contradiction
    · simpa using hx

theorem LastFlight.each {α : Type} {P : Flight → Prop} (l : List α) (f : α → Eff)
    (hf : ∀ a s, LastFlight P s → LastFlight P ((f a).run s)) :
    ∀ s, LastFlight P s → LastFlight P ((Eff.each l f).run s) := by
  induction l with
  | nil => intro s h; exact h
  | cons a l ih => intro s h; rw [Eff.each_cons, Eff.run_seq]; exact ih _ (hf _ _ h)

/-! ## Units start -/

theorem unitWork_mem {s : State} {k : Nat} {f : Flight} {u : UW} (h : unitWork s k = some (f, u)) :
    f ∈ s.cp.flights ∧ u ∈ f.units ∧ u.key = k := by
  obtain ⟨g, hg, h2⟩ := List.exists_of_findSome?_eq_some h
  simp only [Option.map_eq_some_iff] at h2
  obtain ⟨v, h3, h4⟩ := h2
  cases h4
  have := List.find?_some h3
  simp only [Bool.and_eq_true, decide_eq_true_eq] at this
  exact ⟨hg, List.mem_of_find?_eq_some h3, this.1⟩

theorem nextTile_mem {l : List (Flight × UW)} {f : Flight} {u : UW} (h : nextTile l = some (f, u)) : (f, u) ∈ l := by
  induction l with
  | nil => cases h
  | cons p l ih =>
    obtain ⟨g, v⟩ := p
    simp only [nextTile] at h
    split at h
    · cases h
    · split at h
      · cases h; simp
      · exact List.mem_cons_of_mem _ (ih h)

theorem unitParts_mem {s : State} {k : Nat} {f : Flight} {u : UW} (h : (f, u) ∈ unitParts s k) :
    f ∈ s.cp.flights ∧ u ∈ f.units ∧ u.key = k := by
  obtain ⟨g, hg, h2⟩ := List.mem_filterMap.1 h
  simp only [Option.map_eq_some_iff] at h2
  obtain ⟨v, h3, h4⟩ := h2
  cases h4
  have := List.find?_some h3
  simp only [Bool.and_eq_true, decide_eq_true_eq] at this
  exact ⟨hg, List.mem_of_find?_eq_some h3, this.1⟩

@[simp] theorem rowStart_key (s : State) (f : Flight) (u : UW) : (rowStart s f u).key = u.key := by
  unfold rowStart; split <;> rfl

theorem keeps_injectRecord {ps : List Part} {rs : List RegAt} {s : State} {f : Flight} {u : UW} {kind : Nat}
    (h1 : recParts ⊆ ps) (h3 : recRegs ⊆ rs) : (injectRecord s f u kind).Keeps ps rs := by
  unfold injectRecord
  simp only
  repeat' (first | exact keeps_emit h1 h3 | split)

theorem keeps_takeInjection {ps : List Part} {rs : List RegAt} {s : State} {f : Flight} {u : UW} {kind : Nat}
    (h1 : recParts ⊆ ps) (h3 : recRegs ⊆ rs) (h4 : ∀ r d i hi, injectReg u.key = some (r, d, i, hi) →
      (r, d % 16, none) ∈ rs ∨ (r, d % 16, some 0) ∈ rs) : (takeInjection s f u kind).Keeps ps rs := by
  unfold takeInjection
  split
  · exact keeps_skip
  · rename_i hr
    exact keeps_seq (keeps_putR (h1 (by decide)) (h4 _ _ _ _ hr)) (keeps_injectRecord h1 h3)

/-- A unit's new part enters its command, and an armed injection may be made. -/
theorem putUnit_run {s : State} {k : Nat} {f : Flight} (hf : f ∈ s.cp.flights) {u v : UW} (hv : v.key = k) (c : Bool)
    (kind : Nat) (t : State) (ht : t = (Eff.seq (putFlight (f.putUnit u)) (Eff.when c (takeInjection s f v kind))).run s) :
    ∃ f u, f ∈ s.cp.flights ∧ (t = (putFlight (f.putUnit u)).run s ∨
      ∃ v kind, v.key = k ∧ t = (takeInjection s f v kind).run ((putFlight (f.putUnit u)).run s)) := by
  cases c
  · exact ⟨f, u, hf, .inl ht⟩
  · exact ⟨f, u, hf, .inr ⟨v, kind, hv, ht⟩⟩

/-- What starting a unit does: nothing, or an entry of a command in flight takes the unit's new part, and an armed
injection may be made. -/
theorem startUnit_run (k : Nat) (s : State) : (startUnit k).run s = s ∨
    ∃ f u, f ∈ s.cp.flights ∧ ((startUnit k).run s = (putFlight (f.putUnit u)).run s ∨
      ∃ v kind, v.key = k ∧ (startUnit k).run s = (takeInjection s f v kind).run ((putFlight (f.putUnit u)).run s)) := by
  simp only [startUnit, startTile]
  by_cases he : isEngine k = true
  · rw [if_pos he, Eff.run_get]
    split
    · exact .inl rfl
    · rename_i f u hw
      obtain ⟨hf, -, hk⟩ := unitParts_mem (nextTile_mem hw)
      split
      · exact .inl rfl
      · exact .inr (putUnit_run hf (v := { u with n := u.n + u.begun }) hk _ _ _ rfl)
  · rw [if_neg he, Eff.run_get]
    split
    · exact .inl rfl
    · rename_i f u hw
      obtain ⟨hf, -, hk⟩ := unitWork_mem hw
      split
      · exact .inl rfl
      · split
        · split
          · exact .inr ⟨f, _, hf, .inr ⟨_, _, by simp [hk], rfl⟩⟩
          · exact .inr ⟨f, _, hf, .inl rfl⟩
        · exact .inr ⟨f, _, hf, .inl rfl⟩

/-- Starting a unit changes its command's entry, and where an injection acts the register it was armed in. -/
theorem keeps_startUnit {ps : List Part} {rs : List RegAt} {k : Nat} (h1 : recParts ⊆ ps) (h2 : Part.flights ∈ ps)
    (h3 : recRegs ⊆ rs) (h4 : ∀ r d i hi, injectReg k = some (r, d, i, hi) →
      (r, d % 16, none) ∈ rs ∨ (r, d % 16, some 0) ∈ rs) : (startUnit k).Keeps ps rs := by
  intro s
  obtain h | ⟨f, u, -, h | ⟨v, kind, hv, h⟩⟩ := startUnit_run k s <;> rw [h]
  · exact keeps_skip s
  · exact keeps_putFlight h2 s
  · exact (keeps_putFlight h2 s).trans (keeps_takeInjection h1 h3 (hv ▸ h4) _)

/-- Starting units keeps a property of the last command in flight that does not see the progress of its units. -/
theorem LastFlight.startUnit {P : Flight → Prop} (hP : ∀ f u, P f → P (f.putUnit u)) {s : State} {k : Nat}
    (hl : LastFlight P s) : LastFlight P ((startUnit k).run s) := by
  have key : ∀ f u, f ∈ s.cp.flights → LastFlight P ((putFlight (f.putUnit u)).run s) := fun f u hf =>
    hl.put fun f0 h0 hu => hP _ _ (hu f hf rfl rfl rfl ▸ h0)
  obtain h | ⟨f, u, hf, h | ⟨v, kind, -, h⟩⟩ := startUnit_run k s <;> rw [h]
  · exact hl
  · exact key f u hf
  · let r0 : RegAt := match injectReg v.key with
      | some (r, d, _, _) => (r, d % 16, none)
      | none => (.MME_INJECT, 0, none)
    refine (key f u hf).of_keeps (keeps_takeInjection (ps := recParts) (rs := r0 :: recRegs) (List.Subset.refl _)
      (List.subset_cons_self _ _) fun r d i hi h => .inl ?_) (by decide)
    simp [r0, h]

/-! ## A head that is ready issues -/

/-- What a command in flight keeps of its issue. -/
def IssuedAs (op die q : Nat) (d : Desc) (s : State) (f : Flight) : Prop :=
  (f.die = die ∧ f.q = q ∧ f.pos = (queueOf s die q).head ∧ f.sq = (queueOf s die q).step ∧ f.op = op) ∧
    f.stored = d ∧ f.desc = patchDesc d (patchRegOf s die d) ∧ f.issue = s.cc ∧
    f.units.map (·.key) = unitsOf s die f.desc

theorem IssuedAs.putUnit {op die q : Nat} {d : Desc} {s : State} {f : Flight} {u : UW} (h : IssuedAs op die q d s f) :
    IssuedAs op die q d s (f.putUnit u) := by
  refine ⟨h.1, h.2.1, h.2.2.1, h.2.2.2.1, ?_⟩
  show _ = unitsOf s die f.desc
  rw [← h.2.2.2.2]
  simp only [Flight.putUnit, List.map_map]
  apply List.map_congr_left
  intro x _
  show (if x.key = u.key then u else x).key = x.key
  split <;> simp_all

theorem Ready.newFlight {op die q : Nat} {d : Desc} {s : State} (h : Ready s op die q d) :
    IssuedAs op die q d s (newFlight s die q d) := by
  refine ⟨⟨rfl, rfl, rfl, rfl, h.opcode⟩, rfl, rfl, rfl, ?_⟩
  simp [Machine.newFlight, buildUnits, Function.comp_def]

/-- A head that is ready and does not complete at issue is in flight after its row, whatever its opcode does at issue,
if that keeps the queues and what its flight tells of its issue. -/
theorem Ready.issued {op die q : Nat} {d : Desc} {s : State} (h : Ready s op die q d) (hop : op ≠ 0xF0)
    (ha : atIssue op = false) (start : Flight → Eff) {ps : List Part} {rs : List RegAt}
    (hk : (start (Machine.newFlight s die q d)).Keeps ps rs) (h1 : Part.queues ∉ ps) (h2 : Part.slots ∉ ps)
    (hl : ∀ u, OnlyChanges [.queues, .slots, .flights] [] s u → LastFlight (IssuedAs op die q d s) u →
      LastFlight (IssuedAs op die q d s) ((start (Machine.newFlight s die q d)).run u)) :
    let t := (opcodeRow op die q start).run s
    Issued op die q d s t ∧ OnlyChanges (ps ++ [.queues, .slots, .flights]) rs s t ∧
      ∃ u, t = (start (Machine.newFlight s die q d)).run u ∧ OnlyChanges [.queues, .slots, .flights] [] s u := by
  intro t
  have ht : t = _ := h.run_opcodeRow hop start
  simp only [ha] at ht
  generalize hu : (popHead die q).run s = u at ht
  have o1 : OnlyChanges [.queues, .slots] [] s u := hu ▸ keeps_popHead (by decide) (by decide) s
  have hl1 := popHead_headLeft die q s
  rw [hu] at hl1
  generalize hv : (modCp fun c => { c with flights := c.flights ++ [Machine.newFlight s die q d] }).run u = v at ht
  have o2 : OnlyChanges [.flights] [] u v := by
    rw [← hv]
    refine keeps_modCp ?_ ?_ (.inl (by decide)) ?_ ?_ ?_ ?_ u <;> exact .inr fun _ => rfl
  replace ht : t = (start (Machine.newFlight s die q d)).run v := by simpa using ht
  have o3 : OnlyChanges ps rs v t := by rw [ht]; exact hk v
  have o12 : OnlyChanges [.queues, .slots, .flights] [] s v :=
    (o1.mono (by decide) (by simp)).trans (o2.mono (by decide) (by simp))
  refine ⟨⟨(hl1.trans (o2.part .queues (by decide)) (o2.part .slots (by decide))).trans (o3.part .queues h1)
    (o3.part .slots h2), ?_⟩, ?_, v, ht, o12⟩
  · have last : LastFlight (IssuedAs op die q d s) v := ⟨u.cp.flights, _, by rw [← hv]; simp, h.newFlight⟩
    have last' := hl v o12 last
    rw [← ht] at last'
    obtain ⟨l, f, e, hf⟩ := last'
    exact ⟨f, by simp [e], hf⟩
  · refine (o12.mono ?_ (List.nil_subset _)).trans (o3.mono ?_ (List.Subset.refl _))
    · exact List.subset_append_right _ _
    · exact List.subset_append_left _ _

/-- A command whose units start at issue and which does nothing else then. -/
theorem Ready.issued_units {op die q : Nat} {d : Desc} {s : State} (h : Ready s op die q d) (hop : op ≠ 0xF0)
    (ha : atIssue op = false) {rs : List RegAt}
    (hin : ∀ u ∈ unitsOf s die (patchDesc d (patchRegOf s die d)), ∀ r e i hi, injectReg u = some (r, e, i, hi) →
      (r, e % 16, none) ∈ rs ∨ (r, e % 16, some 0) ∈ rs) :
    let t := (opcodeRow op die q startUnits).run s
    Issued op die q d s t ∧ OnlyChanges issueParts (alsoRegs recRegs rs) s t := by
  have hc := h.newFlight
  obtain ⟨a, b, -⟩ := h.issued hop ha startUnits (ps := recParts ++ [.flights]) (rs := recRegs ++ rs) (by
    refine keeps_each_mem fun u hu => keeps_startUnit (by decide) (by decide) (List.subset_append_left _ _)
      fun r e i hi he => ?_
    have := hin u.key (by rw [← hc.2.2.1, ← hc.2.2.2.2]; exact List.mem_map_of_mem hu) r e i hi he
    exact this.imp (List.mem_append_right _) (List.mem_append_right _)) (by decide) (by decide)
    (fun u _ hl => LastFlight.each _ _ (fun a s hs => LastFlight.startUnit (fun _ _ => IssuedAs.putUnit) hs) u hl)
  exact ⟨a, b.mono (by decide) (List.Subset.refl _)⟩

/-- The engines a matrix command names are engines of its die. -/
theorem engines_of_die {s : State} {die j i : Nat} (h : engMap s die j = some i) : i < 24 := by
  simp only [engMap, Bool.and_eq_true, decide_eq_true_eq] at h
  repeat' (split at h <;> try cases h)
  all_goals rename_i hb; exact hb.1

end Sys2Proof.Machine
end

