-- ==== Sys2Proof/WellFormed.lean ====
section
/-!
DEFINITION. Well-formed commands: what the operands of a row must satisfy beyond their types. Widths and index ranges
are in the types of `Instr`; here stand the relations: the number of readings a poll brings, the links a module has,
rows a command can name, the fields of a flit, a frame and an access.
-/
namespace Sys2Proof

/-- A wide port of the 16 (01 R26) or a narrow link of the three (R27), and one of its two directions. -/
def wfLink (l : Machine.D2D) : Bool :=
  decide (l.link < if l.narrow then 3 else 16) && decide (l.dir < 2)
/-- Repairs of wires belong to wide ports, lanes to narrow links, which have 32 (01 R27, R28, R41). A repair names one of eight
clock groups, one of its 128 data wires and one of its two spares, wires once each, and spares unless a group has too many failed wires for its two (R39, R41). -/
def wfTrain (l : Machine.D2D) (r : Machine.TrainResult) : Bool :=
  decide (r.lanes ≤ 32) && (!l.narrow || r.repairs.isEmpty) &&
    (r.repairs.all fun e => decide (e.1 < 8) && decide (e.2.1 < 128) && decide (e.2.2 / 2 = e.1)) &&
    decide ((r.repairs.map fun e => (e.1, e.2.1)).Nodup) && (decide ((r.repairs.map fun e => e.2.2).Nodup) || (List.range 8).any fun g => decide (2 < (r.repairs.filter fun e => e.1 = g).length))
/-- Rows of a row command, each named once in ascending order (05 R157: at most 1,048,575). -/
def wfRows (rows : List Nat) : Bool := decide (rows.Pairwise (· < ·)) && rows.all fun r => decide (r < 2 ^ 20)
/-- A command that met an error is a command of a queue. -/
def wfClient (c : Machine.Client) : Bool :=
  match c with
  | .command die q _ => decide (die < 4) && decide (q < 16)
  | .prefetch | .host | .scrub => true
/-- An error flips bits of bytes of a line, its check bytes or its virtual symbols (08 R299). -/
def wfError (e : List (Nat × Nat)) : Bool := e.all fun x => decide (x.1 < 276) && decide (x.2 < 256)
/-- A flit holds 256 bytes (09 R337). -/
def wfFlit (f : Machine.Flit) : Bool := decide (f.data < 2 ^ 2048)
/-- Fields of a frame: 48-bit address, 16-bit tag and port, one-byte protocol, 128-bit source (13 R503, R506). -/
def wfFrame (f : Machine.Frame) : Bool :=
  decide (f.dstMac < 2 ^ 48) && (f.vlan.all fun v => decide (v < 2 ^ 16)) && decide (f.nextHdr < 256) &&
    decide (f.srcIp < 2 ^ 128) && decide (f.udpPort < 2 ^ 16)
/-- An access has at least one byte, and a write has a byte of data for each. -/
def wfAccess (a : Machine.Access) : Bool :=
  decide (0 < a.size) && a.data.all fun bs => decide (bs.length = a.size)
/-- A cell of a tile of 128 × 256 elements and one of at most 2^19 groups (03 R89, R113). -/
def wfCell (c : Machine.CellFault) : Bool := decide (c.m < 128) && decide (c.n < 256) && decide (c.g < 2 ^ 19)
def wfFault (c : Machine.TileFault) : Bool := (c.adder ++ c.copy ++ c.value ++ c.lane).all wfCell

/-- Whether a command is well formed. -/
def Instr.wf : Instr → Bool
  | .mmF _ _ => true
  | .mmB _ _ => true
  | .vecEw _ _ => true
  | .redRow _ _ => true
  | .redCol _ _ => true
  | .rowLnF _ _ => true
  | .rowLnB _ _ ecc _ => wfRows ecc
  | .rowRmsF _ _ => true
  | .rowRmsB _ _ ecc _ => wfRows ecc
  | .rowSmaxF _ _ => true
  | .rowSmaxB _ _ ecc _ => wfRows ecc
  | .rowXentF _ _ => true
  | .rowXentB _ _ ecc _ => wfRows ecc
  | .rowActd _ _ => true
  | .rowProg _ _ ecc _ => wfRows ecc
  | .dmaCopy _ _ => true
  | .dmaGather _ _ => true
  | .dmaFill _ _ => true
  | .pfStream _ _ => true
  | .pfCancel _ _ => true
  | .colRs _ _ => true
  | .colAg _ _ => true
  | .colAr _ _ => true
  | .colBcast _ _ => true
  | .colReduce _ _ => true
  | .colSend _ _ => true
  | .colRecv _ _ => true
  | .colA2aD _ _ => true
  | .colA2aC _ _ => true
  | .colPermute _ _ => true
  | .colXdr _ _ => true
  | .updApply _ _ => true
  | .updGatheradd _ _ => true
  | .updFactor _ _ => true
  | .updSnap _ _ => true
  | .flagWait _ _ => true
  | .flagSignal _ _ => true
  | .patchLd _ _ => true
  | .patchSet _ _ => true
  | .digFold _ _ => true
  | .digMirror _ _ => true
  | .stepEnd _ _ => true
  | .stepVerdict _ _ => true
  | .stepShade _ _ => true
  | .stepNop _ _ => true
  | .commandFetch _ _ => true
  | .commandComplete _ _ _ => true
  | .flagSignalArrive _ => true
  | .commandOverrun _ _ _ => true
  | .umbraAbort _ => true
  | .programLoad => true
  | .umbraCfgWrite _ _ => true
  | .mmeTileDone _ _ flt => wfFault flt
  | .mmeInjectArm _ _ => true
  | .vecChunkDone _ _ _ => true
  | .redFoldDone _ _ _ => true
  | .vecInjectArm _ _ => true
  | .rowChunkDone _ _ _ => true
  | .rowInjectArm _ _ => true
  | .updBlockDone _ _ _ => true
  | .updFactorBlockDone _ _ => true
  | .updInjectArm _ _ => true
  | .bounceSpaceFreed _ _ => true
  | .snapStreamItem => true
  | .sealBlock => true
  | .spbDeadlineExpire => true
  | .verdictPacket => true
  | .jobVerdictArrive => true
  | .verdictTimeout => true
  | .readyPacket => true
  | .barrierReady => true
  | .barrierRelease => true
  | .barrierWarnExpire => true
  | .stepSyncEdge => true
  | .stepSyncStuck => true
  | .stepSyncUnstuck => true
  | .noEdge => true
  | .releasePacket => true
  | .syncProbeTimer => true
  | .probeFlit _ _ => true
  | .echoFlit _ _ _ => true
  | .stepRecordCompose => true
  | .recordRingWrite => true
  | .prismChunkDone _ _ _ => true
  | .shadeWindowClose => true
  | .mandatoryItemPreempt _ res => decide (res < 73)
  | .d2dReplay l raw => wfLink l && decide (raw < 2 ^ if l.narrow then 2048 else 1024)
  | .d2dRecalibration l => wfLink l
  | .refreshInterval _ _ => true
  | .refreshRatePoll _ temps => decide (temps.length = 8)
  | .patrolScrubLine _ _ e1 e2 => wfError e1 && wfError e2
  | .memScrubLate _ => true
  | .memUe _ c errs => wfClient c && wfError errs.1 && wfError errs.2
  | .memCe read => wfError read.2
  | .memRecalibration _ _ => true
  | .memLoamUe _ _ c => wfClient c
  | .prefetchLineFill _ _ errs => wfError errs.1 && wfError errs.2
  | .primedLineExpire _ _ => true
  | .tgGo _ _ _ => true
  | .tgStop _ _ _ => true
  | .memTgDone _ _ fails => fails.Pairwise (· < ·)
  | .torusHello _ _ _ _ _ _ => true
  | .portEnableWrite _ _ => true
  | .dataFlitReceive _ f => wfFlit f
  | .nakFlit _ _ => true
  | .torusDown _ => true
  | .netLinkDown _ _ => true
  | .packetRoute _ _ _ => true
  | .congestionDetour _ _ _ => true
  | .cFlitArrive => true
  | .qRequest => true
  | .pReply => true
  | .netQTimeout _ => true
  | .noticePkt => true
  | .cwritePkt => true
  | .slotSwapRequest _ _ => true
  | .slotTableSwap _ => true
  | .rtSwapRequest _ => true
  | .netRtSwap => true
  | .frameRealign => true
  | .congestionSample => true
  | .groupSwapRequest _ => true
  | .setupPacket => true
  | .creditPacket => true
  | .colDataPacket _ => true
  | .abortPacket => true
  | .colTimeout _ _ _ => true
  | .colInjectArm _ _ => true
  | .hostWindowAAccess a => wfAccess a
  | .hostWindowBAccess a => wfAccess a
  | .msixSend _ => true
  | .msixHoldoffEnd _ => true
  | .hstLinkUp r w _ => decide (1 ≤ r.val) && decide (1 ≤ w.val)
  | .hstLinkDown => true
  | .setEndpointId _ _ => true
  | .getEndpointId _ => true
  | .getEndpointUuid _ => true
  | .getMctpVersionSupport _ _ => true
  | .getMessageTypeSupport _ => true
  | .getVendorDefinedMsgSupport _ _ => true
  | .mctpUnsupportedCmd _ _ => true
  | .hstMctpDropped _ => true
  | .getHealth _ => true
  | .readRecords _ _ _ => true
  | .readControl _ _ _ => true
  | .mctpReset _ _ _ => true
  | .ethLinkUp _ _ => true
  | .ethLinkDown _ => true
  | .ethFrameReceive _ f => wfFrame f
  | .sessionOpen _ => true
  | .sessionClose _ => true
  | .openPkt => true
  | .openAckPkt => true
  | .dataPkt => true
  | .ackPkt => true
  | .closePkt => true
  | .keepalivePkt => true
  | .openRetryTimer _ => true
  | .ethOpenTimeout _ => true
  | .ethRto _ _ => true
  | .keepaliveTimer _ => true
  | .xferGo _ => true
  | .recordWrite _ => true
  | .recDropped _ => true
  | .recIrqDelayExpire => true
  | .rcRegisterRead _ _ => true
  | .registerWrite _ _ _ _ => true
  | .resetNAssert _ _ => true
  | .resetNRelease => true
  | .aonPowerOnReset _ _ => true
  | .pwrInputFault lvl _ => decide (lvl ≠ .inRange)
  | .inputBackInRange _ => true
  | .pwrVbakLow _ => true
  | .pwrRailFault _ _ _ => true
  | .rstCmdFull => true
  | .rstCmdStructural => true
  | .rstCmdLink => true
  | .rstCmdCore => true
  | .rstCmdManagement => true
  | .loamWritebackDone => true
  | .onakanWatchdog => true
  | .perst => true
  | .pcieHotReset => true
  | .domainRelease => true
  | .rootPllLock => true
  | .imageVerifyBoot => true
  | .identityKeyDerive => true
  | .d2dTrainingDone l r => wfLink l && wfTrain l r
  | .channelTrainingDone _ _ _ => true
  | .memoryFillDone => true
  | .rstStepReady => true
  | .startTimeout => true
  | .aonRestart => true
  | .forceRecovery _ => true
  | .imgVerify => true
  | .imgCommit _ => true
  | .enroll => true
  | .revoke _ => true
  | .raiseSvn => true
  | .powerWindow _ => true
  | .hardCurrentLimit _ => true
  | .sensorSample temps => decide (temps.length = 28)
  | .thermalTick => true
  | .thmMemHot _ => true
  | .thmSensorFail _ => true
  | .thmTrip _ _ => true
  | .tripCooldownPoll temps => decide (temps.length = 28)
  | .gateWindowStart => true
  | .gateHoldStart => true
  | .clkSyncRefLost => true
  | .clkSyncRefBack => true
  | .clkRootUnlock => true
  | .serdesUnlock _ => true
  | .clkRefclkLost => true
  | .lowWordRead _ => true
  | .flitSlot _ => true
  | .idleFlit _ f => wfFlit f
  | .tracePkt _ => true
  | .zqCalibration _ _ => true
  | .mandatoryItemDone _ res => decide (res < 73)
  | .perstDeassert => true
  | .pllLockTimeout => true
  | .xtalFail => true
  | .aonSupplyLost => true
  | .serdesRelock _ => true
  | .ethAckTimer _ => true
  | .currentLimitHoldEnd => true

end Sys2Proof
end

