-- ==== Sys2Proof/Tests/Slice0.lean ====
section
/-!
SUPPORT. Tests of the model, each on one step of a small state: ill-formed commands that `Instr.wf` refuses, results worked
out by hand from the spec, and for every statement of Certificates/Slice0/Obligations.lean with hypotheses a state and
operands that meet them, clause by clause.
-/
namespace Sys2Proof.Test
set_option Elab.async false
open Sys2Proof.Machine

/-! ## Small states -/

/-- A state with some registers set: name, die, index, value. -/
def onRegs (rs : List (RegName × Nat × Nat × Nat)) (s : State) : State :=
  { s with regs := rs.foldl (fun m e => mset e.1.resetVal m (regKey e.1 e.2.1 e.2.2.1) e.2.2.2) s.regs }

/-- Every domain out of reset, a start over, nothing in the recorder, 64 GiB homed on each M-die. -/
def up (rs : List (RegName × Nat × Nat × Nat)) : State :=
  onRegs ([(.RST_DOMAINS, 8, 0, 2 ^ 30 - 1), (.RST_STATUS, 8, 0, 2 ^ 31), (.MEM_HOME_SIZE, 4, 0, 2 ^ 36), (.MEM_HOME_SIZE, 5, 0, 2 ^ 36)] ++ rs)
    { State.reset with rst := { imageOk := true, keyDone := true }, recd := {} }

/-- A program in force, its first step released. -/
def running (rs : List (RegName × Nat × Nat × Nat)) : State :=
  { up ((.CMD_STATUS, 0, 0, 2 ^ 31) :: rs) with cp := { released := 1 } }

/-- A descriptor from its words. -/
def words (ws : List (Nat × Nat)) : Nat := (ws.map fun e => e.2 * 2 ^ (32 * e.1)).sum
def desc (ws : List (Nat × Nat)) : Desc := BitVec.ofNat 512 (words ws)

/-- A tensor of OUTER rows of INNER elements, its rows 128 bytes apart or packed. -/
def tensor (base stride fmt inner outer : Nat) (more : List (Nat × Nat)) : TDesc :=
  BitVec.ofNat 256 (words ([(0, base), (2, stride), (4, fmt * 2 ^ 24 + inner), (5, outer)] ++ more))
def tileT (i fmt inner outer : Nat) : TDesc := tensor (0x400000000000 + 0x1000 * i) 128 fmt inner outer []
def memT (base fmt inner outer : Nat) : TDesc := tensor base (4 * inner) fmt inner outer []

/-- Tensors of C-die 0. -/
def tensors : List (Nat × TDesc) :=
  [(1, tileT 1 1 1 1), (3, tileT 3 0 1 1), (4, tileT 4 0 1 1), (5, tileT 5 0 4 1), (6, tileT 6 0 4 1), (7, tileT 7 0 4 1), (8, tileT 8 0 4 1),
   (9, tileT 9 0x11 1 1), (10, memT 0x1000000 0 1 2), (11, memT 0x1001000 0 1 1), (12, memT 0x1002000 0 1 2), (13, memT 0x1003000 0x11 1 1),
   (14, memT 0x1004000 0 1 1), (15, tensor (0x400000000000 + 0x1000 * 15) 128 1 4 1 [(6, 2 ^ 31)]), (16, memT 0x1005000 0x11 4 1),
   (17, memT 0x1006000 0 1 1), (18, memT 0x1007000 0 1 1),
   (20, memT 0x300000 0x11 16 2), (21, memT 0x310000 0 1 1), (22, memT 0x320000 0 1 2),
   (30, memT 0x500000000000 0x11 1 1024), (31, memT 0x500000010000 0 0x100000 1)]

/-- A running state with a command at the head of queue 0 of C-die 0. -/
def head (ws : List (Nat × Nat)) (s : State := running []) : State :=
  { s with tensors := tensors, cp := { s.cp with queues := [(0, { len := 4 })], slots := [(0, [desc ws])] } }

/-- Memory with little-endian numbers at addresses: address, bytes, value. -/
def memory (xs : List (Nat × Nat × Nat)) : Mem := xs.foldl (fun m e => wrBytes m e.1 (leBytes e.2.1 e.2.2)) []

/-- Two regions: SGD with state in FP32, and with a preconditioner. -/
def regions : Mem :=
  memory [(0x300000, 8, 0x500000), (0x300008, 8, 6 * 2 ^ 48 + 0x510000), (0x300010, 8, 0x520000), (0x300020, 8, 0x530000),
    (0x300028, 8, 0x540000), (0x300038, 8, 4),
    (0x300040, 8, 2 * 2 ^ 56 + 0x600000), (0x300048, 8, 6 * 2 ^ 48 + 0x610000), (0x300050, 8, 0x620000), (0x300058, 8, 0x650000),
    (0x300060, 8, 0x630000), (0x300068, 8, 0x640000), (0x300070, 8, 0x660000), (0x300078, 8, 4)]

/-- A group of two modules in a ring on axis X. -/
def ring2 : List (RegName × Nat × Nat × Nat) := [(.COL_GROUP, 6, 0, 2 ^ 63 + 2 ^ 60 + 2 * 2 ^ 53 + 2 ^ 34 + 2 ^ 21)]

/-- A session group of two domains, this module the first, the other OPEN; alone, session 0 of a kind, OPEN. -/
def xdr2 : List (RegName × Nat × Nat × Nat) := [(.ETH_SESSION, 6, 0, 2 * 2 ^ 161 + 5 * 2 ^ 126), (.ETH_SESSION, 6, 1, 3 * 2 ^ 126 + 2 * 2 ^ 124)]
def session (kind : Nat) (more : Nat := 0) : RegName × Nat × Nat × Nat := (.ETH_SESSION, 6, 0, more + 2 ^ 129 + kind * 2 ^ 126 + 2 * 2 ^ 124)

/-! ## Witnesses: the machine, and commands at the head of a queue -/

/-- The state a command leaves. -/
def next (c : Instr) (s : State) : State := match exec c s with
  | .next t => t
  | _ => s
/-- The command at the head of queue 0 of C-die 0. -/
def headOf (s : State) : Desc := (slotsOf s 0 0).headD 0#512
/-- `Ready`, decided. -/
def readyB (s : State) (op : Nat) : Bool :=
  let d := headOf s
  decide (atHead s 0 0 = some d) && decide (dOpcode d = op) && decide ((queueOf s 0 0).lastIssue ≠ s.cc + 1) &&
    decide (openWaits (flagSeen s) d (queueOf s 0 0).step = []) && decide (allViols s 0 0 d = []) &&
    decide (patchEmpty d (patchRegOf s 0 d) = false ∧ snapOff s 0 0 d = false) && canStart s 0 d && !beaten s 0 0 d && !heldBack s 0 d
theorem ready_of {s : State} {op : Nat} (h : readyB s op = true) : Ready s op 0 0 (headOf s) := by
  simp only [readyB, Bool.and_eq_true, decide_eq_true_eq, Bool.not_eq_true'] at h
  exact ⟨h.1.1.1.1.1.1.1.1, h.1.1.1.1.1.1.1.2, h.1.1.1.1.1.1.2, h.1.1.1.1.1.2, h.1.1.1.1.2, h.1.1.1.2, h.1.1.2, h.1.2, h.2⟩

/-- One command of each opcode, legal and ready, and its state. -/
def op (n : Nat) (ws : List (Nat × Nat)) (s : State := running []) : State := head ((0, n * 2 ^ 24) :: ws) s
def sMmF := op 0x10 [(4, 0x10001), (5, 0x30000), (7, 1), (8, 1), (9, 1), (10, 1)]
def sMmB := op 0x11 [(4, 0x10001), (5, 0x30000), (7, 1), (8, 1), (9, 1), (10, 1)]
def sVecEw := op 0x20 [(4, 5), (5, 5), (6, 0x40001), (7, 1)]
def sRedRow := op 0x40 [(4, 5), (5, 3), (6, 0x40001), (7, 1)]
def sRedCol := op 0x41 [(4, 5), (5, 6), (6, 0x40001), (7, 1)]
def sRowLnF := op 0x50 [(4, 0x60005), (5, 7), (6, 8), (7, 2 ^ 26), (8, 4), (9, 1), (10, 0x100), (12, 0x3F800000)] (running [(.ROW_STAT_CFG, 0, 0, 4)])
def sRowLnB := op 0x51 [(4, 0x60005), (5, 7), (6, 8), (8, 4), (9, 1), (10, 0x100), (12, 0x3F800000)]
def sRowRmsF := op 0x52 [(4, 0x60005), (6, 8), (8, 4), (9, 1), (10, 0x100)]
def sRowRmsB := op 0x53 [(4, 0x60005), (5, 7), (6, 8), (8, 4), (9, 1), (10, 0x100)]
def sRowSmaxF := op 0x54 [(4, 5), (6, 8), (8, 4), (9, 1), (10, 0x100), (12, 0x3F800000)]
def sRowSmaxB := op 0x55 [(4, 0x60005), (6, 8), (8, 4), (9, 1), (10, 0x100), (12, 0x3F800000)]
def sRowXentF := op 0x56 [(4, 0x30005), (6, 4), (8, 4), (9, 1), (10, 0x100)]
def sRowXentB := op 0x57 [(4, 0x30005), (6, 8), (8, 4), (9, 1), (10, 0x100), (13, 0x3F800000)]
def sRowActd := op 0x58 [(4, 0x60005), (6, 8), (8, 4), (9, 1), (10, 0x101)]
def sRowProg := op 0x5F [(6, 8), (8, 4), (9, 1), (10, 0x101)]
  { running [] with img := { content := { rowPrograms := [(1, [⟨false, 0, 0, [], [], [(0, 8)], [], []⟩])] } } }
def sDmaCopy := op 0x60 [(4, 0x60005), (6, 1)]
def sDmaGather := op 0x61 [(4, 0x60005), (5, 9), (6, 1)]
def sDmaFill := op 0x62 [(4, 0x60000), (6, 1), (7, 0x3F800000)]
def sPfStream := op 0x68 [(4, 0x3B000A), (5, 1), (6, 1), (7, 1)]
def sPfCancel := op 0x69 [(4, 0x3B)]
def sColRs := op 0x70 [(4, 0xB000A), (7, 0x10000), (9, 1)] (running ring2)
def sColAg := op 0x71 [(4, 0xA000B), (7, 0x10000), (9, 1)] (running ring2)
def sColAr := op 0x72 [(4, 0xC000A), (7, 0x10000), (9, 1)] (running ring2)
def sColBcast := op 0x73 [(4, 0xC000A), (7, 0x10000)] (running ring2)
def sColReduce := op 0x74 [(4, 0xC000A), (7, 0x10000)] (running ring2)
def sColSend := op 0x78 [(4, 0xB), (6, 0x10100)] (running ring2)
def sColRecv := op 0x79 [(4, 0xB0000), (6, 0x10100)] (running ring2)
def sColA2aD := op 0x7A [(4, 0xD000B), (5, 0xD000D), (6, 0x10100), (7, 13)] (running ring2)
def sColA2aC := op 0x7B [(4, 0xD000B), (5, 0xD000D), (6, 0x10100), (7, 13)] (running ring2)
def sColPermute := op 0x7C [(4, 0xC000A), (5, 0x10), (6, 0x10000)] (running ring2)
def sColXdr := op 0x7E [(4, 0xC000A), (7, 0x2000000)] (running xdr2)
def sUpdApply := { op 0x80 [(4, 0x150016), (5, 0x10014)] with mem := regions }
def sUpdGatheradd := op 0x81 [(4, 0xB0011), (5, 0x10002)]
def sUpdFactor := { op 0x82 [(4, 0x150016), (5, 20), (6, 1)] with mem := regions }
def sUpdSnap := { op 0x83 [(4, 0x1E001F), (5, 20)] { running [(.MEM_LOAM_CFG, 4, 0, 1), session 1] with
  cp := { released := 1, steps := [(0, { spb := 2 ^ 64 })] } } with mem := regions }
def sFlagWait := op 0x90 []
def sFlagSignal := op 0x91 [(4, 0x18001), (5, 0x2A3FF)]
def sPatchLd := op 0x94 [(4, 0x70005), (5, 4)]
def sPatchSet := op 0x95 [(4, 255), (5, 9)]
def sDigFold := op 0xA0 [(4, 0x1000F)]
def sDigMirror := op 0xA1 [(4, 0x10000), (5, 1)] (running ring2)
def sVerdict := op 0xF1 []
def sShade := op 0xF2 [(4, 0x1000008)]
def sNop := op 0xF3 []

theorem wit_StepRunsFront : ({ State.reset with pending := [.barrierReady] } : State).pending = [.barrierReady] := rfl
theorem wit_EmptyQueueCountsOneCycle : State.reset.pending = [] := rfl
theorem inv_of {s : State} (h : (Memory.wf s.mem && mwf 0 s.flags && s.flags.all (fun e => decide (e.2 ≤ 0xFFFFFFFF)) && mrising s.regs &&
    mrising s.tensors && decide s.ms.poison.Nodup && s.fuses.graded) = true) : s.Inv := by
  simp only [Bool.and_eq_true, decide_eq_true_eq, List.all_eq_true] at h
  exact ⟨h.1.1.1.1.1.1, h.1.1.1.1.1.2, h.1.1.1.1.2, h.1.1.1.2, h.1.1.2, h.1.2, h.2⟩
/-- For StepKeepsInv and FlagsNeverFall. -/
theorem wit_StepKeepsInv : sFlagSignal.Inv ∧ ∃ t, step { sFlagSignal with pending := [.flagSignal 0 0] } = .next t :=
  ⟨inv_of (by decide +kernel), _, rfl⟩
theorem wit_FlagsNeverFall : (Instr.flagSignal 0 0).resets = false ∧ sFlagSignal.Inv ∧ ∃ t, exec (.flagSignal 0 0) sFlagSignal = .next t :=
  ⟨rfl, inv_of (by decide +kernel), _, rfl⟩
theorem wit_FusesOnlyBurn : (Instr.flagSignal 0 0).burns = false ∧ (∃ t, exec (.flagSignal 0 0) sFlagSignal = .next t) ∧
    let s := { State.reset with fuses := { owners := [some 5, none, none, none], revoked := 8 } }
    s.fuses.owners[0]? = some (some 5) ∧ s.fuses.revoked.testBit 3 = true ∧ ∃ t, exec (.revoke 0) s = .next t :=
  ⟨rfl, ⟨_, rfl⟩, rfl, rfl, _, rfl⟩
theorem wit_WritesTouchOnlyTheirBytes : Untouched [⟨8, 0, 32, 1⟩] 7 ∧ Untouched [⟨8, 0, 32, 1⟩] 12 := by
  constructor <;> intro w h <;> simp at h <;> subst h <;> decide
theorem wit_ControlCommandsIssue : Ready sFlagWait 0x90 0 0 (headOf sFlagWait) ∧ Ready sFlagSignal 0x91 0 0 (headOf sFlagSignal) ∧
    Ready sNop 0xF3 0 0 (headOf sNop) ∧ Ready sPatchSet 0x95 0 0 (headOf sPatchSet) ∧ Ready sShade 0xF2 0 0 (headOf sShade) ∧
    Ready sVerdict 0xF1 0 0 (headOf sVerdict) := by
  refine ⟨ready_of ?_, ready_of ?_, ready_of ?_, ready_of ?_, ready_of ?_, ready_of ?_⟩ <;> decide +kernel
theorem wit_EngineAndRowCommandsIssue : Ready sMmF 0x10 0 0 (headOf sMmF) ∧ Ready sMmB 0x11 0 0 (headOf sMmB) ∧
    Ready sVecEw 0x20 0 0 (headOf sVecEw) ∧ Ready sRedRow 0x40 0 0 (headOf sRedRow) ∧ Ready sRedCol 0x41 0 0 (headOf sRedCol) ∧
    Ready sDigFold 0xA0 0 0 (headOf sDigFold) := by
  refine ⟨ready_of ?_, ready_of ?_, ready_of ?_, ready_of ?_, ready_of ?_, ready_of ?_⟩ <;> decide +kernel
theorem wit_rows : Ready sRowLnF 0x50 0 0 (headOf sRowLnF) ∧ Ready sRowLnB 0x51 0 0 (headOf sRowLnB) ∧
    Ready sRowRmsF 0x52 0 0 (headOf sRowRmsF) ∧ Ready sRowRmsB 0x53 0 0 (headOf sRowRmsB) ∧ Ready sRowSmaxF 0x54 0 0 (headOf sRowSmaxF) ∧
    Ready sRowSmaxB 0x55 0 0 (headOf sRowSmaxB) ∧ Ready sRowXentF 0x56 0 0 (headOf sRowXentF) ∧
    Ready sRowXentB 0x57 0 0 (headOf sRowXentB) ∧ Ready sRowActd 0x58 0 0 (headOf sRowActd) ∧ Ready sRowProg 0x5F 0 0 (headOf sRowProg) := by
  refine ⟨ready_of ?_, ready_of ?_, ready_of ?_, ready_of ?_, ready_of ?_, ready_of ?_, ready_of ?_, ready_of ?_, ready_of ?_, ready_of ?_⟩ <;>
    decide +kernel
theorem wit_rows_claim : rowClaims (patchDesc (headOf sRowLnF) (patchRegOf sRowLnF 0 (headOf sRowLnF))) = true ∧
    slotReaders sRowLnF 0 (rSlot (patchDesc (headOf sRowLnF) (patchRegOf sRowLnF 0 (headOf sRowLnF)))) = [] := by decide +kernel
theorem placed_of {s : State} (h : (s.cp.flights.all (fun f => decide (f.pos < (queueOf s f.die f.q).head)) &&
    decide (s.cp.flights.Pairwise (fun f g => ¬ (f.die = g.die ∧ f.q = g.q ∧ f.pos = g.pos))) &&
    s.col.ops.all (fun o => s.cp.flights.any fun f => decide (f.die = o.die ∧ f.q = o.q ∧ f.pos = o.pos)) &&
    decide (s.col.ops.Pairwise (fun o p => ¬ (o.die = p.die ∧ o.q = p.q ∧ o.pos = p.pos)))) = true) : s.Placed := by
  simp only [Bool.and_eq_true, decide_eq_true_eq, List.all_eq_true, List.any_eq_true] at h
  exact ⟨h.1.1.1, h.1.1.2, h.1.2, h.2⟩
/-- A matrix command in flight. -/
theorem wit_StepKeepsPlaces : (next (.mmF 0 0) sMmF).Placed ∧ (next (.mmF 0 0) sMmF).cp.flights ≠ [] ∧
    ∃ t, step { next (.mmF 0 0) sMmF with pending := [.mmeTileDone 0 0 { compute := true }] } = .next t :=
  ⟨placed_of (by decide +kernel), by decide +kernel, _, rfl⟩
theorem wit_MoveCommandsIssue : Ready sDmaCopy 0x60 0 0 (headOf sDmaCopy) ∧ Ready sDmaGather 0x61 0 0 (headOf sDmaGather) ∧
    Ready sDmaFill 0x62 0 0 (headOf sDmaFill) ∧ Ready sPatchLd 0x94 0 0 (headOf sPatchLd) ∧ Ready sPfStream 0x68 0 0 (headOf sPfStream) ∧
    Ready sPfCancel 0x69 0 0 (headOf sPfCancel) := by
  refine ⟨ready_of ?_, ready_of ?_, ready_of ?_, ready_of ?_, ready_of ?_, ready_of ?_⟩ <;> decide +kernel
/-- What MoveCommandsIssue asks of the lines read: none is marked in these states. -/
theorem wit_moves : (∀ r < (tget sDmaCopy 0 6).outer, firstMarked sDmaCopy (rowRuns (tget sDmaCopy 0 5) r) = none) ∧
    firstMarked sDmaGather (tget sDmaGather 0 9).runs = none ∧
    ∀ x ∈ (List.range (tget sDmaGather 0 6).outer).map fun i => rdInt sDmaGather.mem (tget sDmaGather 0 9) 0 i,
      0 ≤ x ∧ x < ((tget sDmaGather 0 5).outer : Int) ∧ firstMarked sDmaGather (rowRuns (tget sDmaGather 0 5) x.toNat) = none := by
  decide +kernel
theorem wit_CollectiveCommandsIssue : Ready sColRs 0x70 0 0 (headOf sColRs) ∧ Ready sColAg 0x71 0 0 (headOf sColAg) ∧
    Ready sColAr 0x72 0 0 (headOf sColAr) ∧ Ready sColBcast 0x73 0 0 (headOf sColBcast) ∧ Ready sColReduce 0x74 0 0 (headOf sColReduce) ∧
    Ready sColSend 0x78 0 0 (headOf sColSend) ∧ Ready sColRecv 0x79 0 0 (headOf sColRecv) ∧ Ready sColA2aD 0x7A 0 0 (headOf sColA2aD) ∧
    Ready sColA2aC 0x7B 0 0 (headOf sColA2aC) ∧ Ready sColPermute 0x7C 0 0 (headOf sColPermute) ∧
    Ready sDigMirror 0xA1 0 0 (headOf sDigMirror) ∧ Ready sColXdr 0x7E 0 0 (headOf sColXdr) := by
  refine ⟨ready_of ?_, ready_of ?_, ready_of ?_, ready_of ?_, ready_of ?_, ready_of ?_, ready_of ?_, ready_of ?_, ready_of ?_, ready_of ?_,
    ready_of ?_, ready_of ?_⟩ <;> decide +kernel
/-- The rest of what CollectiveCommandsIssue asks: places, nothing early or open, no marked line. -/
theorem wit_collectives : [sColRs, sColAg, sColAr, sColBcast, sColReduce, sColSend, sColRecv, sColA2aD, sColA2aC, sColPermute, sDigMirror, sColXdr].all
    (fun s => s.cp.flights.isEmpty && s.col.ops.isEmpty && s.col.early.isEmpty && s.col.xdrEarly.isEmpty && s.ms.poison.isEmpty) = true := by
  decide +kernel
theorem wit_UpdateCommandsIssue : Ready sUpdApply 0x80 0 0 (headOf sUpdApply) ∧ Ready sUpdGatheradd 0x81 0 0 (headOf sUpdGatheradd) ∧
    Ready sUpdFactor 0x82 0 0 (headOf sUpdFactor) ∧ Ready sUpdSnap 0x83 0 0 (headOf sUpdSnap) := by
  refine ⟨ready_of ?_, ready_of ?_, ready_of ?_, ready_of ?_⟩ <;> decide +kernel
/-- Under a verdict known, and with none. -/
theorem wit_verdicts : verdictOf sUpdApply 0 = none ∧ verdictOf sUpdFactor 0 = none ∧ ∀ v ∈ [0, 1, 2],
    let known (s : State) : State := { s with cp := { s.cp with steps := [(0, { verdict := some v })] } }
    verdictOf (known sUpdApply) 0 = some v ∧ verdictOf (known sUpdFactor) 0 = some v ∧
      readyB (known sUpdApply) 0x80 = true ∧ readyB (known sUpdFactor) 0x82 = true := by decide +kernel

/-! ## Witnesses: streams, completion, flags, loads -/

/-- A command in flight at place 0 of queue 0 of C-die 0, whose units are done. -/
def flight (op : Nat) (d : Nat := 0) (more : Flight → Flight := id) : Flight :=
  more { die := 0, q := 0, pos := 0, sq := 0, op := op, desc := BitVec.ofNat 512 d, stored := BitVec.ofNat 512 d, issue := 0, boundFrom := some 0 }
def flying (f : Flight) (s : State := running []) : State :=
  { s with tensors := tensors, cp := { s.cp with queues := [(0, { len := 4, head := 1 })], flights := [f] } }

/-- STEP.END that waits for a command in flight; that waits for the barrier; that goes on. -/
def sEndBusy : State := let s := op 0xF0 []; { s with cp := { s.cp with released := 2, flights := [flight 0x20] } }
def sEndWait : State := op 0xF0 []
def sEndGo : State := let s := op 0xF0 []; { s with cp := { s.cp with released := 2 } }
/-- A queue that holds 511 commands. -/
def sFetch : State := { running [] with cp := { released := 1, queues := [(0, { len := 4 })], slots := [(0, List.replicate 511 0#512)] } }
theorem wit_StreamsAdvance :
    (∀ s ∈ [sEndBusy, sEndWait], ∃ d, atHead s 0 0 = some d ∧ dOpcode d = 0xF0 ∧ (queueOf s 0 0).lastIssue ≠ s.cc + 1 ∧
      ¬ (flightsOf s 0 0 = [] ∧ (queueOf s 0 0).step + 1 < s.cp.released)) ∧
    atHead sEndGo 0 0 = some (headOf sEndGo) ∧ dOpcode (headOf sEndGo) = 0xF0 ∧ (queueOf sEndGo 0 0).lastIssue ≠ sEndGo.cc + 1 ∧
    flightsOf sEndGo 0 0 = [] ∧ (queueOf sEndGo 0 0).step + 1 < sEndGo.cp.released ∧
    openWaits (flagSeen sEndGo) (headOf sEndGo) 0 = [] ∧ allViols sEndGo 0 0 (headOf sEndGo) = [] ∧
    progLoaded sFetch = true ∧ 0 < (queueOf sFetch 0 0).len ∧ (slotsOf sFetch 0 0).length + (flightsOf sFetch 0 0).length < 512 ∧
    underTest sFetch (64 * 3) 64 = false ∧ firstMarked sFetch [(64 * 3, 64)] = none := by
  refine ⟨?_, by decide +kernel⟩
  intro s h
  simp only [List.mem_cons, List.not_mem_nil, or_false] at h
  rcases h with rfl | rfl <;> exact ⟨desc [(0, 0xF0 * 2 ^ 24)], by decide +kernel⟩

/-- VEC.EW with no rows. -/
def sIllegal : State := op 0x20 [(4, 5), (5, 5), (7, 1)]
theorem wit_IllegalCommandIsSkipped : (Instr.vecEw 0 0).opcode = some (0x20, 0, 0) ∧ atHead sIllegal 0 0 = some (headOf sIllegal) ∧
    dOpcode (headOf sIllegal) = 0x20 ∧ (0x20 : Nat) ≠ 0xF1 ∧ (queueOf sIllegal 0 0).lastIssue ≠ sIllegal.cc + 1 ∧
    openWaits (flagSeen sIllegal) (headOf sIllegal) (queueOf sIllegal 0 0).step = [] ∧
    firstViol (allViols sIllegal 0 0 (headOf sIllegal)) = some ⟨30, 1, 6, 0⟩ := by decide +kernel

/-- A STEP.END whose header has a reserved bit set. -/
def sEndIllegal : State := op 0xF0 [(0, 2 ^ 20)]
theorem wit_skippedEnd : atHead sEndIllegal 0 0 = some (headOf sEndIllegal) ∧ dOpcode (headOf sEndIllegal) = 0xF0 ∧
    (queueOf sEndIllegal 0 0).lastIssue ≠ sEndIllegal.cc + 1 ∧ (queueOf sEndIllegal 0 0).atEnd = false ∧
    openWaits (flagSeen sEndIllegal) (headOf sEndIllegal) 0 = [] ∧ (firstViol (allViols sEndIllegal 0 0 (headOf sEndIllegal))).isSome = true ∧
    ¬ (flightsOf sEndIllegal 0 0 = [] ∧ (queueOf sEndIllegal 0 0).step + 1 < sEndIllegal.cp.released) := by decide +kernel
/-- What UnitsStartAtIssue asks besides: the opcode, and units named once. -/
theorem wit_UnitsStartAtIssue : ([(Instr.mmF 0 0, sMmF), (.mmB 0 0, sMmB), (.vecEw 0 0, sVecEw), (.redRow 0 0, sRedRow), (.redCol 0 0, sRedCol),
      (.rowLnF 0 0, sRowLnF), (.rowLnB 0 0 [] 0, sRowLnB), (.rowRmsF 0 0, sRowRmsF), (.rowRmsB 0 0 [] 0, sRowRmsB), (.rowSmaxF 0 0, sRowSmaxF),
      (.rowSmaxB 0 0 [] 0, sRowSmaxB), (.rowXentF 0 0, sRowXentF), (.rowXentB 0 0 [] 0, sRowXentB), (.rowActd 0 0, sRowActd),
      (.rowProg 0 0 [] 0, sRowProg), (.updGatheradd 0 0, sUpdGatheradd), (.digFold 0 0, sDigFold)] : List (Instr × State)).all (fun e =>
    decide (e.1.opcode = some (dOpcode (headOf e.2), 0, 0)) && readyB e.2 (dOpcode (headOf e.2)) &&
      decide (unitsOf e.2 0 (patchDesc (headOf e.2) (patchRegOf e.2 0 (headOf e.2)))).Nodup) = true := by decide +kernel

def fVec : Flight := flight 0x20 (words [(0, 0x20 * 2 ^ 24), (4, 5), (5, 5), (6, 0x40001), (7, 1)])
def sDone : State := flying fVec
def sDoneSkipped : State := flying { fVec with skip := some 0x11 }
theorem wit_IssuedCommandsComplete : (findFlight sDone 0 0 0 = some fVec ∧ fVec.workDone = true ∧ fVec.slotWait = false ∧ fVec.skip = none ∧
      isRowOp fVec.op = false ∧ fVec.op ≠ 0x80 ∧ fVec.op ≠ 0x82 ∧ fVec.op ≠ 0xA0 ∧ findOp sDone 0 0 0 = none ∧
      (queueOf sDone 0 0).atEnd = false ∧ (opOutputs sDone 0 fVec.desc).Nodup) ∧
    (findFlight sDoneSkipped 0 0 0 = some { fVec with skip := some 0x11 } ∧ findOp sDoneSkipped 0 0 0 = none ∧
      (queueOf sDoneSkipped 0 0).atEnd = false) := by decide +kernel

/-- A flag that saturates on C-die 0, and one of L1. -/
def sSignal : State := let s := running []; { s with flags := [(3, 0xFFFFFFFE)], cp := { s.cp with signals := [⟨0, 3, 2, 1⟩, ⟨7, 1023, 255, 1⟩] } }
theorem wit_SignalsReachFlags : (∀ g ∈ sSignal.cp.signals, openRoute sSignal (dieRoute clCoh g.src g.die) = true) ∧ sSignal.cp.signals[0]? = some ⟨0, 3, 2, 1⟩ ∧ 0xFFFFFFFF < mget 0 sSignal.flags 3 + 2 ∧
    sSignal.cp.signals[1]? = some ⟨7, 1023, 255, 1⟩ ∧ (∃ t, exec (.flagSignalArrive 1) sSignal = .next t) ∧ sSignal.pending = [] ∧
    ∃ t, step sSignal = .next t := ⟨by decide +kernel, rfl, by decide +kernel, rfl, ⟨_, rfl⟩, rfl, _, rfl⟩
theorem wit_OverrunIsCountedOnce : findFlight sDone 0 0 0 = some fVec ∧ fVec.boundFrom = some 0 ∧ fVec.stopAt = 0 ∧ fVec.late = false ∧
    findFlight (flying { fVec with late := true }) 0 0 0 = some { fVec with late := true } := by decide +kernel

/-- Two queues of wait group 3: one waits for flag 5 of its die, one at STEP.END. -/
def sStall : State :=
  let qs : List (Nat × Queue) := [(0, { len := 4, grouped := true, group := 3 }), (17, { len := 1, grouped := true, group := 3, atEnd := true })]
  { running [] with cp := { released := 1, queues := qs, slots := [(0, [desc [(0, 0x90 * 2 ^ 24), (1, 0x8005), (2, 1)]])] } }
theorem wit_StalledGroupsAbort : groupStalled sStall 3 = true := by decide +kernel

/-- A STEP.END at 0 and a STEP.VERDICT with one at 0x40; a header at 0x10000 with queue 0 of each C-die there, the others at
0, and empty tensor tables. -/
def program : Mem :=
  [(3, 0xF0#8), (0x43, 0xF1#8), (0x83, 0xF0#8), (0x10000, 0x38#8), (0x10001, 0x50#8), (0x10002, 0x42#8), (0x10003, 0x5A#8), (0x10004, 1#8),
    (0x10040, 0x40#8), (0x10140, 0x40#8), (0x10240, 0x40#8), (0x10340, 0x40#8), (0x10440, 0x20#8), (0x1044C, 0x20#8), (0x10458, 0x20#8),
    (0x10464, 0x20#8), (0x10448, 1#8), (0x10454, 1#8), (0x10460, 1#8), (0x1046C, 1#8)] ++
    (List.range 64).map fun i => (0x10048 + 16 * i, if i % 16 = 0 then 2#8 else 1#8)
def sLoad : State := { up [(.CMD_PROG_BASE, 0, 0, 0x10000)] with mem := program }
theorem unlisted {m : Mem} {lo hi : Nat} (h : (m.all fun e => decide (e.1 < lo ∨ hi ≤ e.1)) = true) (k : Nat) (h1 : lo ≤ k) (h2 : k < hi) :
    rdByte m k = 0#8 := by
  unfold rdByte
  induction m with
  | nil => rfl
  | cons e t ih =>
    simp only [List.all_cons, Bool.and_eq_true, decide_eq_true_eq] at h
    simp only [mget]
    rw [if_neg (by omega), ih h.2]
/-- No flag of the program has a class. -/
theorem sLoad_classes (j : Nat) (h : j < 20480) : hdrClass sLoad 0x10000 j = 0 := by
  have u := @unlisted sLoad.mem 0x10480 0x20000 (by decide +kernel)
  have : rdBytes sLoad.mem (0x10000 + 0x480 + 3 * j / 8) 2 = [0#8, 0#8] := by
    simp only [rdBytes, List.range, List.range.loop, List.map, u _ (show 0x10480 ≤ 0x10000 + 0x480 + 3 * j / 8 + 0 by omega) (by omega),
      u _ (show 0x10480 ≤ 0x10000 + 0x480 + 3 * j / 8 + 1 by omega) (by omega)]
  simp only [hdrClass, rdNat, this]
  simp [leNat]
theorem sLoad_queues : ∀ n < 4, ∀ q < 16, hdrQueue sLoad 0x10000 n q = if q = 0 then 0x40 + 2 * 2 ^ 64 else 2 ^ 64 := by decide +kernel
theorem sLoad_streams : dOpcode (BitVec.ofNat 512 (rdNat sLoad.mem (0x40 + 64 * 0) 64)) = 0xF1 ∧
    dOpcode (BitVec.ofNat 512 (rdNat sLoad.mem (0x40 + 64 * 1) 64)) = 0xF0 ∧
    dOpcode (BitVec.ofNat 512 (rdNat sLoad.mem (0 + 64 * 0) 64)) = 0xF0 := by decide +kernel
theorem sLoad_entry : (qeBase (0x40 + 2 * 2 ^ 64) = 0x40 ∧ qeLen (0x40 + 2 * 2 ^ 64) = 2) ∧ qeBase (2 ^ 64) = 0 ∧ qeLen (2 ^ 64) = 1 := by decide
theorem sLoad_legal : headerLegal sLoad 0x10000 = true := by
  unfold headerLegal
  refine Bool.and_eq_true_iff.mpr ⟨Bool.and_eq_true_iff.mpr ⟨Bool.and_eq_true_iff.mpr ⟨by decide +kernel, ?_⟩, ?_⟩, ?_⟩
  · refine List.all_eq_true.mpr fun e he => ?_
    obtain ⟨a, ha, b, hb, rfl⟩ : ∃ a, a < 4 ∧ ∃ b, b < 16 ∧ (a, b) = e := by
      simpa [allQueues] using he
    simp only [sLoad_queues a ha b hb]
    by_cases hb : b = 0
    · simp only [if_pos hb, sLoad_entry, Nat.reduceSub, List.range, List.range.loop, List.all_cons, List.all_nil, sLoad_streams]
      decide +kernel
    · simp only [if_neg hb, sLoad_entry, Nat.reduceSub, List.range, List.range.loop, List.all_nil, sLoad_streams]
      decide +kernel
  · refine List.all_eq_true.mpr fun j hj => ?_
    rw [sLoad_classes j (List.mem_range.mp hj)]
    rfl
  · refine List.all_eq_true.mpr fun n hn => List.any_eq_true.mpr ⟨0, by decide, List.any_eq_true.mpr ⟨0, ?_⟩⟩
    have e := sLoad_queues n (List.mem_range.mp hn) 0 (by decide)
    rw [if_pos rfl] at e
    simp only [e, sLoad_entry, sLoad_streams]
    decide +kernel
theorem wit_ProgramsLoad : loadRefusal (up []) (rget (up []) .CMD_PROG_BASE 0 0) = some 1 ∧ loadRefusal sLoad (rget sLoad .CMD_PROG_BASE 0 0) = none := by
  refine ⟨by decide +kernel, ?_⟩
  have : rget sLoad .CMD_PROG_BASE 0 0 = 0x10000 := by decide +kernel
  rw [this]
  unfold loadRefusal
  rw [sLoad_legal]
  decide +kernel
def sShades : State := { up [] with cp := { shades := [⟨1, 9⟩, ⟨2, 5⟩, ⟨4, 9⟩] } }
theorem wit_ShadeWindowCloses : sShades.cp.shades = ⟨1, 9⟩ :: [⟨2, 5⟩, ⟨4, 9⟩] := rfl

/-! ## Witnesses: units at work -/

/-- A property of the work in hand of a unit, or of the fold it has due. -/
def atWork (s : State) (k : Nat) (p : Flight → UW → Bool) : Bool := match unitWork s k with
  | some (f, u) => p f u
  | none => false
def atFold (s : State) (k : Nat) (p : Flight → UW → Bool) : Bool := match foldWork s k with
  | some (f, u) => p f u
  | none => false
/-- Step 0 under COMMIT, with damping 1 for group 0. -/
def committed (s : State) : State :=
  { s with cp := { s.cp with steps := [(0, { verdict := some 0, spb := 0x3F800000 * 2 ^ (8 * 0x114) })] } }
def mapFlights (g : Flight → Flight) (s : State) : State := { s with cp := { s.cp with flights := s.cp.flights.map g } }

def sTile := next (.mmF 0 0) sMmF
def sFold := next (.digFold 0 0) sDigFold
/-- The oldest tile of matrix engine 0, whose checks pass or fail with some faults. -/
def tileChecked (x : TileFault) (fails : Bool) : Bool := atWork sTile 0 fun f u => match u.banks with
  | b0 :: _ =>
    let i := mmTileNo f.units.length (f.posOf 0) u.n
    let b := if b0.full then { b0 with acc := b0.drained f.desc i x } else b0.computed sTile.mem (tget sTile 0) f.desc i x
    u.started && !b0.pre && !b0.retried &&
      (tileFailure b (checksumFault f.desc i b.acc b.sums) (laneFault f.desc i x) x.ecc (mmRect f.desc i).2.2.1).isSome == fails
  | [] => false
theorem wit_CheckedWorkDone : sTile.Placed ∧ tileChecked {} false = true ∧ tileChecked { ecc := true } true = true ∧
    sFold.Placed ∧ (atWork sFold 40 fun _ u => u.started && !u.retried) = true :=
  ⟨placed_of (by decide +kernel), by decide +kernel, by decide +kernel, placed_of (by decide +kernel), by decide +kernel⟩
/-- The compute stage of that tile: the first of its unit's. -/
theorem wit_compute : sTile.Placed ∧ (match unitParts sTile 0 with
    | [(_, u)] => match u.banks with
      | b :: _ => !b.pre && !b.full
      | [] => false
    | _ => false) = true ∧ (((unitParts sTile 0).flatMap fun p => p.2.banks).filter fun c => c.full).length < 2 :=
  ⟨placed_of (by decide +kernel), by decide +kernel, by decide +kernel⟩

def sEw := next (.vecEw 0 0) sVecEw
/-- VEC.EW with its destination's scales down the columns: two rows are one unit of work. -/
def sEwPart : State := flying (flight 0x20 (words [(0, 0x20 * 2 ^ 24), (4, 5), (5, 5), (6, 0x40002), (7, 0x200001)])
  fun f => { f with units := [{ key := 24, total := 2, started := true }] })
def sRed := next (.redRow 0 0) sRedRow
def sRedFold := next (.vecChunkDone 0 0 none) sRed
def sRedCol' := next (.redCol 0 0) sRedCol
def redWork (s : State) : Bool := atWork s 24 fun f u => u.started && u.inj == 0 && !u.retried && !vIsEw f.desc
theorem wit_VectorWorkDone : sEw.Placed ∧ (atWork sEw 24 fun f u => u.started && u.inj == 0 && !u.retried && vIsEw f.desc &&
      (vLastOfWork f.desc f.units.length (f.posOf 24) u.n).1) = true ∧
    sEwPart.Placed ∧ (atWork sEwPart 24 fun f u => u.started && u.inj == 0 && !u.retried && vIsEw f.desc &&
      !(vLastOfWork f.desc f.units.length (f.posOf 24) u.n).1) = true ∧
    (sRed.Placed ∧ redWork sRed = true) ∧ (sRedCol'.Placed ∧ redWork sRedCol' = true) ∧
    sRedFold.Placed ∧ (atFold sRedFold 24 fun _ u => !u.retried && armedKind sRedFold 24 == none) = true := by
  exact ⟨placed_of (by decide +kernel), by decide +kernel, placed_of (by decide +kernel), by decide +kernel,
    ⟨placed_of (by decide +kernel), by decide +kernel⟩, ⟨placed_of (by decide +kernel), by decide +kernel⟩,
    placed_of (by decide +kernel), by decide +kernel⟩

/-- The three passes of ROW.LN.F over a row of one chunk. -/
def sRow0 := next (.rowLnF 0 0) sRowLnF
def sRow1 := next (.rowChunkDone 0 0 none) sRow0
def sRow2 := next (.rowChunkDone 0 0 none) sRow1
def rowWork (s : State) : Bool := atWork s 28 fun f u => let it := rowItem s f (f.posOf 28) (enterRow s f u).n
  u.started && u.inj == 0 && !u.retried && f.die == 0 && armedKind s 28 == none &&
    ((rowPasses s.mem (tget s 0) (progOf s f.desc) f.desc (lossScale s f.sq) u.bc it.1)[it.2.1]?).isSome
theorem wit_RowChunkDone : (sRow0.Placed ∧ rowWork sRow0 = true) ∧ (sRow1.Placed ∧ rowWork sRow1 = true) ∧ (sRow2.Placed ∧ rowWork sRow2 = true) :=
  ⟨⟨placed_of (by decide +kernel), by decide +kernel⟩, ⟨placed_of (by decide +kernel), by decide +kernel⟩,
    placed_of (by decide +kernel), by decide +kernel⟩

def sGather := next (.updGatheradd 0 0) sUpdGatheradd
def sApply := mapFlights (fun f => { f with begun := 1 }) (next (.updApply 0 0) (committed sUpdApply))
def sFactor := next (.updFactor 0 0) (committed sUpdFactor)
theorem wit_UpdateBlockDone : (sApply.Placed ∧ (atWork sApply 256 fun f u => let gb := u.work.getD u.n (0, 0)
      let r := readRegion sApply.mem (tget sApply f.die (uTbl f.desc)) gb.1
      u.started && !u.waits && u.inj == 0 && !u.retried && f.op == 0x80 &&
      (uRegions sApply.mem (tget sApply f.die) f.desc).all (fun x => x.2.owner != 0 || decide (gb.1 < x.1) || f.begun.testBit x.1) &&
      firstMarked sApply (r.runs gb.2 ++ [(r.grad + 4 * (r.span gb.2).1, 4 * ((r.span gb.2).2 - (r.span gb.2).1))]) == none &&
      !(applyBlock sApply.mem r (regionHyper sApply f r) gb.2).nonfinite && decide (bounceOf sApply r gb.2 = .free)) = true) ∧
    (sGather.Placed ∧ (atWork sGather 256 fun f u => let gb := u.work.getD u.n (0, 0)
      u.started && !u.waits && u.inj == 0 && !u.retried && f.op == 0x81 &&
      firstMarked sGather (gaRuns (tget sGather f.die) f.desc gb.2) == none && !(gaBlock sGather.mem (tget sGather f.die) f.desc gb.2).2) = true) ∧
    (sFactor.Placed ∧ (atWork sFactor 264 fun f u => let gb := u.work.getD u.n (0, 0)
      let r := readRegion sFactor.mem (tget sFactor f.die (uTbl f.desc)) gb.1
      u.started && !u.waits && u.inj == 0 && !u.retried && firstMarked sFactor [(r.state1 + gb.2 * triSize r.pb, triSize r.pb)] == none &&
      decide (bounceOf sFactor r (gb.2 * r.pb / r.block) = .free) &&
      decide ((factorBlock sFactor.mem r (spbField (spbBytes sFactor f.sq) r.group 5) gb.2).2 < 4)) = true) :=
  ⟨⟨placed_of (by decide +kernel), by decide +kernel⟩, ⟨placed_of (by decide +kernel), by decide +kernel⟩,
    placed_of (by decide +kernel), by decide +kernel⟩

/-- A unit that waits for bounce space. -/
def sBounce := mapFlights (fun f => { f with stopAt := 1, units := f.units.map fun u => { u with sc := [1] } }) sApply
/-- A snapshot streaming in a shade window. -/
def sSnap := let s := onRegs [(.UPD_SNAP_STATUS, 4, 0, 2)] (next (.updSnap 0 0) sUpdSnap)
  { s with cp := { s.cp with shades := [⟨0b10011, 100⟩] } }
def sSnapHeld := { sSnap with upd := { sSnap.upd with snapHeader := true, bounce := [(0, 0, 0, 16)] } }
def sSnapNext := { sSnap with upd := { sSnap.upd with snapHeader := true } }
theorem wit_SnapshotsProceed : sBounce.Placed ∧ (atWork sBounce 256 fun f u => let gb := u.work.getD u.n (0, 0)
      u.started && u.waits && f.op == 0x80 && !decide (bounceOf sBounce (readRegion sBounce.mem (tget sBounce f.die (uTbl f.desc)) gb.1) gb.2 = .full)) = true ∧
    (∀ s ∈ [sSnap, sSnapHeld, sSnapNext], s.upd.snapCount ≠ 0 ∧ streamOpen s = true ∧
      sesOpen s s.upd.snapSession = true ∧ sesRoom s s.upd.snapSession = true ∧ 1 < rfld s .UPD_SNAP_STATUS 4 0 39 0) ∧
    sSnap.upd.snapHeader = false ∧ sSnapHeld.upd.snapHeader = true ∧ nextBounce sSnapHeld = some (0, 0, 0, 16) ∧
    sSnapNext.upd.snapHeader = true ∧ sSnapNext.upd.bounce = [] ∧ nextUnsent sSnapNext = some (0, 0) ∧
    (∀ r ∈ (snapRegion sSnapNext 0).runs 0, badLines sSnapNext r.1 r.2 = []) := by
  refine ⟨placed_of ?_, ?_, ?_⟩ <;> decide +kernel

/-! ## Witnesses: the barrier, STEP_SYNC, the verdict -/

theorem wit_StepBlocksAreSealed : spbPending (up []) = false ∧ spbPending (up [(.UPD_STATUS, 4, 0, 2 ^ 28)]) = true ∧
    (let s := { up [] with cp := { deadline := 8 } }
     s.cp.deadline ≠ 0 ∧ rfld s .UPD_SPB_DEADLINE 4 0 31 0 ≠ 0 ∧ spbPending s = false) := by decide +kernel

/-- A module with a program that is ready but for nothing; one that knows T, with SS and B known, and whose READY bits disagree. -/
def sReady : State := { up [(.CMD_STATUS, 0, 0, 2 ^ 31), (.UPD_STATUS, 4, 0, 2 ^ 28), (.SYNC_STATUS, 6, 0, 2 ^ 31)] with cp := {} }
def sRelease : State := { sReady with sync := { readyAt := some 0, t := some 100, ready := { active := true, done := true } } }
def sReleaseB : State := { sReady with sync := { readyAt := some 0, t := some 100, b := some 200, ready := { ss := 1, orv := 1, andv := 1 } } }
def sReleaseMix : State := { sReady with sync := { readyAt := some 0, t := some 100, ready := { orv := 1 } } }
theorem wit_BarrierReleases : (alive sReady 4 = true ∧ progLoaded sReady = true ∧ sReady.sync.readyAt = none ∧ notReady sReady = 0 ∧
      sReady.sync.t = none) ∧
    (∀ e ∈ [(sRelease, 100), (sReleaseB, 200), (sReleaseMix, 100)], e.1.sync.t ≠ none ∧
      (if ssUsed e.1 then e.1.sync.b else e.1.sync.t) = some e.2) ∧
    (sRelease.sync.ready.orv = sRelease.sync.ready.andv ∧ sReleaseB.sync.ready.orv = sReleaseB.sync.ready.andv ∧
      sReleaseB.sync.ready.orv = 1 ∧ sReleaseMix.sync.ready.orv ≠ sReleaseMix.sync.ready.andv) ∧
    sRelease.sync.readyAt = some 0 ∧ rfld sRelease .SYNC_BARRIER_WARN 6 0 31 0 ≠ 0 ∧ sRelease.sync.warned = false := by decide +kernel

/-- The step master, its input stuck or not; before T is known, with T far off, at T. -/
def sEdge (stuck : Bool) (t : Option Nat) : State :=
  { up [(.SYNC_CTRL, 6, 0, 2 ^ 30 + 2 ^ 29), (.SYNC_STATUS, 6, 0, if stuck then 2 ^ 30 else 0)] with sync := { t := t, ready := { ss := 1 } } }
theorem wit_StepSyncSetsBoundary : (∀ e ∈ [(sEdge true none, true), (sEdge false none, false), (sEdge false (some (10 ^ 9)), false), (sEdge false (some 0), false)],
      alive e.1 4 = true ∧ ssMaster e.1 = true ∧ rbit e.1 .SYNC_STATUS 6 0 30 = e.2) ∧
    (sEdge false none).sync.t = none ∧ ssWindow (sEdge false (some (10 ^ 9))) < 10 ^ 9 ∧
    (let s := sEdge false (some (ssWindow (up []))); s.sync.t = some (s.sync.dt + ssWindow s) ∧ s.sync.lastAccepted = none ∧
      s.sync.edge = none ∧ s.sync.release.active = false) ∧
    (let s := sEdge false (some 0); s.sync.t = some 0 ∧ ssUsed s = true ∧ ssMaster s = true ∧ s.sync.edge = none ∧ s.sync.release.active = false) := by
  decide +kernel

/-- Port 0 UP toward the time master, a PROBE out since slot 0. -/
def sAlign (locked : Bool) : State :=
  { up [(.SYNC_CTRL, 6, 0, 0), (.NET_PORT_STATUS, 6, 0, 3 * 2 ^ 29), (.SYNC_STATUS, 6, 0, if locked then 2 ^ 31 else 0)] with
    sync := { dt := 70000, probeSlot := some 0 } }
/-- Counts on both sides of 0.5 cc of a period's eighth, and one a period away. -/
theorem wit_AlignmentFollowsMaster : parentPort (sAlign true) = some 0 ∧ portUp (sAlign true) 0 = true ∧ (sAlign true).sync.probeSlot = some 0 ∧
    (sAlign true).sync.dt < 2 ^ 64 ∧ (let n := slotNow (sAlign true)
    [(offsetOf 0 ((n + 64) / 2) n).1, (offsetOf 0 ((n + 64) / 2 + 63) n).1] = [0, 1] ∧
    (offsetOf 0 ((n + 64) / 2 + 17) n).2 ≤ 500 ∧ 500 < (offsetOf 0 ((n + 64) / 2 + 18) n).2) := by decide +kernel

/-- A packet of a pass, come in by a minus port, for stage X. -/
def passPkt (k : PassKind) (no value mask : Nat) : Packet :=
  { mkPacket 1 0 2 0 0 true false (bodyC (passStream k) no 0) (passBytes k 0 1 { value := value } mask) with inp := 1 }
/-- The group of stage X has two members; a pass of number 0 runs, or none does. -/
def sPass (k : PassKind) (active : Bool) (mask : Nat) : State :=
  let m : Merge := { active := active, mask := 1 }
  let s := running ((.COL_VERDICT_CFG, 6, 0, 1) :: ring2)
  { s with net := { ejected := [passPkt k 0 2 mask] }, sync := { ready := m, release := m }, col := { verdict := m } }
def passIn (k : PassKind) (active : Bool) (mask : Nat) (full : Bool) : Bool :=
  let s := sPass k active mask
  let p := passPkt k 0 2 mask
  let m := passGet s k
  m.active == active && p.cseq == m.no && m.stage == leNat (p.payload.take 1) && m.stage < 3 &&
    stageFull (stageGroup s 0) (m.take 2 0 0 0 mask) == full && leNat ((p.payload.drop 16).take 8) == mask
theorem wit_VerdictAndPassesMerge : ([PassKind.verdict, .ready, .release].all fun k => passIn k true 1 false && passIn k true 2 true && passIn k false 2 true) = true ∧
    (sPass .verdict true 2).net.ejected.find? (fun x => !x.more && (x.cls = 2 && x.stream = 0xFFFF)) = some (passPkt .verdict 0 2 2) ∧
    (sPass .ready true 2).net.ejected.find? (fun x => !x.more && isPass 1 x) = some (passPkt .ready 0 2 2) ∧
    (sPass .release true 2).net.ejected.find? (fun x => !x.more && isPass 2 x) = some (passPkt .release 0 2 2) ∧
    (let s := { running [] with col := { verdict := { active := true, done := true, value := 1, stage := 3 } } }
     jobVerdict s = some 1 ∧ s.cp.flights = [] ∧ s.col.queue = [] ∧ lsSet s 1 = false) ∧
    (let s := { running [] with col := { verdict := { active := true } } }
     s.col.verdict.active = true ∧ jobVerdict s = none ∧ s.cp.flights = [] ∧ s.col.queue = []) := by decide +kernel

/-! ## Witnesses: records, mandatory items -/

def sCompose : State := committed (running [])
def recOf (seq : Nat) : StepRec := ⟨0, seq, 0, [1#8, 2#8]⟩
/-- A ring of one entry at 0, held or not, what the host has read all but the newest; no ring. -/
def sRing (ctrl seq : Nat) : State := { up [(.DIG_RING_CTRL, 6, 0, ctrl)] with dig := { waiting := some (recOf seq) } }
theorem wit_StepRecordsAreKept : (progLoaded sCompose = true ∧ (stepOf sCompose sCompose.dig.nextStep).verdict ≠ none ∧
      stepOver sCompose sCompose.dig.nextStep = true ∧ sCompose.dig.waiting = none) ∧
    (∀ e ∈ [(2 ^ 31 + 1, 0), (1, 1)], let s := sRing e.1 e.2
      s.dig.waiting = some (recOf e.2) ∧ rfld s .DIG_RING_CTRL 6 0 10 0 = 1 ∧ inMemory s 0 32768 = true ∧
      (rbit s .DIG_RING_CTRL 6 0 31 = true → e.2 < (rget s .DIG_RING_ACK 6 0 + 1) % 2 ^ 64 + 1)) ∧
    rfld (sRing (2 ^ 31) 0) .DIG_RING_CTRL 6 0 10 0 = 0 ∧
    (let s := sRing (2 ^ 31 + 1) 1; rfld s .DIG_RING_CTRL 6 0 10 0 ≠ 0 ∧ inMemory s 0 32768 = true ∧ rbit s .DIG_RING_CTRL 6 0 31 = true ∧
      (rget s .DIG_RING_ACK 6 0 + 1) % 2 ^ 64 + 1 ≤ 1) := by decide +kernel

/-- A record in a path, the head of the ring at its start or at its last unit; drops to tell; a record unread. -/
def rec1 : Rec := ⟨0x0100, 0, 0, 0, 0, List.replicate 40 1#8⟩
def sRec (head : Nat) : State := { up [(.REC_HEAD, 8, 0, head)] with recd := { paths := [(0, [rec1])], drops := [(0, 3)], live := [(0, 0, 1, 0)] } }
theorem wit_RecordsEnterTheRing : openRoute (sRec 0) (dieRoute clCoh 0 8) = true ∧ mget [] (sRec 0).recd.paths 0 = [rec1] ∧ mget [] (sRec 32767).recd.paths 0 = [rec1] ∧
    32768 < recOff (sRec 32767) + recUnits rec1 ∧ recOff (sRec 0) + recUnits rec1 ≤ 32768 ∧
    (recHead (sRec 0) - recRd (sRec 0) < rfld (sRec 0) .REC_IRQ_THRESH 8 0 15 0 ∧
      rfld (sRec 0) .REC_IRQ_THRESH 8 0 15 0 ≤ recHead (sRec 0) + 1 - recRd (sRec 0)) ∧
    mget 0 (sRec 0).recd.drops 0 ≠ 0 ∧ (mget [] (sRec 0).recd.paths 0).length < 56 ∧ (sRec 0).img.content.filters = [] ∧
    (sRec 0).recd.live.find? (fun e => recRd (sRec 0) ≤ e.1 && (sRec 0).recd.delayNext ≤ e.1) = some (0, 0, 1, 0) ∧
    rfld (sRec 0) .REC_IRQ_DELAY 8 0 31 0 ≠ 0 := by decide +kernel

/-- Every channel holds addresses. -/
def chans : List (RegName × Nat × Nat × Nat) := [(.MEM_MAP, 4, 0, 2 ^ 64 - 1), (.MEM_MAP, 5, 0, 2 ^ 64 - 1)]
/-- Torus port 0 in a state. -/
def sPort' (st : Nat) : State := up [(.NET_PORT_STATUS, 6, 0, st * 2 ^ 29)]
def sItems (shade : Bool) (holds : List Hold := []) (debt : Nat := 4) (mult : Nat := 2) : State := { up chans with
  cp := { shades := if shade then [⟨0b11111, 100⟩] else [], holds := holds },
  ms := { debt := [(0, debt)], mult := if mult = 0 then [] else [(0, mult)], recal := [0, 64] } }
/-- Link 0, wide: trained, its recalibration due, in hand, or with a number of errors counted on a wire. -/
def sLink (h : LinkDir) (s : State := up []) : State := { s with fab := { s.fab with links := [(0, { h with trained := true }), (1, { trained := true })] } }
def link0' : D2D := ⟨false, 0, 0⟩
def sHeld (retrain : Bool) : State := sLink { retrain := retrain } (sItems false [⟨.recal, 16, 0⟩])
theorem wit_MandatoryItemsRun : (∀ b ∈ [true, false], let s := sItems b
      itemDue s .refresh 0 = true ∧ itemDue s .recal 0 = true ∧ itemDue s .recal 64 = true ∧ shadeOpen s 0 = b ∧ s.cp.holds = []) ∧
    itemDue (sPort' 3) .recal 64 = true ∧
    (sItems false [⟨.refresh, 0, 0⟩]).cp.holds.find? (fun h => h.item = .refresh && h.res = 0) = some ⟨.refresh, 0, 0⟩ ∧
    (∀ b ∈ [true, false], (sHeld b).cp.holds.find? (fun h => h.item = .recal && h.res = 16) = some ⟨.recal, 16, 0⟩ ∧
      (sHeld b).cp.flights = [] ∧ (linkDir (sHeld b) 0).retrain = b ∧ (linkDir (sHeld b) 1).retrain = false ∧ resLinks 16 = [0, 1]) := by
  decide +kernel
theorem wit_RefreshAndRecalibration : (∀ s ∈ [sItems true, sItems false [] 6, sItems false [] 7 1], chActive s 0 0 = true) ∧
    shadeOpen (sItems true) 0 = true ∧ (shadeOpen (sItems false [] 6) 0 = false ∧ debtOf (sItems false [] 6) 0 0 < 7) ∧
    (shadeOpen (sItems false [] 7 1) 0 = false ∧ mget 0 (sItems false [] 7 1).ms.mult 0 < 2 ∧ debtOf (sItems false [] 7 1) 0 0 < 8) ∧
    (let s := { up chans with ms := { drifted := [0] } }; chKey 0 0 ∈ s.ms.drifted) ∧
    (∃ e ∈ (linkDir (sLink { corr := [(3, 2000)] }) link0'.key).corr, (sLink {}).img.content.d2dDrift < e.2) ∧
    (let h := linkDir (sLink {}) link0'.key; h.trained = true ∧ h.retrain = false ∧ h.tries < 4) ∧
    received link0'.narrow 0 = some [] ∧ received link0'.narrow (2 ^ 5) = some [5] ∧ received link0'.narrow 3 = none := by
  decide +kernel
/-- The debt that an interval leaves where the reserve serves any amount, or none at ×4. -/
theorem wit_debt (x : Nat) : debtLeft 2 (6 + 1) x < 8 ∧ (x % 9 = 0 → 8 ≤ debtLeft 2 (7 + 1) x) := by
  rw [debtLeft, debtLeft, if_neg (by decide), if_neg (by decide)]
  omega

/-! ## Witnesses: memory errors, prefetchers, traffic tests -/

/-- A scrub of M-die 0 at its first line, and one line from its end. -/
def sScrub (nearEnd : Bool) : State :=
  let s := { up chans with cp := { shades := [⟨0b11111, 100⟩] } }
  { s with ms := { scrub := if nearEnd then [(0, { done := passLines s 0 - 1 })] else [] } }
/-- Four wrong symbols of a codeword, which do not decode, and one, which does. -/
def worn : LineError := [(0, 1), (2, 1), (4, 1), (6, 1)]
def sLoam (dirty : Bool) : State := { up [] with ms := { loam := { lines := [(0, dirty)] } } }
theorem wit_MemoryErrorsAreMarked : homeOf (up []) 0 = some 0 ∧ homeOf (up []) (2 ^ 36 - 1) = some 0 ∧ homeOf (up []) (2 ^ 36) = some 1 ∧
    homeOf (up []) (2 ^ 37 - 1) = some 1 ∧ readFound (up []) 0 [(3, 1)] = some [(3, 1)] ∧ misread [(3, 1)] [(3, 1)] = false ∧
    readTwice (up []) 0 worn [] = some ([], []) ∧ metError (up []) 0 worn [] = true ∧ readTwice (up []) 0 [] [] = some ([], []) ∧
    metError (up []) 0 [] [] = false ∧ readTwice (up []) 0 worn worn = none ∧
    (∀ b ∈ [true, false], (sLoam b).ms.loam.lines.find? (fun x => x.1 = 0) = some (0, b)) ∧
    (findFlight sDone 0 0 0 = some fVec ∧ fVec.skip = none ∧ homeOf sDone 0 = some 0 ∧ readTwice sDone 0 worn worn = none) := by decide +kernel
theorem wit_scrub : (∀ b ∈ [true, false], let s := sScrub b
      let cs := pkgChans s 0 0
      let a := (lineAddr s 0 (cs.getD (0 / chanLines) 0) (0 % chanLines)).getD 0
      shadeOpen s 0 = true ∧ mget 0 s.ms.scrubPos 0 = 0 ∧ 0 < cs.length * chanLines ∧ underTest s a 256 = false ∧ homeOf s a = some 0 ∧
      readTwice s (a / 256) [(3, 1)] [] = some ([(3, 1)], [(3, 1)]) ∧ metError s (a / 256) [(3, 1)] [(3, 1)] = true ∧
      readTwice s (a / 256) [] [] = some ([], []) ∧ metError s (a / 256) [] [] = false ∧ readTwice s (a / 256) worn worn = none ∧
      (if b then passLines s 0 ≤ (mget {} s.ms.scrub 0).done + 1 else (mget {} s.ms.scrub 0).done + 1 < passLines s 0)) ∧
    alive (up []) 10 = true ∧ (mget {} (up []).ms.scrub 0).late = false := by decide +kernel

/-- A prefetcher of M-die 0 in a row of two lines, at the first, at the second, in its last row. -/
def sPf (row line : Nat) : State := { up [] with
  ms := { prefetch := [(0, { active := true, tensor := memT 0 0 128 2, row := row, line := line, last := 2, limit := 1 })],
          loam := { primed := if line = 0 ∧ row = 0 then [] else [(0, 9, 0)] } } }
def sTest (n : Nat) (rs : List (RegName × Nat × Nat × Nat)) : State := { up rs with ms := { tests := if n = 0 then [] else [(0, n)] } }
theorem wit_PrefetchersAndTestsRun : (∀ e ∈ [(0, 0), (0, 1), (1, 1)], let s := sPf e.1 e.2
      let p := pfOf s 0 0
      p.active = true ∧ pfWaiting s 0 0 = false ∧ (pfLines s 0 p.tensor p.row)[p.line]? = some (2 * e.1 + e.2) ∧
      (pfLines s 0 p.tensor p.row).length = 2 ∧ underTest s (256 * (2 * e.1 + e.2)) 256 = false ∧ readTwice s (2 * e.1 + e.2) [] [] = some ([], []) ∧
      readTwice s (2 * e.1 + e.2) worn worn = none) ∧ primedOf (sPf 0 1) 0 0 = [(0, 9, 0)] ∧
    (testOf (sTest 0 []) 0 0 = 0 ∧ chActive (sTest 0 []) 0 0 = false) ∧ (chActive (sTest 0 chans) 0 0 = true) ∧
    (testOf (sTest 1 []) 0 0 = 1 ∧ (sTest 1 []).host.waiting = [] ∧ (sTest 1 []).eth.xferLeft = 0 ∧ testOf (sTest 2 []) 0 0 ≠ 0) := by decide +kernel

/-! ## Witnesses: the torus -/

/-- Port 0 in a state, with what its link holds. -/
def sPort (st : Nat) (x : Port := {}) (more : List (RegName × Nat × Nat × Nat) := []) : State :=
  { up ([(.NET_PORT_STATUS, 6, 0, st * 2 ^ 29)] ++ more) with net := { ports := [(0, x)] } }
theorem wit_PortsTrainAndFail : (portState (sPort 2) 0 = 2 ∧ portUp (sPort 2) 0 = false) ∧ (∀ st ∈ [0, 1, 2, 4, 5], alive (sPort st) 6 = true ∧ (sPort st).pow.serdes.testBit 0 = true ∧ portUp (sPort st) 0 = false) ∧
    portState (sPort 2) 0 = 2 ∧ portState (sPort 4) 0 ≠ 2 ∧ portState (sPort 4) 0 ≠ 3 ∧ portState (sPort 3) 0 ≠ 2 ∧ portUp (sPort 3) 0 = true := by
  decide +kernel

/-- A slot of some data with the upper half of its link word given; its CRC fits, or is one off. -/
def slotOf (data k err : Nat) : Flit := ⟨data, BitVec.ofNat 64 (2 ^ 32 * k + (slotCrc data (2 ^ 32 * k) + err) % 2 ^ 32)⟩
theorem slotCrc_congr (d : Nat) {l l' : Nat} (h : l / 2 ^ 32 = l' / 2 ^ 32) : slotCrc d l = slotCrc d l' := by
  unfold slotCrc
  rw [Nat.shiftRight_eq_div_pow, Nat.shiftRight_eq_div_pow, h]
theorem slotCrc_lt (d l : Nat) : slotCrc d l < 2 ^ 32 := by
  unfold slotCrc crc32
  exact BitVec.isLt _
theorem slotOf_link (data k err : Nat) (h : k < 2 ^ 32) :
    (slotOf data k err).link.toNat / 2 ^ 32 = k ∧ bits (slotOf data k err).link.toNat 31 0 = (slotCrc data (slotOf data k err).link.toNat + err) % 2 ^ 32 := by
  have e : (slotOf data k err).link.toNat = 2 ^ 32 * k + (slotCrc data (2 ^ 32 * k) + err) % 2 ^ 32 := by
    simp only [slotOf, BitVec.toNat_ofNat]
    generalize slotCrc data (2 ^ 32 * k) = c
    omega
  have u : (slotOf data k err).link.toNat / 2 ^ 32 = k := by
    rw [e]
    generalize slotCrc data (2 ^ 32 * k) = c
    omega
  refine ⟨u, ?_⟩
  rw [slotCrc_congr data (l := (slotOf data k err).link.toNat) (l' := 2 ^ 32 * k) (by rw [u]; omega), e]
  generalize slotCrc data (2 ^ 32 * k) = c
  simp only [bits, Nat.shiftRight_zero]
  omega
/-- Its CRC is right without an error and wrong with one. -/
theorem slotOf_crc (data k : Nat) (h : k < 2 ^ 32) : slotCrc data (slotOf data k 0).link.toNat = bits (slotOf data k 0).link.toNat 31 0 ∧
    slotCrc data (slotOf data k 1).link.toNat ≠ bits (slotOf data k 1).link.toNat 31 0 := by
  rw [(slotOf_link data k 0 h).2, (slotOf_link data k 1 h).2]
  have h0 := slotCrc_lt data (slotOf data k 0).link.toNat
  have h1 := slotCrc_lt data (slotOf data k 1).link.toNat
  generalize slotCrc data (slotOf data k 0).link.toNat = a at *
  generalize slotCrc data (slotOf data k 1).link.toNat = b at *
  omega
/-- Fields of the upper half: number, ACK, KIND, credit returned. -/
def linkHi (seq ack kind cls vc n : Nat) : Nat := seq * 2 ^ 21 + ack * 2 ^ 10 + kind * 2 ^ 8 + cls * 2 ^ 6 + vc * 2 ^ 4 + n
/-- A packet of one flit for node 5, of each class; the first flit of one of two. -/
def pktTo (cls : Nat) (ordered : Bool := false) : Packet := mkPacket 1 5 cls 0 0 ordered false 0 []
def head2 : Nat := (pktTo 0).head + 2 ^ 32
def link0 : Port := { replay := [(2047, 1, 9, 9), (0, 2, 9, 9)], tries := 3, rxSeq := 7 }
theorem wit_FlitsAreTakenAndSent : portUp (sPort 3 link0) 0 = true ∧
    (∀ e ∈ [(7, 1), (7, 2), (8, 1), (7, 0)], let k := linkHi e.1 2047 e.2 1 2 15
      k < 2 ^ 32 ∧ k / 2 ^ 21 = e.1 ∧ k / 2 ^ 8 % 4 = e.2 ∧ k / 2 ^ 6 % 4 = 1 ∧ k / 2 ^ 4 % 4 = 2 ∧ k / 2 ^ 10 % 2 ^ 11 = 2047) ∧
    (pktTo 2).cls = 2 ∧ (pktTo 0).n = 1 ∧ (pktTo 0).len = 0 ∧ bits head2 35 32 = 1 ∧
    link0.replay.findIdx? (fun e => e.1 = 2047) = some 0 ∧ link0.replay.findIdx? (fun e => e.1 = 5) = none ∧
    (∃ e ∈ link0.replay, e.1 = (2047 : Fin 2048).val) ∧ link0.tries + 1 < 5 ∧ 5 ≤ ({ link0 with tries := 4 } : Port).tries + 1 ∧
    (let s := sPort 3 { ctrl := [leNat downBytes] }; alive s 6 = true ∧ (portOf s 0).sentAt ≤ slotNow s ∧
      (portOf s 0).ctrl.find? (fun c => c / 2 ^ 2048 ≤ slotNow s) = some (leNat downBytes)) ∧
    (portOf (sPort 4) 0).ctrl = [] ∧ portUp (sPort 4) 0 = false ∧
    (let x := portOf (sPort 3 { tail := [5], now := some (pktTo 0) }) 0
     x.ctrl = [] ∧ x.resend = none ∧ x.replay.length < 1024 ∧ x.tail = [5] ∧ x.now = some (pktTo 0) ∧ (pktTo 0).cls ≠ 2) := by decide +kernel
/-- What a port sends next: a flit again, a packet before it, nothing. -/
theorem wit_sends : (let x := portOf (sPort 3 { link0 with resend := some 0 }) 0
      x.ctrl = [] ∧ x.resend = some 0 ∧ x.replay.find? (fun e => e.1 = 0) = some (0, 2, 9, 9)) ∧
    (∀ b ∈ [true, false], let s := { sPort 3 { credits := fullCredits } with net := { outbuf := if b then [(0, [pktTo 0])] else [], ports := [(0, { credits := fullCredits })] } }
      let e := slotEntry s 0 (activeBank s 0) (slotNow s % 8192)
      (portOf s 0).now = none ∧ servedC s 0 e = none ∧
      nextPacket s 0 (fun y => !bit e 31 || (y.part = bits e 7 0 && lentFits s 0 (slotNow s % 8192) y.n)) =
        if b then some (0, pktTo 0) else none) := by decide +kernel
/-- A NAK, a PROBE and an ECHO whose CRC is right, or wrong. -/
def ctrlLink (bs : List Byte) (err : Nat) : BitVec 64 := (slotOf (leNat bs) (linkHi 0 9 3 1 2 15) err).link
theorem ctrlLink_crc (bs : List Byte) : slotCrc (leNat bs) (ctrlLink bs 0).toNat = bits (ctrlLink bs 0).toNat 31 0 ∧
    slotCrc (leNat bs) (ctrlLink bs 1).toNat ≠ bits (ctrlLink bs 1).toNat 31 0 := slotOf_crc _ _ (by decide)
/-- Its ACK names no flit that waits: the flits, and the tries of the first, stay. -/
theorem wit_nak : ∀ n ∈ [3, 4], let s := sPort 3 { link0 with tries := n }
    let x := portOf ((takeLink 0 (linkHi 0 9 3 1 2 15 * 2 ^ 32)).run s) 0
    (∃ e ∈ x.replay, e.1 = (2047 : Fin 2048).val) ∧ (x.replay.headD (0, 0, 0, 0)).1 = 2047 ∧ x.tries = n := by decide +kernel

/-- A packet before the router; the route entry of node 5. -/
def sRoute (entry : Nat) (cls : Nat) (slots : List (RegName × Nat × Nat × Nat) := []) : State :=
  { up ([(.NET_RT, 6, 5, entry), (.NET_PORT_STATUS, 6, 0, 3 * 2 ^ 29)] ++ slots) with
    net := { inbuf := [(bufKey 6 cls 0, [pktTo cls])], cArrive := [pktTo cls] } }
def routeKind (s : State) (x : Packet) : Nat := match routeFor s x with
  | .eject => 0
  | .drop c => 100 + c
  | .stay => 1
  | .go p _ _ tk => 10 + p + (if tk then 10 else 0)
/-- A packet that has waited for credit of port 4, with a way over port 0. -/
def sCongested : State :=
  { up [(.NET_RT, 6, 5, 2 ^ 31 + 2 ^ 24 + 2 ^ 28 + 2 ^ 23), (.NET_PORT_STATUS, 6, 0, 3 * 2 ^ 29), (.NET_PORT_STATUS, 6, 4, 3 * 2 ^ 29), (.NET_CTRL, 6, 0, 1)] with
    cc := 5, net := { outbuf := [(64, [{ pktTo 0 with waiting := 1 }])], ports := [(0, { credits := fullCredits })] } }
theorem wit_RoutersMovePackets : (∀ cls < 4, mget [] (sRoute (3 * 2 ^ 30) cls).net.inbuf (bufKey 6 cls 0) = [pktTo cls] ∧
      routeKind (sRoute (3 * 2 ^ 30) cls) (pktTo cls) = 0 ∧ routeKind (sRoute (2 ^ 31 + 2 ^ 24) cls) (pktTo cls) = 10 ∧
      routeKind (sRoute 0 cls) (pktTo cls) = 100) ∧
    (let s := sRoute (3 * 2 ^ 30) 0; (pktTo 0).part = nodePart s ∧ s.rst.phase ≠ .entry ∧ endpointsDown s = false) ∧
    (let s := sRoute (2 ^ 31 + 2 ^ 24) 2 [(.NET_SLOT, 6, 7, 2 ^ 31 + 6 * 2 ^ 28)]
     s.net.cArrive = [pktTo 2] ∧ (pktTo 2).mcast = false ∧ (tableEntries s 0 (activeBank s 0)).any (fun e => reserves e 6 0) = true ∧
     ((pktTo 2).inp < 6 → cHeld s 6 + (pktTo 2).n ≤ 2048) ∧ openRoute s (transitRoute s (pktTo 2) 0) = true) ∧
    (List.range 6).findSome? (fun o => [0, 1].findSome? fun w =>
      ((mget [] sCongested.net.outbuf ((o * 4 + 0) * 4 + w)).find? fun x => x.inp = 6 && x.vc = 0 && x.waiting != 0).map fun x => (o, w, x)) =
      some (4, 0, { pktTo 0 with waiting := 1 }) ∧
    1 - 1 + rfld sCongested .NET_CTRL 6 0 15 8 ≤ sCongested.cc ∧ congestionPort sCongested { pktTo 0 with waiting := 1 } 4 = some 0 := by
  decide +kernel

/-- A swap of tables asked for: the standby table reserves for no input, or rightly. -/
def sSwap (inp : Nat) : State := up [(.NET_SLOT_CTRL, 6, 0, 2 ^ 31 + 2 ^ 29), (.NET_SLOT, 6, 8192, 2 ^ 31 + inp * 2 ^ 28), (.NET_RT_CTRL, 6, 0, 2 ^ 31)]
theorem wit_TablesSwapOnFrames : (∀ e ∈ [(6, false), (7, true)], let s := sSwap e.1
      rbit s .NET_SLOT_CTRL 6 0 29 = true ∧
      (decide (7168 < reservedSlots s 0 (1 - activeBank s 0)) || (tableEntries s 0 (1 - activeBank s 0)).any fun e => e.testBit 31 && bits e 30 28 = 7) = e.2) ∧
    rbit (sSwap 6) .NET_RT_CTRL 6 0 31 = true := by decide +kernel

/-! ## Witnesses: packets at their endpoints -/

/-- A packet that the routers delivered, and outstanding request 3. -/
def req3 : QReq := ⟨0, 0, 0, 0, 1, 5, 0x1000000, 0⟩
def sEject (x : Packet) : State := { sDone with net := { ejected := [x], tags := [(3, req3)] } }
def qPkt (op nlines line : Nat) : Packet := mkPacket 1 0 0 0 0 false false (bodyP op nlines 3 0 + line) (List.replicate (if op = 1 then 256 * nlines else 0) 7#8)
def pPkt (op status tag : Nat) : Packet := mkPacket 1 0 1 0 0 false false (bodyP op 1 tag status) (List.replicate 256 7#8)
def notice (hdr : Nat) : Packet := mkPacket 1 0 3 0xFF 0 false false (bodyM 2 1 0) (leBytes 16 hdr)
def mPkt (mtype : Nat) : Packet := mkPacket 1 0 3 0 0 false false (bodyM mtype 1 0) []
def qpFirst (s : State) (c : Nat) : Option Packet := s.net.ejected.find? fun y =>
  !y.more && (y.cls = c && openRoute s (qpRoute s y) && !underTest s (qpSpan s y).1 (qpSpan s y).2)
theorem wit_EndpointsTakePackets : (∀ e ∈ [(2, 1, 0), (0, 0, 0), (1, 1, 2 ^ 29), (1, 1, 0), (0, 1, 2 ^ 29 - 1)], let x := qPkt e.1 e.2.1 e.2.2
      let s := sEject x
      qpFirst s 0 = some x ∧ s.rst.phase ≠ .entry ∧ endpointsDown s = false ∧ x.op = e.1 ∧ x.nlines = e.2.1 ∧
      x.line = e.2.2 ∧ inMemory s (256 * x.line) (256 * x.line + 256 * x.nlines) = decide (x.line < 2 ^ 29) ∧
      firstMarked s [(256 * x.line, 256 * x.nlines)] = none) ∧
    (∀ e ∈ [(0, 0, 3), (0, 2, 3), (1, 1, 3), (0, 0, 4)], let x := pPkt e.1 e.2.1 e.2.2
      let s := sEject x
      qpFirst s 1 = some x ∧ x.status = e.2.1 ∧
      s.net.tags.find? (fun t => t.1 = x.tag) = if e.2.2 = 3 then some (3, req3) else none) ∧
    (let s := { sEject (qPkt 0 1 0) with rst := { sDone.rst with phase := .entry } }; qpFirst s 0 = some (qPkt 0 1 0) ∧ s.rst.phase = .entry) ∧
    (let x := notice (bits (qPkt 0 1 0).head 127 0)
     let h : Packet := { flits := [leNat (x.payload.take 16)], inp := x.inp }
     (sEject x).net.ejected.find? (fun y => !y.more && (y.cls = 3 && y.mtype = 2)) = some x ∧ h.cls = 0 ∧
     (sEject x).net.tags.find? (fun e => e.1 = h.tag) = some (3, req3)) ∧
    ((sEject (mPkt 3)).net.ejected.find? (fun y => !y.more && (y.cls = 3 && y.mtype != 1 && y.mtype != 2)) = some (mPkt 3) ∧ (mPkt 3).mtype = 3) := by decide +kernel

/-- COL.AR begun, before and after data may move, and a packet of its stream in hand. -/
def sAr := next (.colAr 0 0) sColAr
def opAr (ready : Bool) : ColOp := { die := 0, q := 0, pos := 0, group := 0, stream := 1, op := 0x72, started := true, ready := ready }
def cPkt (seq : Nat) : Packet := { mkPacket 1 0 2 0 0 true false (bodyC 1 seq 0) [1#8] with inp := 1 }
def sCol (ready : Bool) (x : Packet) : State := { sAr with col := { ops := [opAr ready] }, net := { ejected := [x] } }
theorem wit_CollectivePacketsAreTaken : (∀ b ∈ [true, false], ∀ k ∈ [seqSetup, seqCredit, seqAbort, 3], let s := sCol b (cPkt k)
      s.net.ejected.find? (fun x => !x.more && (x.cls = 2 && x.stream < 0xFFFE && x.cseq = k)) = some (cPkt k) ∧ opOfStream s 1 = some (opAr b)) ∧
    (let s := { up [] with net := { ejected := [cPkt seqSetup] } }
     s.net.ejected.find? (fun x => !x.more && (x.cls = 2 && x.stream < 0xFFFE && x.cseq = seqSetup)) = some (cPkt seqSetup) ∧ s.col.ops = []) ∧
    (let s := sCol true (cPkt 3)
     let o := opAr true
     findOp s 0 0 0 = some o ∧ (match findFlight s 0 0 0 with
      | some f => f.boundFrom == some 0 && decide (o.done.length ≠ expected s f o (groupOf s 0)) &&
        match (colStreams s f o (groupOf s 0)).find? (fun st => st.base ≤ 3 && 3 < st.base + st.packets) with
        | some st => decide (st.way ≠ .chain) && decide (st.way ≠ .direct) && st.comes (groupOf s 0) (if (cPkt 3).inp % 2 = 1 then 0 else 1)
        | none => false
      | none => false) = true) ∧
    (let x := notice (bits (cPkt 3).head 127 0)
     let h : Packet := { flits := [leNat (x.payload.take 16)], inp := x.inp }
     (sCol true x).net.ejected.find? (fun y => !y.more && (y.cls = 3 && y.mtype = 2)) = some x ∧ h.cls = 2 ∧ opOfStream (sCol true x) h.stream = some (opAr true)) := by
  decide +kernel
theorem sCol_placed : (sCol true (cPkt 3)).Placed ∧ (sCol false (cPkt 3)).Placed ∧ (up []).Placed :=
  ⟨placed_of (by decide +kernel), placed_of (by decide +kernel), placed_of (by decide +kernel)⟩

/-! ## Witnesses: the host -/

theorem wit_HostWindowsReachState : alive (up []) 3 = true ∧ spbPending (up []) = false ∧
    regSized 0x2000000 3 = false ∧ regSized 0x2000002 4 = false ∧ rfld (up []) .HST_WINB_BASE 6 0 47 30 = 0 ∧
    (∀ i < 4, inStores (up []) (2 ^ 37 - 4 + i) (2 ^ 37 - 4 + i + 1) = true) ∧ marked (up []) (2 ^ 37 - 4) 4 = false ∧
    (∀ i < 4, inStores (up []) (2 ^ 37 + i) (2 ^ 37 + i + 1) = false) ∧ marked (up []) (2 ^ 37) 4 = false ∧
    (up []).host.waiting = [] ∧ underTest (up []) (2 ^ 37 - 4) 4 = false ∧
    (let s := { up chans with ms := { tests := [(0, 1)] } }; underTest s 0 4 = true ∧ s.host.waiting = [] ∧ underTest s 256 4 = false) ∧
    (let x : Access := ⟨0, 4, none⟩
     let s := { up chans with ms := { tests := [(0, 1)] }, host := { waiting := [(false, x)] } }
     s.host.waiting ≠ [] ∧ ∀ y ∈ s.host.waiting.head?, y.1 = false ∧ underTest s (winB s y.2) y.2.size = true) := by decide +kernel

/-- Vector 0 raised or pending, its entry masked or not, in its holdoff or not. -/
def sVec (raised masked held : Bool) : State := { up [] with host :=
  { raised := if raised then 1 else 0, pba := if raised then 0 else 1, msix := if masked then [] else [(0, 5)], holdoff := if held then [(0, 50)] else [] } }
theorem wit_InterruptMessagesLeave : ∀ r ∈ [true, false], ∀ m ∈ [true, false], ∀ h ∈ [true, false], let s := sVec r m h
    alive s 3 = true ∧ s.host.raised.testBit 0 = r ∧ s.host.pba.testBit 0 = !r ∧ msixMasked s 0 = m ∧ heldOff s 0 = h := by decide +kernel

def cwrite (a v : Nat) : Packet := mkPacket 1 0 3 0 0 false false (bodyM 1 1 a) (leBytes 4 v)
theorem wit_RegistersAreAccessed : regAt 0x700020E00020 = some (.HST_IRQ_HOLDOFF, 6, 0, 0) ∧ RegName.HST_IRQ_HOLDOFF.words = 1 ∧
    RegName.HST_IRQ_HOLDOFF.acts = false ∧ blockAlive (up []) .HST_IRQ_HOLDOFF 6 = true ∧
    regAt 0x700020E00010 = some (.HST_WINB_BASE, 6, 0, 0) ∧ regAt 0x700020E00014 = some (.HST_WINB_BASE, 6, 0, 4) ∧ RegName.HST_WINB_BASE.words = 2 ∧
    RegName.HST_WINB_BASE.acts = false ∧ blockAlive (up []) .HST_WINB_BASE 6 = true ∧ alive (up []) 3 = true ∧ (up []).host.waiting = [] ∧
    mget 0 (up []).host.heldLow (0x700020E00014 - 4) = 0 ∧ (0x700020E00010 : BitVec 48).toNat % 8 = 0 ∧
    (let s := { up [] with host := { shadow := [(0x700020E00014, 1)], heldLow := [(0x700020E00010, 1)] }, net := { ejected := [cwrite 0x700020E00020 9] } }
     mget 0 s.host.shadow 0x700020E00014 ≠ 0 ∧ mget 0 s.host.heldLow (0x700020E00014 - 4) ≠ 0 ∧
     s.net.ejected.find? (fun p => !p.more && (p.cls = 3 && p.mtype = 1)) = some (cwrite 0x700020E00020 9) ∧
     openRoute s (ejectRoute (cwrite 0x700020E00020 9) 6) = true ∧ (cwrite 0x700020E00020 9).words = 1 ∧
     (cwrite 0x700020E00020 9).h 111 64 = 0x700020E00020 ∧ leNat ((cwrite 0x700020E00020 9).payload.take 4) = 9) := by decide +kernel
theorem wit_MctpRequestsAreAnswered : (let s := up [(.IMG_STATUS, 8, 0, 2 ^ 31)]; mctpServed s = true ∧ inRecovery s = false ∧ alive s 3 = true) ∧
    (let s := up [(.RST_STATUS, 8, 0, 2 ^ 30)]; mctpServed s = true ∧ inRecovery s = true) := by decide +kernel

/-! ## Witnesses: Ethernet and the bulk transport -/

/-- E0 up, session 0 in a state with a kind, what it holds. -/
def sSes (st kind : Nat) (x : Session := {}) (more : Nat := 0) (rs : List (RegName × Nat × Nat × Nat) := []) : State :=
  { up ([(.ETH_PORT_STATUS, 6, 0, 2 ^ 31), (.ETH_SESSION, 6, 0, more + 2 ^ 129 + kind * 2 ^ 126 + st * 2 ^ 124)] ++ rs) with eth := { sessions := [(0, x)] } }
def rx (s : State) (bs : List Byte) : State := { s with eth := { s.eth with rx := [(0, bs)] } }
def tp (typ kind psn off : Nat) (data : List Byte) : List Byte := transportBytes typ 0 kind 0 0 psn off 0 data
def goodFrame : Frame := ⟨macOf 0, none, 17, 0, 0xC1A0, tp 6 0 0 0 []⟩
theorem goodFrame_ok : frameOk (sSes 2 1) 0 goodFrame = true := by
  have h : (decide (goodFrame.nextHdr = 17) && decide (goodFrame.udpPort = rfld (sSes 2 1) .ETH_UDP_PORT 6 0 15 0) && tpValid goodFrame.payload &&
    (decide (sesF (sSes 2 1) (tpSid goodFrame.payload) 131 131 = 0) || decide (goodFrame.vlan = some (sesF (sSes 2 1) (tpSid goodFrame.payload) 143 132)))) = true := by
    decide +kernel
  unfold frameOk
  rw [Bool.and_assoc, Bool.and_assoc, Bool.and_assoc, show decide (goodFrame.dstMac = macOf 0) = true from decide_eq_true rfl]
  rw [Bool.and_assoc, Bool.and_assoc] at h
  rw [Bool.true_and]
  exact h
theorem wit_EthernetPortsReceive : alive (up []) 8 = true ∧ ethUp (up []) 0 = false ∧ ethUp (sSes 2 1) 0 = true ∧
    (let s := up [(.ETH_PORT_STATUS, 6, 0, 2 ^ 31)]; ethUp s 0 = true ∧ ∀ sid < 256, sesState s sid = 0) ∧
    frameOk (sSes 2 1) 0 goodFrame = true ∧ frameOk (sSes 2 1) 0 { goodFrame with payload := [] } = false := by
  refine ⟨by decide +kernel, by decide +kernel, by decide +kernel, by decide +kernel, goodFrame_ok, ?_⟩
  unfold frameOk
  rw [show tpValid ({ goodFrame with payload := [] } : Frame).payload = false by decide +kernel, Bool.and_false, Bool.false_and]

theorem wit_SessionsOpenAndClose : (let s := sSes 0 1; alive s 8 = true ∧ sesState s 0 = 0 ∧ sesF s 0 130 129 ≠ 0 ∧ sesPort s 0 0 ≠ none) ∧
    -- a packet of each type, of a session OPENING or OPEN, of a kind that fits and one that does not
    (∀ st ∈ [1, 2], ∀ typ ∈ [1, 2, 5, 6], ∀ k ∈ [1, 2], let s := rx (sSes st 1) (tp typ k 0 0 [])
      s.eth.rx.find? (fun e => tpType e.2 = typ) = some (0, tp typ k 0 0 []) ∧ tpSid (tp typ k 0 0 []) = 0 ∧ sesState s 0 = st ∧
      sesKind s 0 = 1 ∧ complements (sesKind s 0) (tpF (tp typ k 0 0 []) 3 1) = (k = 2 : Bool)) ∧
    (let s := sSes 2 1; sesOpen s 0 = true ∧ max ((sesLive s 0).sent + 10000) (nowUs s) < (sesLive s 0).heard + 100000) ∧
    (let s := { sSes 2 1 with cc := 1750 * 100000 }; sesOpen s 0 = true ∧ sesKind s 0 ≠ 4 ∧
      (sesLive s 0).heard + 100000 ≤ max ((sesLive s 0).sent + 10000) (nowUs s)) ∧
    (let d : TxData := ⟨5, 0, 0, true, [], 0, 0, 16⟩
     let s := sSes 2 1 { psn := 6, unacked := [d] }; sesOpen s 0 = true ∧ (sesLive s 0).unacked.find? (·.psn = 5) = some d ∧ d.tries = 16) ∧
    (let s := sSes 2 1 {} 0 [(.ETH_XFER_STATUS, 6, 0, 2 ^ 31)]; xferBusy s = true ∧ s.eth.xferSession = 0) := by decide +kernel

def sRecv (x : Session := {}) : State := rx (sSes 2 2 x (64 * 2 ^ 200 + 0x1000000 * 2 ^ 240)) (tp 3 1 0 60 [1#8, 2#8, 3#8, 4#8])
def oneSent : Session := { psn := 1, unacked := [⟨0, 0, 0, true, [9#8], 0, 0, 15⟩] }
theorem wit_DataIsDelivered : (∀ x ∈ [({} : Session), { rxNext := 1, sinceAck := 15 }, { rxLater := [0] }], let s := sRecv x
      let bs := tp 3 1 0 60 [1#8, 2#8, 3#8, 4#8]
      sesOpen s 0 = true ∧ s.eth.rx.find? (fun e => tpType e.2 = 3) = some (0, bs) ∧ tpSid bs = 0 ∧ sesKind s 0 = 2 ∧
      tpF bs 16 8 + (bs.drop 32).length ≤ sesF s 0 239 200 ∧ tpPsn bs = 0 ∧ dataWaits s = false) ∧
    (sesLive (sRecv { rxNext := 1, sinceAck := 15 }) 0).sinceAck ≠ 0 ∧
    (let bs := tp 4 0 0 0 []
     let s := rx (sSes 2 1 oneSent) bs
     sesOpen s 0 = true ∧ s.eth.rx.find? (fun e => tpType e.2 = 4) = some (0, bs) ∧ tpPsn bs = 0 ∧ xferBusy s = false ∧ (sesLive s 0).unacked.length = 1 ∧ (sesLive s 0).backlog = []) ∧
    ((sesLive (sSes 2 1 { oneSent with backlog := [(0, 8192, true, [8#8])] }) 0).backlog = [(0, 8192, true, [8#8])]) ∧
    (let s := rx (sSes 2 1 oneSent 0 [(.ETH_XFER_STATUS, 6, 0, 2 ^ 31)]) (tp 4 0 0 0 [])
     xferBusy s = true ∧ s.eth.xferSession = 0 ∧ s.eth.xferLeft = 0) ∧
    ((sesLive (sSes 2 1 oneSent) 0).unacked.find? (·.psn = 0) = some ⟨0, 0, 0, true, [9#8], 0, 0, 15⟩) ∧
    (let s := sSes 2 1 {} 0 [(.ETH_XFER_LEN, 6, 0, 8192)]
     xferBusy s = false ∧ sesKind s 0 = 1 ∧ sesRoom s 0 = true ∧ rfld s .ETH_XFER_LEN 6 0 47 0 ≤ 8192 ∧
     underTest s 0 8192 = false ∧ badLines s 0 8192 = []) := by decide +kernel

/-! ## Witnesses: reset, boot, images -/

def sRst (r : Rst) (rs : List (RegName × Nat × Nat × Nat) := []) : State := { up rs with rst := r }
theorem wit_ResetsAssert : (up []).rst.phase = .idle ∧ inRecovery (up []) = false ∧ starting (up []) = false ∧ mctpServed (up [(.IMG_STATUS, 8, 0, 2 ^ 31)]) = true ∧
    starting (up [(.RST_STATUS, 8, 0, 2 ^ 29)]) = true ∧ inRecovery (up [(.RST_STATUS, 8, 0, 2 ^ 30)]) = true ∧
    ((sRst { phase := .releasing, scope := 3 }).rst.phase ≠ .idle ∧ (sRst { phase := .releasing, scope := 3 }).rst.scope ≤ 3) ∧
    (∀ e ∈ [3, 4], (sRst { phase := .entry, scope := e }).rst.phase = .entry ∧ (sRst { phase := .entry, scope := e }).rst.scope = e) ∧
    ((sRst { failedMs := 1 }).rst.failedMs ≠ 0 ∧ failCount (sRst { failedMs := 1 }) < 4) ∧
    ({ up [] with pow := { aonLost := true } } : State).pow.aonLost = true ∧
    alive (up []) 3 = true ∧ rbit (up [(.HST_LINK, 6, 0, 2 ^ 31)]) .HST_LINK 6 0 31 = true ∧
    (let h := linkDir (sLink { tries := 4 }) link0'.key
     h.trained = true ∧ h.retrain = false ∧ received link0'.narrow 3 = none ∧ 4 ≤ h.tries) ∧ starting (sLink { tries := 4 }) = false ∧
    (let s := sRst { hostAt := 4098 } [(.RST_DOMAINS, 8, 0, 2 ^ 30 - 9)]; s.rst.hostAt ≠ 0 ∧ alive s 3 = false) := by decide +kernel

/-- A start: nothing trained yet, in progress. -/
def sStart : State := { up [(.RST_STATUS, 8, 0, 2 ^ 29), (.MEM_MAP, 4, 0, 2 ^ 64 - 1)] with rst := { firstCc := 1 } }
def trained : List Nat := List.range 128
theorem wit_StartsProceed : (∀ e ∈ [(State.reset, 1), (sRst { phase := .releasing, scope := 5, rows := [3] }, 3), (sRst { phase := .releasing, scope := 1, firstCc := 1, rows := [29] }, 29),
        (sRst { phase := .releasing, scope := 1, rows := [1, 4] } [(.RST_AON, 8, 0, 2 ^ 31)], 1), (sRst { phase := .releasing, scope := 1, rows := [1, 4] } [(.RST_AON, 8, 0, 4)], 1)],
      e.1.rst.phase = .releasing ∧ e.1.rst.rows.head? = some e.2 ∧ rowWaits e.1 e.2 = false ∧ e.1.rst.perst = false) ∧
    (recoveryDue State.reset = false ∧ State.reset.rst.scope < 5 ∧ State.reset.rst.firstCc = 0 ∧
      recoveryDue (sRst {} [(.RST_AON, 8, 0, 2 ^ 31)]) = true ∧ recoveryDue (sRst {} [(.RST_AON, 8, 0, 4)]) = true) ∧
    (alive sStart 1 = true ∧ sStart.pow.rootLock = false ∧ starting sStart = true) ∧
    (∀ n < 19, ∀ d ∈ linkDies n, alive sStart (dieDomain d) = true) ∧
    (alive sStart 10 = true ∧ alive sStart 12 = true ∧ chKey 0 0 ∉ sStart.ms.trained ∧ chActive sStart 0 0 = true ∧ sStart.rst.lost = false) ∧
    (let s := { sStart with rst := { lost := true }, ms := { trained := trained } }
     s.rst.lost = true ∧ allTrained s = true ∧ s.ms.filled = false ∧ stepReady s = false) ∧
    (alive sStart 4 = true ∧ sStart.rst.keyDone = false) ∧
    (let s := sLink { tries := 4 } sStart; let h := linkDir s link0'.key
     h.trained = true ∧ h.retrain = false ∧ received link0'.narrow 3 = none ∧ 4 ≤ h.tries ∧ starting s = true) ∧
    readyToStep { sStart with rst := { keyDone := true, d2dDone := List.range 19 }, ms := { trained := trained, filled := true } } = true := by decide +kernel

/-- Training is due where a link has not trained, and where it is to train again; it fails with three wires of a group, with 15
lanes, or by itself. -/
theorem wit_training : trainingDue sStart link0' ∧ trainingDue (sLink { retrain := true }) link0' ∧
    (∀ e ∈ [(⟨[(0, 1, 0), (0, 2, 1)], 32, false⟩, false), (⟨[(7, 1, 0), (7, 2, 1), (7, 3, 2)], 32, false⟩, true), (⟨[], 32, true⟩, true)],
      trainingFails link0' e.1 = e.2) ∧
    (∀ e ∈ [(⟨[], 16, false⟩, false), (⟨[], 15, false⟩, true)], trainingFails ⟨true, 0, 0⟩ e.1 = e.2) := by
  unfold trainingDue
  decide +kernel

/-- The bytes of an image of ten sections: the tenth holds an owner key of zeros, the others are empty. -/
def image : List (Nat × Byte) :=
  memory ([(0, 4, 0x5A535449), (4, 4, 0x03010001), (8, 4, 0x1240), (0xC, 2, 0x0A00)] ++
    ([1, 2, 3, 4, 5, 6, 8, 9, 0xB].zipIdx.flatMap fun (id, n) => [(0x40 + 16 * n, 1, id), (0x44 + 16 * n, 4, 0x100)]) ++
    [(0xD0, 1, 0xC), (0xD4, 4, 0x100), (0xD8, 4, 1793)])
/-- A start that finds it in slot 0, its other slot marked; a start whose slots are both marked; the image staged. -/
def sBoot (invalid : List Nat) (active : Nat) : State := { up [(.RST_STATUS, 8, 0, 2 ^ 29)] with
  rst := { firstCc := 1 }, img := { flash := image, invalid := invalid, active := active } }
def sStaged : State := { up [(.IMG_STAGE_LEN, 8, 0, 0x1240)] with img := { stage := image } }
/-- It is accepted where Culeorn's and the owner's signatures verify and its contents keep R461 (Config says whether they do). -/
theorem image_accepted (s : State) (i : ImgSrc) (hf : i.formatOk = true) (hn : i.num 6 1 = 1 ∧ i.num 7 1 = 3 ∧ i.svn = 0) (hu : unowned s = true)
    (h0 : s.fuses.svnFloor = 0) (hc : Config.falconVerify Config.culeornKey i.digest (i.bytes (i.length - 2560) 1280) = true)
    (ho : Config.falconVerify ((i.sect 0xC).take 1793) i.digest (i.bytes (i.length - 1280) 1280) = true) (hk : contentOk i i.content = true) :
    imgReject s i = none := by
  have : (3 : Nat).testBit (b2n s.fuses.gradeS) = true := by cases s.fuses.gradeS <;> rfl
  simp only [imgReject, hf, hn.1, hn.2.1, hn.2.2, hu, h0, hc, ho, hk, this]
  rfl
theorem wit_ImagesAndFusesChange : (∀ a ∈ [0, 1], let s := sBoot [0, 1] a
      alive s 2 = true ∧ s.rst.scope ≤ 2 ∧ s.rst.imageOk = false ∧ starting s = true ∧ inRecovery s = false ∧ s.img.active = a ∧
      s.img.invalid.contains 0 = true ∧ s.img.invalid.contains 1 = true) ∧
    ((sBoot [1] 0).img.invalid.contains 0 = false ∧ (slotImage (sBoot [1] 0) 0).formatOk = true ∧ unowned (sBoot [1] 0) = true ∧
      (slotImage (sBoot [1] 0) 0).num 6 1 = 1 ∧ (slotImage (sBoot [1] 0) 0).num 7 1 = 3 ∧ (slotImage (sBoot [1] 0) 0).svn = 0) ∧
    ((stagedImage sStaged).formatOk = true ∧ (stagedImage sStaged).num 6 1 = 1 ∧ (stagedImage sStaged).num 7 1 = 3 ∧ (stagedImage sStaged).svn = 0) ∧
    imgReject (up []) (stagedImage (up [])) = some 1 ∧
    -- COMMIT of an accepted image; fuses of an owned module and of one without an owner
    alive (up []) 2 = true ∧
    (let s := up [(.IMG_STATUS, 8, 0, 2 ^ 31)]; imageInForce s = true ∧ unowned s = true ∧ s.fuses.owners.findIdx? (fun o => o.isNone) = some 0) ∧
    (let s := { up [(.IMG_STATUS, 8, 0, 2 ^ 31), (.IMG_SVN, 8, 0, 3)] with fuses := { owners := [some 1, some 2, some 3, some 4], svnFloor := 2 } }
     imageInForce s = true ∧ unowned s = false ∧ (s.fuses.owners.getD (imageOwner s) none).isSome = true ∧ s.fuses.revoked.testBit (imageOwner s) = false ∧
     s.fuses.owners.findIdx? (fun o => o.isNone) = none ∧ imageOwner s = 0 ∧ s.fuses.svnFloor < rget s .IMG_SVN 8 0) ∧
    (let s := { up [(.IMG_STATUS, 8, 0, 2 ^ 31)] with fuses := { owners := [some 1, none, none, none], revoked := 1 } }
     unowned s = false ∧ s.fuses.revoked.testBit (imageOwner s) = true ∧ rget s .IMG_SVN 8 0 ≤ s.fuses.svnFloor) := by decide +kernel

/-! ## Witnesses: power, heat, clocks -/

/-- Every sensor at a reading, the thermal level, readings cool in a row, hot packages. -/
def sHeat (raw level cool hot : Nat) : State :=
  { up [(.THM_STATUS, 8, 0, level * 2 ^ 16)] with pow := { temps := List.replicate 28 raw, coolRun := cool, hot := hot } }
theorem wit_PowerIsControlled : (up []).pow.vin = .inRange ∧ alive (up []) 2 = true ∧
    ({ up [] with pow := { vin := .under } } : State).pow.vin ≠ .inRange ∧ ({ up [] with pow := { vin := .above } } : State).pow.aonLost = false ∧
    (up []).pow.vbakLow = false ∧ (up []).pow.pLevel < 16 ∧ (up []).pow.capOver = false ∧ powerCap (up []) < 2601 ∧
    ({ up [] with pow := { holdEnd := 11 } } : State).pow.holdEnd ≠ 0 ∧
    (let s := sHeat (8 * 100 + 1) 15 0 0; 8 * thmTarget s < (junction s).1 ∧ s.pow.hot = 0) ∧
    (let s := sHeat (8 * 100) 3 9 0; (junction s).1 ≤ 8 * thmTarget s ∧ ¬ (junction s).1 < 8 * (thmTarget s - 3)) ∧
    (let s := sHeat 500 3 9 0; (junction s).1 < 8 * (thmTarget s - 3) ∧ 9 ≤ s.pow.coolRun) ∧ (sHeat 500 3 9 1).pow.hot ≠ 0 := by decide +kernel
theorem wit_HeatIsControlled : alive (up []) 2 = true ∧
    (let s := up []; let s' : State := { s with pow := { s.pow with temps := List.replicate 28 (8 * 95) } }
     8 * thmWarn s ≤ (junction s').1 ∧ s.pow.warned = false) ∧
    (let s := up []; let s' : State := { s with pow := { s.pow with temps := List.replicate 28 (8 * 92 - 1) } }
     (junction s').1 < 8 * (thmWarn s - 3)) ∧
    (up []).pow.failed.testBit 0 = false ∧
    (let s := up [(.MEM_PKG_STATUS, 5, 7, 2 ^ 29)]; rbit s .MEM_PKG_STATUS (4 + 15 / 8) (15 % 8) 29 = true ∧ s.pow.hot.testBit 15 = false) ∧
    rawTemp 919 < 115 * 8 ∧ 115 * 8 ≤ rawTemp 920 ∧ rawTemp 999 < 125 * 8 ∧ 125 * 8 ≤ rawTemp 1000 ∧ rawTemp 2048 < 0 ∧
    ({ up [] with pow := { tripped := true } } : State).pow.tripped = true ∧ (∀ i < 28, rawTemp (((List.replicate 28 (679 : BitVec 12)).getD i 0).toNat) < 680) ∧
    alive (up []) 4 = true ∧ (up []).cp.flights = [] ∧ 0 < ({ up [] with pow := { gate := 15 } } : State).pow.gate := by decide +kernel
theorem wit_ClocksFailAndReturn : (up []).pow.syncRef = true ∧ ({ up [] with pow := { syncRef := false } } : State).pow.syncRef = false ∧
    (let s := { up [] with pow := { rootLock := true } }; s.pow.rootLock = true ∧ s.pow.syncRef = true ∧ starting s = false) ∧
    starting sStart = true ∧
    ((sPort 3).pow.serdes.testBit 0 = true ∧ (∀ sid < 256, sesState (sPort 3) sid = 0) ∧ portUp (sPort 3) 0 = true) ∧
    (let s := { sPort 4 with pow := { serdes := 2 } }; s.pow.serdes.testBit 0 = false ∧ alive s 6 = true ∧ portState s 0 = 4) ∧
    ((up []).pow.refclk = true ∧ rbit (up []) .HST_LINK 6 0 31 = false ∧ rbit (up [(.HST_LINK, 6, 0, 2 ^ 31)]) .HST_LINK 6 0 31 = true ∧
      alive (up [(.HST_LINK, 6, 0, 2 ^ 31)]) 3 = true ∧ (up []).pow.xtal = true) := by decide +kernel

/-! ## Ill-formed commands, one for each check of `Instr.wf` -/

theorem test_wf_rows : (Instr.rowLnB 0 0 [3, 3] 0).wf = false ∧ (Instr.rowRmsB 0 0 [2 ^ 20] 0).wf = false ∧ (Instr.rowSmaxB 0 0 [5, 4] 0).wf = false ∧
    (Instr.rowXentB 0 0 [1, 1] 0).wf = false ∧ (Instr.rowProg 0 0 [7, 2] 0).wf = false ∧ (Instr.rowLnB 0 0 [0, 2 ^ 20 - 1] 0).wf = true := by decide +kernel
theorem test_wf_tile : (Instr.mmeTileDone 0 0 { compute := true, adder := [⟨128, 0, 0, 1⟩] }).wf = false ∧ (Instr.mmeTileDone 0 0 { lane := [⟨0, 256, 0, 1⟩] }).wf = false ∧
    (Instr.mmeTileDone 0 0 { compute := true, copy := [⟨127, 255, 2 ^ 19 - 1, 1⟩] }).wf = true := by decide
theorem test_wf_error : (Instr.memCe (0, [(276, 1)])).wf = false ∧ (Instr.prefetchLineFill 0 0 ([], [(0, 256)])).wf = false ∧
    (Instr.patrolScrubLine 0 0 [(275, 255)] []).wf = true := by decide
theorem test_wf_resource : (Instr.mandatoryItemPreempt .refresh 73).wf = false ∧ (Instr.mandatoryItemDone .recal 73).wf = false ∧
    (Instr.mandatoryItemDone .recal 72).wf = true := by decide
theorem test_wf_link : (Instr.d2dReplay ⟨false, 16, 0⟩ 0).wf = false ∧ (Instr.d2dReplay ⟨false, 0, 0⟩ (2 ^ 1024)).wf = false ∧ (Instr.d2dRecalibration ⟨true, 3, 0⟩).wf = false ∧
    (Instr.d2dRecalibration ⟨true, 0, 2⟩).wf = false ∧ (Instr.d2dRecalibration ⟨false, 15, 1⟩).wf = true := by decide +kernel
theorem test_wf_training : (Instr.d2dTrainingDone ⟨true, 0, 0⟩ ⟨[], 33, false⟩).wf = false ∧ (Instr.d2dTrainingDone ⟨true, 0, 0⟩ ⟨[(0, 1, 0)], 32, false⟩).wf = false ∧
    (Instr.d2dTrainingDone ⟨false, 0, 0⟩ ⟨[(0, 1, 2)], 0, false⟩).wf = false ∧ (Instr.d2dTrainingDone ⟨false, 0, 0⟩ ⟨[(8, 1, 16)], 0, false⟩).wf = false ∧
    (Instr.d2dTrainingDone ⟨false, 0, 0⟩ ⟨[(0, 1, 0), (0, 1, 1)], 0, false⟩).wf = false ∧
    (Instr.d2dTrainingDone ⟨false, 0, 0⟩ ⟨[(0, 1, 0)], 0, false⟩).wf = true := by decide
theorem test_wf_polls : (Instr.refreshRatePoll 0 []).wf = false ∧ (Instr.sensorSample [0]).wf = false ∧ (Instr.tripCooldownPoll []).wf = false ∧
    (Instr.refreshRatePoll 0 (List.replicate 8 0)).wf = true := by decide
theorem test_wf_client : (Instr.memUe 0 (.command 4 0 0) ([], [])).wf = false ∧ (Instr.memLoamUe 0 true (.command 0 16 0)).wf = false ∧
    (Instr.memUe 0 (.command 3 15 0) ([], [])).wf = true := by decide
theorem test_wf_fails : (Instr.memTgDone 0 0 [2, 2]).wf = false ∧ (Instr.memTgDone 0 0 [2, 3]).wf = true := by decide
theorem test_wf_flit : (Instr.dataFlitReceive 0 ⟨2 ^ 2048, 0⟩).wf = false ∧ (Instr.idleFlit 0 ⟨2 ^ 2048, 0⟩).wf = false ∧
    (Instr.idleFlit 0 ⟨2 ^ 2048 - 1, 0⟩).wf = true := by decide +kernel
theorem test_wf_access : (Instr.hostWindowAAccess ⟨0, 0, none⟩).wf = false ∧ (Instr.hostWindowBAccess ⟨0, 4, some [1]⟩).wf = false ∧
    (Instr.hostWindowBAccess ⟨0, 1, some [1]⟩).wf = true := by decide
theorem test_wf_frame : (Instr.ethFrameReceive 0 ⟨2 ^ 48, none, 17, 0, 0, []⟩).wf = false ∧ (Instr.ethFrameReceive 0 ⟨0, some 65536, 17, 0, 0, []⟩).wf = false ∧
    (Instr.ethFrameReceive 0 ⟨0, none, 256, 0, 0, []⟩).wf = false ∧ (Instr.ethFrameReceive 0 ⟨0, none, 17, 2 ^ 128, 0, []⟩).wf = false ∧
    (Instr.ethFrameReceive 0 ⟨0, none, 17, 0, 65536, []⟩).wf = false ∧ (Instr.ethFrameReceive 0 ⟨0, some 65535, 255, 0, 65535, []⟩).wf = true := by decide +kernel
theorem test_wf_linkUp : (Instr.hstLinkUp 0 16 true).wf = false ∧ (Instr.hstLinkUp 6 0 true).wf = false ∧ (Instr.hstLinkUp 6 16 true).wf = true := by decide
theorem test_wf_input : (Instr.pwrInputFault .inRange 44000).wf = false ∧ (Instr.pwrInputFault .under 0).wf = true := by decide

/-! ## Results worked out by hand -/

/-- 1.0 + 1.0 = 2.0 in VEC.EW (04 R132). -/
theorem test_ew_add : rdNat (next (.vecChunkDone 0 0 none) (next (.vecEw 0 0)
      { op 0x20 [(4, 0x50005), (5, 5), (6, 0x40001), (7, 2 ^ 24 + 1)] with mem := memory [(0x400000005000, 4, 0x3F800000)] })).mem 0x400000005000 4 =
    0x40000000 := by decide +kernel
def sSq : State := { op 0x41 [(4, 5), (5, 6), (6, 0x40001), (7, 2 ^ 25 + 1)] with mem := memory [(0x400000005004, 4, 0x40400000)] }
def sSqDone : State := next (.redFoldDone 0 0 none) (next (.vecChunkDone 0 0 none) (next (.redCol 0 0) sSq))
/-- The squares of one row: 3.0 × 3.0 = 9.0 (04 R140). -/
theorem test_red_col : rdNat sSqDone.mem 0x400000006004 4 = 0x41100000 := by decide +kernel
/-- DMA.FILL writes its pattern to each element, little-endian (06 R206). -/
theorem test_dma_fill : rdNat (next (.dmaFill 0 0) sDmaFill).mem 0x400000006000 16 = 0x3F8000003F8000003F8000003F800000 := by decide +kernel
/-- A flag saturates at 2^32 - 1 with its fault bit (06 R212). -/
theorem test_flag_saturates : let t := next (.flagSignalArrive 0) sSignal
    mget 0 t.flags 3 = 0xFFFFFFFF ∧ rget t .CMD_FLAG_SAT_COUNT 0 0 = 1 := by decide +kernel
/-- An illegal command (COUNT 0) is skipped, numbered, and leaves its queue (06 R216, R222). -/
theorem test_illegal_skip : let t := next (.vecEw 0 0) sIllegal
    rget t .CMD_SKIP_SEQ 0 0 = 1 ∧ (queueOf t 0 0).head = 1 ∧ t.cp.flights.length = 0 := by decide +kernel
/-- CRC-32 of "123456789" (the check value of IEEE 802.3). -/
theorem test_crc32 : crc32 (ascii "123456789") = 0xCBF43926 := by decide +kernel
/-- An empty queue counts one cc (assumption 1). -/
theorem test_idle_step : (match step State.reset with | .next t => t.cc | _ => 0) = 1 := by decide +kernel
/-- A full reset asserts at once: scope 1, cause 3, every domain but AON in reset (12 R474, R475). -/
theorem test_full_reset : let t := next .rstCmdFull (up [])
    rfld t .RST_STATUS 8 0 27 16 = 0x103 ∧ rget t .RST_DOMAINS 8 0 = 1 := by decide +kernel
/-- A logic sensor at 115 °C trips; one step below does not (14 R532). -/
theorem test_trip : rfld (next (.thmTrip 0 920) (up [])) .RST_STATUS 8 0 23 16 = 6 ∧ next (.thmTrip 0 919) (up []) = up [] := by decide +kernel
/-- A read above the stores returns all ones (13 R499). -/
theorem test_outside : (next (.hostWindowBAccess ⟨2 ^ 38, 2, none⟩) (up [])).sent = [.read [0xFF, 0xFF] false] := by decide +kernel
/-- REVOKE of an empty slot answers 3 (12 R465). -/
theorem test_revoke_empty : rget (next (.revoke 1) (up [])) .SEC_CMD_STATUS 8 0 = 2 ^ 30 + 3 * 2 ^ 16 := by decide +kernel
/-- A high word written with no low word held leaves the low word; a 64-bit write and read are one access (00 R10). -/
theorem test_high_word : let t := next (.registerWrite 0x700020E00014 1 false false) (up [(.HST_WINB_BASE, 6, 0, 2 ^ 31)])
    rget t .HST_WINB_BASE 6 0 = 2 ^ 32 + 2 ^ 31 ∧ (next (.rcRegisterRead 0x700020E00010 true) t).sent = [.read [0, 0, 0, 0x80, 1, 0, 0, 0] false] := by decide +kernel
theorem test_wide_write : rget (next (.registerWrite 0x700020E00010 (BitVec.ofNat 64 (2 ^ 40 + 1)) true false) (up [])) .HST_WINB_BASE 6 0 = 2 ^ 40 := by decide +kernel
/-- x^7 times x in GF(2^8) with x^8 + x^4 + x^3 + x^2 + 1 (08 R299); a single wrong bit of a codeword is put right, two are found (01 R24). -/
theorem test_codes : gfMul 0x80 2 = 0x1D ∧ codeword (2 ^ 100) = some (some 100) ∧ codeword (2 ^ 100 + 2 ^ 3) = none := by decide +kernel

end Sys2Proof.Test
end

section
/-!
PROOFS. Register accesses (00 R10, R11; 09 R344; 13 R494): what a read and a write of a word do to the register an address
names, the shadow and the held low word of a two-word register, and the rows that come to them.
-/
namespace Sys2Proof.Machine

/-! ## Bits and bytes -/

/-- Halving goes through taking the bits of a mask away: the difference of the lowest bits borrows nothing. -/
theorem sub_and_div_two (w m : Nat) : (w - (w &&& m)) / 2 = w / 2 - (w / 2 &&& m / 2) := by
  have hdiv : (w &&& m) / 2 = w / 2 &&& m / 2 := Nat.and_div_two_pow (n := 1)
  have hmod : (w &&& m) % 2 ≤ w % 2 := by
    rw [show (w &&& m) % 2 = w % 2 &&& m % 2 from Nat.and_mod_two_pow (n := 1)]
    exact Nat.and_le_left
  omega

/-- Taking the bits of a mask away clears them and leaves the others. -/
theorem testBit_sub_and (w m b : Nat) : (w - (w &&& m)).testBit b = (w.testBit b && !m.testBit b) := by
  induction b generalizing w m with
  | zero =>
    have hle : w &&& m ≤ w := Nat.and_le_left
    have hand : (w &&& m).testBit 0 = (w.testBit 0 && m.testBit 0) := Nat.testBit_and w m 0
    simp only [Nat.testBit_zero, ← Bool.decide_and, ← decide_not, decide_eq_decide] at hand ⊢
    omega
  | succ b ih => simp only [Nat.testBit_succ, sub_and_div_two, ih]

/-- The bits of n places from lo up. -/
theorem testBit_places (n lo b : Nat) :
    ((2 ^ n - 1) * 2 ^ lo).testBit b = (decide (lo ≤ b) && decide (b - lo < n)) := by
  rw [Nat.testBit_mul_two_pow, Nat.testBit_two_pow_sub_one]

theorem testBit_foldl_or {α : Type} (g : α → Nat) (b : Nat) (l : List α) (a : Nat) :
    (l.foldl (fun m x => m ||| g x) a).testBit b = (a.testBit b || l.any fun x => (g x).testBit b) := by
  induction l generalizing a with
  | nil => simp
  | cons x l ih => simp [ih, Nat.testBit_or, Bool.or_assoc]

theorem leNat_leBytes (n v : Nat) : leNat (leBytes n v) = v % 256 ^ n := by
  induction n generalizing v with
  | zero => simp [leBytes, leNat, Nat.mod_one]
  | succ n ih =>
    rw [leBytes, leNat, ih, BitVec.toNat_ofNat]
    exact (Nat.mod_mul (a := 256) (b := 256 ^ n)).symm.trans (by rw [← Nat.pow_succ'])

/-! ## The die of a register -/

theorem ctlAddr_die_lt {a die o : Nat} (h : ctlAddr a = some (die, o)) : die < 16 := by
  simp only [ctlAddr, Bool.and_eq_true, decide_eq_true_eq] at h
  split at h
  · cases h
  · split at h
    · cases h; omega
    · split at h
      · cases h; omega
      · split at h
        · cases h; omega
        · split at h
          · cases h; omega
          · cases h

theorem regAt_die_lt {a die i b : Nat} {r : RegName} (h : regAt a = some (r, die, i, b)) : die < 16 := by
  unfold regAt at h
  split at h
  · cases h
  · rename_i d o hc
    obtain ⟨r', -, h⟩ := List.exists_of_findSome?_eq_some h
    split at h
    · split at h
      · split at h
        · cases h; exact ctlAddr_die_lt hc
        · cases h
      · cases h
    · cases h

theorem keptAt_lt (r : RegName) {die : Nat} (h : die < 16) : keptAt r die < 16 := by
  unfold keptAt
  split <;> (try dsimp only) <;> (try split) <;> omega

/-! ## Shadows and held low words -/

theorem keeps_shadow (k v : Nat) : (modHost fun x => { x with shadow := mset 0 x.shadow k v }).Keeps [.hostRest] [] :=
  keeps_modHost (.inr fun _ => rfl) (.inl (by decide))

theorem keeps_heldLow (k v : Nat) : (modHost fun x => { x with heldLow := mset 0 x.heldLow k v }).Keeps [.hostRest] [] :=
  keeps_modHost (.inr fun _ => rfl) (.inl (by decide))

/-! ## Reads: the RC fields clear -/

/-- The bits that a read clears: those of the RC fields (00 R11). -/
def rcBit (r : RegName) (b : Nat) : Bool :=
  r.info.fields.any fun f => f.acc = .RC && decide (f.lo ≤ b) && decide (b ≤ f.hi)

theorem testBit_fieldMask (f : Field) (b : Nat) :
    (fieldMask f).testBit b = (decide (f.lo ≤ b) && decide (b ≤ f.hi)) := by
  rw [fieldMask, testBit_places]
  by_cases h : f.lo ≤ b
  · simp only [h, decide_true, Bool.true_and, decide_eq_decide]; omega
  · simp [h]

/-- From s to t the RC bits of lo up to hi have cleared, and the others of that range stand. -/
def RcCleared (r : RegName) (k i lo hi : Nat) (s t : State) : Prop :=
  ∀ b, lo ≤ b → b < hi → b < r.info.width → rbit t r k i b = (rbit s r k i b && !rcBit r b)

/-- A read of n bits from lo up clears the RC fields within them, and changes nothing but the register. -/
theorem readClear_run {r : RegName} {die i : Nat} (hd : die < 16) (hi : i < 2 ^ 22) (n lo : Nat) (s : State) :
    let t := (readClear r die i ((2 ^ n - 1) * 2 ^ lo)).run s
    RcCleared r (keptAt r die) i lo (lo + n) s t ∧ OnlyChanges [.regs] [(r, keptAt r die, some i)] s t := by
  intro t
  have hk := keptAt_lt r hd
  obtain ⟨rc, hrc⟩ : ∃ rc, rc = (r.info.fields.filter fun f => f.acc = .RC).foldl (fun m f => m ||| fieldMask f) 0 &&&
    ((2 ^ n - 1) * 2 ^ lo) := ⟨_, rfl⟩
  have ht : t = (Eff.when (rc != 0) (modR r (keptAt r die) i fun w => w - (w &&& rc))).run s := by rw [hrc]; rfl
  have hbit (b : Nat) (h1 : lo ≤ b) (h2 : b < lo + n) : rc.testBit b = rcBit r b := by
    have h3 : b - lo < n := by omega
    simp [hrc, testBit_foldl_or, testBit_places, testBit_fieldMask, List.any_filter, rcBit, h1, h3, Bool.and_assoc]
  refine ⟨fun b h1 h2 h3 => ?_, ?_⟩
  · rw [← hbit b h1 h2, ht]
    by_cases h0 : rc = 0
    · simp [h0]
    · have : (rc != 0) = true := by simpa using h0
      simp [this, rbit, rget_run_reg, testBit_sub_and, Nat.testBit_mod_two_pow, h3]
  · rw [ht]
    refine keeps_when (fun _ => keeps_modR (by decide) (.inr ?_)) s
    rw [Nat.mod_eq_of_lt hk, Nat.mod_eq_of_lt hi]
    exact List.mem_singleton_self _

/-- A read: the RC fields of its bits clear, an effect on other parts comes between, and the answer leaves. -/
theorem read_run {r : RegName} {die i : Nat} (hd : die < 16) (hi : i < 2 ^ 22) (n lo : Nat) {ps : List Part} {e : Eff}
    (he : e.Keeps ps []) (h1 : Part.regs ∉ ps) (h2 : Part.fuses ∉ ps) (h3 : Part.sent ∉ ps) (bs : List Byte) (s : State) :
    let t := (answer bs false).run (e.run ((readClear r die i ((2 ^ n - 1) * 2 ^ lo)).run s))
    t.sent = s.sent ++ [.read bs false] ∧ RcCleared r (keptAt r die) i lo (lo + n) s t ∧
      OnlyChanges (.sent :: .regs :: ps) [(r, keptAt r die, some i)] s t := by
  obtain ⟨hc, hu⟩ := readClear_run (r := r) hd hi n lo s
  generalize (readClear r die i ((2 ^ n - 1) * 2 ^ lo)).run s = u at hc hu
  have hw := he u
  have hregs : (e.run u).regs = u.regs := hw.part .regs h1
  have hfuses : (e.run u).fuses = u.fuses := hw.part .fuses h2
  have hsent : (e.run u).sent = s.sent := (hw.part .sent h3).trans (hu.part .sent (by decide))
  have hrd : rget ((answer bs false).run (e.run u)) r (keptAt r die) i = rget u r (keptAt r die) i :=
    rget_congr hregs (congrArg Fuses.gradeS hfuses) _ _ _
  refine ⟨?_, fun b b1 b2 b3 => ?_, ?_⟩
  · simp [answer, hsent]
  · simpa only [rbit, hrd] using hc b b1 b2 b3
  · refine ((hu.mono ?_ (List.Subset.refl _)).trans (hw.mono ?_ (List.nil_subset _))).trans
      (keeps_out List.mem_cons_self _)
    · simp
    · exact fun p hp => List.mem_cons_of_mem _ (List.mem_cons_of_mem _ hp)

section
variable {a : Nat} {r : RegName} {die i : Nat} {s : State}

theorem readWord_run_one (h : regAt a = some (r, die, i, 0)) (hw : r.words = 1) (hl : blockAlive s r die = true)
    (k : Nat → Eff) : (readWord a k).run s =
      (k (readReg s r die i % 2 ^ 32)).run (Eff.skip.run ((readClear r die i ((2 ^ 32 - 1) * 2 ^ 0)).run s)) := by
  simp [readWord, h, hw, hl]

/-- The low word of a two-word register latches the high word. -/
theorem readWord_run_low (h : regAt a = some (r, die, i, 0)) (hw : r.words = 2) (hl : blockAlive s r die = true)
    (k : Nat → Eff) : (readWord a k).run s = (k (readReg s r die i % 2 ^ 32)).run
      ((modHost fun x => { x with shadow := mset 0 x.shadow (a + 4) (readReg s r die i / 2 ^ 32 % 2 ^ 32 + 1) }).run
        ((readClear r die i ((2 ^ 32 - 1) * 2 ^ 0)).run s)) := by
  simp [readWord, h, hw, hl]

/-- The high word with a shadow answers it and lets it go. -/
theorem readWord_run_high (h : regAt a = some (r, die, i, 4)) (hw : r.words = 2) (hl : blockAlive s r die = true)
    (hs : mget 0 s.host.shadow a ≠ 0) (k : Nat → Eff) : (readWord a k).run s = (k (mget 0 s.host.shadow a - 1)).run
      ((modHost fun x => { x with shadow := mset 0 x.shadow a 0 }).run
        ((readClear r die i ((2 ^ 32 - 1) * 2 ^ 32)).run s)) := by
  simp [readWord, h, hw, hl, hs]

theorem readCtl_run_wide (h : regAt a = some (r, die, i, 0)) (hw : r.words = 2) (hl : blockAlive s r die = true)
    (k : Nat → Eff) : (readCtl a 8 k).run s =
      (k (readReg s r die i % 2 ^ 64)).run (Eff.skip.run ((readClear r die i ((2 ^ 64 - 1) * 2 ^ 0)).run s)) := by
  simp [readCtl, h, hw, hl]

end

/-- Both rows of a 32-bit read come to reading the word. -/
theorem exec_read_word {a : BitVec 48} (ha : a.toNat % 4 = 0) (s : State) {c : Instr}
    (hc : c = .lowWordRead a ∨ c = .rcRegisterRead a false) :
    exec c s = .next ((readWord a.toNat fun v => answer (leBytes 4 v) false).run s) := by
  have hrow : readRow a.toNat false = readWord a.toNat fun v => answer (leBytes 4 v) false := by
    simp [readRow, readCtl, ha]
  rcases hc with rfl | rfl <;> exact congrArg (fun e : Eff => Host.Outcome.next (e.run s)) hrow

theorem exec_read_wide {a : BitVec 48} (ha : a.toNat % 8 = 0) (s : State) :
    exec (.rcRegisterRead a true) s = .next ((readCtl a.toNat 8 fun v => answer (leBytes 8 v) false).run s) := by
  have hrow : readRow a.toNat true = readCtl a.toNat 8 fun v => answer (leBytes 8 v) false := by
    simp [readRow, ha]
  exact congrArg (fun e : Eff => Host.Outcome.next (e.run s)) hrow

/-! ## Writes -/

/-- What a write of v to the bits of a mask leaves in a register (00 R11), within its limits and its width. -/
def writtenValue (s : State) (r : RegName) (k i v mask : Nat) : Nat :=
  clampReg s r (writeFields r (rget s r k i) v mask) % 2 ^ r.info.width

/-- A register whose writes have no action of their own takes the value written, and nothing else changes. -/
theorem writeReg_run {r : RegName} {die i : Nat} (hd : die < 16) (hi : i < 2 ^ 22) (ha : r.acts = false) (v mask : Nat)
    (host : Bool) (s : State) : let t := writeReg r die i v mask host s
    rget t r (keptAt r die) i = writtenValue s r (keptAt r die) i v mask ∧
      OnlyChanges [.regs] [(r, keptAt r die, some i)] s t := by
  have hplain : writeReg r die i v mask host s = (plainWrite r die i v mask).run s := by
    unfold writeReg
    split <;> simp_all [RegName.acts]
  rw [hplain]
  refine ⟨?_, ?_⟩
  · simp [plainWrite, rget_run_reg, writtenValue]
  · refine keeps_get (fun s => keeps_setR (by decide) (.inr ?_)) s
    rw [Nat.mod_eq_of_lt (keptAt_lt r hd), Nat.mod_eq_of_lt hi]
    exact List.mem_singleton_self _

theorem clampReg_congr {s t : State} (h : t.regs = s.regs) (hf : t.fuses = s.fuses) (r : RegName) (w : Nat) :
    clampReg t r w = clampReg s r w := by
  simp only [clampReg, hf, rget_congr h (congrArg Fuses.gradeS hf)]

/-- A write after a change of other parts leaves what it would have left at once. -/
theorem writeReg_after {r : RegName} {die i : Nat} (hd : die < 16) (hi : i < 2 ^ 22) (ha : r.acts = false) (v mask : Nat)
    (host : Bool) {s u : State} {ps : List Part} (hu : OnlyChanges ps [] s u) (h1 : Part.regs ∉ ps) (h2 : Part.fuses ∉ ps) :
    let t := writeReg r die i v mask host u
    rget t r (keptAt r die) i = writtenValue s r (keptAt r die) i v mask ∧
      OnlyChanges [.regs] [(r, keptAt r die, some i)] u t ∧ OnlyChanges (.regs :: ps) [(r, keptAt r die, some i)] s t := by
  obtain ⟨hv, ht⟩ := writeReg_run hd hi ha v mask host u
  have hregs : u.regs = s.regs := hu.part .regs h1
  have hfuses : u.fuses = s.fuses := hu.part .fuses h2
  refine ⟨?_, ht, (hu.mono (List.subset_cons_self _ _) (List.nil_subset _)).trans (ht.mono ?_ (List.Subset.refl _))⟩
  · rw [hv, writtenValue, writtenValue, clampReg_congr hregs hfuses, rget_congr hregs (congrArg Fuses.gradeS hfuses)]
  · simp

theorem blockAlive_congr {s t : State} (h : t.regs = s.regs) (hf : t.fuses = s.fuses) (r : RegName) (die : Nat) :
    blockAlive t r die = blockAlive s r die := by
  simp only [blockAlive, alive, rbit, rget_congr h (congrArg Fuses.gradeS hf)]

section
variable {a : Nat} {r : RegName} {die i : Nat} {s : State}

theorem writeWord_one (h : regAt a = some (r, die, i, 0)) (hw : r.words = 1) (hl : blockAlive s r die = true) (v : Nat)
    (host : Bool) : writeWord a v host s = writeReg r die i (v % 2 ^ 32) (2 ^ 32 - 1) host s := by
  simp [writeWord, h, hw, hl]

/-- The low word of a two-word register is held. -/
theorem writeWord_low (h : regAt a = some (r, die, i, 0)) (hw : r.words = 2) (hl : blockAlive s r die = true) (v : Nat)
    (host : Bool) : writeWord a v host s =
      (modHost fun x => { x with heldLow := mset 0 x.heldLow a (v % 2 ^ 32 + 1) }).run s := by
  simp [writeWord, h, hw, hl]

/-- The high word writes both words where a low word is held, and lets that go. -/
theorem writeWord_high (h : regAt a = some (r, die, i, 4)) (hw : r.words = 2) (hl : blockAlive s r die = true) (v : Nat)
    (host : Bool) : writeWord a v host s =
      writeReg r die i (mget 0 s.host.heldLow (a - 4) - 1 + v % 2 ^ 32 * 2 ^ 32)
        (if mget 0 s.host.heldLow (a - 4) = 0 then (2 ^ 32 - 1) * 2 ^ 32 else 2 ^ 64 - 1) host
        ((modHost fun x => { x with heldLow := mset 0 x.heldLow (a - 4) 0 }).run s) := by
  simp [writeWord, h, hw, hl]

theorem writeCtl_wide (h : regAt a = some (r, die, i, 0)) (hw : r.words = 2) (hl : blockAlive s r die = true) (v : Nat)
    (host : Bool) : writeCtl a 8 v host s = writeReg r die i (v % 2 ^ 64) (2 ^ 64 - 1) host s := by
  simp [writeCtl, h, hw, hl]

end

theorem exec_write_word {a : BitVec 48} (ha : a.toNat % 4 = 0) (v : BitVec 64) (onakan : Bool) (s : State) :
    exec (.registerWrite a v false onakan) s = .next (writeWord a.toNat v.toNat (!onakan) s) := by
  have hrow : writeRow a.toNat v.toNat false onakan s = writeWord a.toNat v.toNat (!onakan) s := by
    simp [writeRow, writeCtl, ha]
  exact congrArg Host.Outcome.next hrow

theorem exec_write_wide {a : BitVec 48} (ha : a.toNat % 8 = 0) (v : BitVec 64) (onakan : Bool) (s : State) :
    exec (.registerWrite a v true onakan) s = .next (writeCtl a.toNat 8 v.toNat (!onakan) s) := by
  have hrow : writeRow a.toNat v.toNat true onakan s = writeCtl a.toNat 8 v.toNat (!onakan) s := by
    simp [writeRow, ha]
  exact congrArg Host.Outcome.next hrow

/-- A write of four bytes in window A's registers of the host interface is a write of a word (13 R494). -/
theorem exec_windowA_word {o v : Nat} {s : State} (hs : alive s 3 = true) (hq : s.host.waiting = []) (ho : o < 0x10000)
    (h4 : o % 4 = 0) : exec (.hostWindowAAccess ⟨o, 4, some (leBytes 4 v)⟩) s =
      .next (writeWord (0x700020E00000 + o) (v % 2 ^ 32) true s) := by
  have hbytes : (Access.bytes ⟨o, 4, some (leBytes 4 v)⟩) = leBytes 4 v := by simp [Access.bytes, leBytes]
  have hrow : windowA ⟨o, 4, some (leBytes 4 v)⟩ s = writeWord (0x700020E00000 + o) (v % 2 ^ 32) true s := by
    simp [windowA, windowANow, regAccess, regSized, writeCtl, hs, hq, ho, h4, hbytes, leNat_leBytes]
  exact congrArg Host.Outcome.next hrow

/-! ## CWRITE -/

theorem keeps_passHop {ps : List Part} {rs : List RegAt} {cls bytes k : Nat} (hp : Part.fab ∈ ps) :
    (passHop cls bytes k).Keeps ps rs :=
  keeps_get fun _ => keeps_ite (fun _ => keeps_modFab hp) fun _ => keeps_modFab hp

theorem keeps_crossRoute {ps : List Part} {rs : List RegAt} {cls bytes : Nat} {l : List Nat} (hp : Part.fab ∈ ps) :
    (crossRoute cls bytes l).Keeps ps rs := keeps_each fun _ => keeps_passHop hp

/-- The ejected packets that a CWRITE row takes (09 R344): whole CWRITEs whose route is open. -/
def takesCwrite (s : State) (p : Packet) : Bool :=
  !p.more && p.cls = 3 && p.mtype = 1 && openRoute s (ejectRoute p (((ctlAddr (p.h 111 64)).map (·.1)).getD 6))

/-- A CWRITE packet of one word leaves the ejected ones, crosses its route and writes the word. -/
theorem exec_cwrite_word {s : State} {p : Packet} (hp : s.net.ejected.find? (takesCwrite s) = some p) (hw : p.words = 1)
    (h4 : p.h 111 64 % 4 = 0) : ∃ u, OnlyChanges [.net, .fab] [] s u ∧
      exec .cwritePkt s = .next (writeWord (p.h 111 64) (leNat (p.payload.take 4)) true u) := by
  refine ⟨(Eff.seq (modNet fun n => { n with ejected := n.ejected.eraseP (takesCwrite s) }) (crossRoute p.inner (4 * p.words)
    (ejectRoute p (((ctlAddr (p.h 111 64)).map (·.1)).getD 6)))).run s,
    keeps_seq (keeps_modNet (by decide)) (keeps_crossRoute (by decide)) s, congrArg Host.Outcome.next ?_⟩
  unfold takesCwrite at hp ⊢
  simp only [cwriteRow, hp]
  simp [hw, h4, writeWords]

/-! ## The accesses -/

section
variable {a : BitVec 48} {r : RegName} {die i : Nat} {s : State}

/-- A 32-bit read of a register of one word. -/
theorem does_read_one (ha : a.toNat % 4 = 0) (hi : i < 2 ^ 22) (hl : blockAlive s r die = true)
    (h : regAt a.toNat = some (r, die, i, 0)) (hw : r.words = 1) {c : Instr}
    (hc : c = .lowWordRead a ∨ c = .rcRegisterRead a false) :
    Does c s [.sent, .regs] [(r, keptAt r die, some i)] fun t =>
      t.sent = s.sent ++ [.read (leBytes 4 (readReg s r die i % 2 ^ 32)) false] ∧ RcCleared r (keptAt r die) i 0 32 s t := by
  obtain ⟨hsent, hclear, hframe⟩ := read_run (regAt_die_lt h) hi 32 0 (ps := []) keeps_skip (by decide) (by decide)
    (by decide) (leBytes 4 (readReg s r die i % 2 ^ 32)) s
  exact ⟨_, (exec_read_word ha s hc).trans (congrArg _ (readWord_run_one h hw hl _)), ⟨hsent, hclear⟩, hframe⟩

/-- A 32-bit read of the low word of a register of two. -/
theorem does_read_low (ha : a.toNat % 4 = 0) (hi : i < 2 ^ 22) (hl : blockAlive s r die = true)
    (h : regAt a.toNat = some (r, die, i, 0)) (hw : r.words = 2) {c : Instr}
    (hc : c = .lowWordRead a ∨ c = .rcRegisterRead a false) :
    Does c s [.sent, .regs, .hostRest] [(r, keptAt r die, some i)] fun t =>
      t.sent = s.sent ++ [.read (leBytes 4 (readReg s r die i % 2 ^ 32)) false] ∧ RcCleared r (keptAt r die) i 0 32 s t ∧
      mget 0 t.host.shadow (a.toNat + 4) = readReg s r die i / 2 ^ 32 % 2 ^ 32 + 1 := by
  obtain ⟨hsent, hclear, hframe⟩ := read_run (regAt_die_lt h) hi 32 0
    (keeps_shadow (a.toNat + 4) (readReg s r die i / 2 ^ 32 % 2 ^ 32 + 1)) (by decide) (by decide) (by decide)
    (leBytes 4 (readReg s r die i % 2 ^ 32)) s
  exact ⟨_, (exec_read_word ha s hc).trans (congrArg _ (readWord_run_low h hw hl _)),
    ⟨hsent, hclear, by simp [answer]⟩, hframe⟩

/-- A 32-bit read of the high word with a shadow. -/
theorem does_read_high (ha : a.toNat % 4 = 0) (hi : i < 2 ^ 22) (hl : blockAlive s r die = true)
    (h : regAt a.toNat = some (r, die, i, 4)) (hw : r.words = 2) (hs : mget 0 s.host.shadow a.toNat ≠ 0) :
    Does (.rcRegisterRead a false) s [.sent, .regs, .hostRest] [(r, keptAt r die, some i)] fun t =>
      t.sent = s.sent ++ [.read (leBytes 4 (mget 0 s.host.shadow a.toNat - 1)) false] ∧
      RcCleared r (keptAt r die) i 32 64 s t ∧ mget 0 t.host.shadow a.toNat = 0 := by
  obtain ⟨hsent, hclear, hframe⟩ := read_run (regAt_die_lt h) hi 32 32 (keeps_shadow a.toNat 0) (by decide)
    (by decide) (by decide) (leBytes 4 (mget 0 s.host.shadow a.toNat - 1)) s
  exact ⟨_, (exec_read_word ha s (.inr rfl)).trans (congrArg _ (readWord_run_high h hw hl hs _)),
    ⟨hsent, hclear, by simp [answer]⟩, hframe⟩

/-- A 64-bit read of a register of two words is one access. -/
theorem does_read_wide (ha : a.toNat % 8 = 0) (hi : i < 2 ^ 22) (hl : blockAlive s r die = true)
    (h : regAt a.toNat = some (r, die, i, 0)) (hw : r.words = 2) :
    Does (.rcRegisterRead a true) s [.sent, .regs] [(r, keptAt r die, some i)] fun t =>
      t.sent = s.sent ++ [.read (leBytes 8 (readReg s r die i % 2 ^ 64)) false] ∧ RcCleared r (keptAt r die) i 0 64 s t := by
  obtain ⟨hsent, hclear, hframe⟩ := read_run (regAt_die_lt h) hi 64 0 (ps := []) keeps_skip (by decide) (by decide)
    (by decide) (leBytes 8 (readReg s r die i % 2 ^ 64)) s
  exact ⟨_, (exec_read_wide ha s).trans (congrArg _ (readCtl_run_wide h hw hl _)), ⟨hsent, hclear⟩, hframe⟩

/-- A command that comes to writing the word of a register of one, after a change of other parts. -/
theorem does_write_one (hi : i < 2 ^ 22) (hl : blockAlive s r die = true) {x : Nat} (h : regAt x = some (r, die, i, 0))
    (hw : r.words = 1) (hacts : r.acts = false) {c : Instr} {v : Nat} {host : Bool} {u : State} {ps : List Part}
    (hu : OnlyChanges ps [] s u) (h1 : Part.regs ∉ ps) (h2 : Part.fuses ∉ ps)
    (hc : exec c s = .next (writeWord x v host u)) {w : Nat} (hv : v % 2 ^ 32 = w) :
    Does c s (.regs :: ps) [(r, keptAt r die, some i)] fun t =>
      rget t r (keptAt r die) i = writtenValue s r (keptAt r die) i w (2 ^ 32 - 1) := by
  have hlu : blockAlive u r die = true := (blockAlive_congr (hu.part .regs h1) (hu.part .fuses h2) r die).trans hl
  rw [writeWord_one h hw hlu, hv] at hc
  obtain ⟨hval, -, hframe⟩ := writeReg_after (regAt_die_lt h) hi hacts w (2 ^ 32 - 1) host hu h1 h2
  exact ⟨_, hc, hval, hframe⟩

/-- A 32-bit write of the low word of a register of two is held. -/
theorem does_hold_low (ha : a.toNat % 4 = 0) (hl : blockAlive s r die = true)
    (h : regAt a.toNat = some (r, die, i, 0)) (hw : r.words = 2) (v : BitVec 64) (onakan : Bool) :
    Does (.registerWrite a v false onakan) s [.hostRest] [] fun t =>
      mget 0 t.host.heldLow a.toNat = v.toNat % 2 ^ 32 + 1 :=
  ⟨_, (exec_write_word ha v onakan s).trans (congrArg _ (writeWord_low h hw hl _ _)), by simp,
    keeps_heldLow _ _ s⟩

/-- A 32-bit write of the high word writes what is held with it, and holds nothing after. -/
theorem does_write_high (ha : a.toNat % 4 = 0) (hi : i < 2 ^ 22) (hl : blockAlive s r die = true)
    (h : regAt a.toNat = some (r, die, i, 4)) (hw : r.words = 2) (hacts : r.acts = false) (v : BitVec 64) (onakan : Bool)
    {w mask : Nat} (hv : mget 0 s.host.heldLow (a.toNat - 4) - 1 + v.toNat % 2 ^ 32 * 2 ^ 32 = w)
    (hm : (if mget 0 s.host.heldLow (a.toNat - 4) = 0 then (2 ^ 32 - 1) * 2 ^ 32 else 2 ^ 64 - 1) = mask) :
    Does (.registerWrite a v false onakan) s [.regs, .hostRest] [(r, keptAt r die, some i)] fun t =>
      rget t r (keptAt r die) i = writtenValue s r (keptAt r die) i w mask ∧ mget 0 t.host.heldLow (a.toNat - 4) = 0 := by
  have hu := keeps_heldLow (a.toNat - 4) 0 s
  have hx := (exec_write_word ha v onakan s).trans (congrArg _ (writeWord_high h hw hl _ _))
  rw [hv, hm] at hx
  obtain ⟨hval, hafter, hframe⟩ := writeReg_after (regAt_die_lt h) hi hacts w mask (!onakan) hu (by decide) (by decide)
  refine ⟨_, hx, ⟨hval, ?_⟩, hframe⟩
  have hhost := hafter.part .hostRest (by decide)
  rw [congrArg HostIf.heldLow hhost]
  simp

/-- A 64-bit write of a register of two words is one access. -/
theorem does_write_wide (ha : a.toNat % 8 = 0) (hi : i < 2 ^ 22) (hl : blockAlive s r die = true)
    (h : regAt a.toNat = some (r, die, i, 0)) (hw : r.words = 2) (hacts : r.acts = false) (v : BitVec 64) (onakan : Bool) :
    Does (.registerWrite a v true onakan) s [.regs] [(r, keptAt r die, some i)] fun t =>
      rget t r (keptAt r die) i = writtenValue s r (keptAt r die) i v.toNat (2 ^ 64 - 1) := by
  obtain ⟨hval, hframe⟩ := writeReg_run (regAt_die_lt h) hi hacts v.toNat (2 ^ 64 - 1) (!onakan) s
  refine ⟨_, (exec_write_wide ha v onakan s).trans (congrArg _ ?_), hval, hframe⟩
  rw [writeCtl_wide h hw hl, Nat.mod_eq_of_lt v.isLt]

end

/-- Settles O50: each access comes to a read or a write of one word, or of two at once, and what stands before it changes
no register. -/
theorem registersAreAccessed : Obligations.RegistersAreAccessed := by
  unfold Obligations.RegistersAreAccessed
  intro a v r die i s ha hi hl k clears answers value
  refine ⟨fun h hw => ⟨fun c hc => does_read_one ha hi hl h hw hc, fun hacts => ⟨fun onakan => ?_, ?_, ?_⟩⟩,
    fun h hw => ⟨fun c hc => does_read_low ha hi hl h hw hc, fun onakan => does_hold_low ha hl h hw v onakan⟩,
    fun h hw => ⟨fun hs => does_read_high ha hi hl h hw hs, fun onakan hacts hheld => ?_, fun onakan hacts hheld => ?_⟩,
    fun h hw h8 => ⟨does_read_wide h8 hi hl h hw, fun onakan hacts => does_write_wide h8 hi hl h hw hacts v onakan⟩⟩
  · exact does_write_one hi hl h hw hacts (.refl [] [] s) (by decide) (by decide) (exec_write_word ha v onakan s) rfl
  · intro o hs hq ho hao
    have hx := exec_windowA_word (v := v.toNat % 2 ^ 32) hs hq ho (by omega)
    rw [← hao, Nat.mod_mod] at hx
    exact does_write_one hi hl h hw hacts (.refl [] [] s) (by decide) (by decide) hx (Nat.mod_mod _ _)
  · intro p hp hwords haddr hdata
    obtain ⟨u, hu, hx⟩ := exec_cwrite_word hp hwords (by omega)
    rw [haddr, hdata] at hx
    exact does_write_one hi hl h hw hacts hu (by decide) (by decide) hx (Nat.mod_mod _ _)
  · exact does_write_high ha hi hl h hw hacts v onakan rfl (if_neg hheld)
  · obtain ⟨t, hx, ⟨hval, -⟩, hframe⟩ := does_write_high ha hi hl h hw hacts v onakan
      (by rw [hheld, Nat.zero_sub, Nat.zero_add]) (if_pos hheld)
    exact ⟨t, hx, hval, hframe⟩

end Sys2Proof.Machine
end

section
/-!
PROOFS. Streams advance (06 R188, R189, R191): what STEP.END does at the head of its queue, while it waits and as its stream
starts again, and what fetching the next command of a stream changes.
-/
namespace Sys2Proof.Machine

/-! ## The last release, and a change of one queue -/

/-- The last step released is of the rest of the command processor. -/
theorem OnlyChanges.released {ps : List Part} {rs : List RegAt} {s t : State} (h : OnlyChanges ps rs s t)
    (hp : Part.cpRest ∉ ps) : t.cp.released = s.cp.released := by
  have hrest : t.cp.rest = s.cp.rest := h.part .cpRest hp
  have hreleased : t.cp.rest.released = s.cp.rest.released := by rw [hrest]
  exact hreleased

theorem queueOf_modQueue (die q : Nat) (f : Queue → Queue) (s : State) :
    queueOf ((modQueue die q f).run s) die q = f (queueOf s die q) := by
  simp [modQueue, queueOf]

theorem modQueue_other {die q k : Nat} (h : k ≠ qKey die q) (f : Queue → Queue) (s : State) :
    mget {} ((modQueue die q f).run s).cp.queues k = mget {} s.cp.queues k := by
  simp [modQueue, mget_mset_ne _ _ h]

/-! ## STEP.END comes to its boundary -/

/-- A STEP.END that breaks no rule comes to its boundary, unless it stands there already (06 R191). -/
def reachEnd (die q : Nat) : Eff :=
  .get fun s => Eff.when (!(queueOf s die q).atEnd)
    (modQueue die q fun u => { u with atEnd := true, endAt := s.cc + 1, endSkipped := false })

theorem keeps_reachEnd {die q : Nat} : (reachEnd die q).Keeps [.queues] [] :=
  keeps_get fun _ => keeps_when fun _ => keeps_modQueue (by decide)

theorem queueOf_reachEnd (die q : Nat) (s : State) :
    queueOf ((reachEnd die q).run s) die q =
      if (queueOf s die q).atEnd then queueOf s die q
      else { queueOf s die q with atEnd := true, endAt := s.cc + 1, endSkipped := false } := by
  cases h : (queueOf s die q).atEnd <;> simp [reachEnd, h, queueOf_modQueue]

theorem reachEnd_other {die q k : Nat} (h : k ≠ qKey die q) (s : State) :
    mget {} ((reachEnd die q).run s).cp.queues k = mget {} s.cp.queues k := by
  cases hu : (queueOf s die q).atEnd <;> simp [reachEnd, hu, modQueue, mget_mset_ne _ _ h]

/-- At its boundary a queue has the step, and a skip of its STEP.END, that it had. -/
theorem reachEnd_atEnd (die q : Nat) (s : State) : let v := queueOf ((reachEnd die q).run s) die q
    v.atEnd = true ∧ v.step = (queueOf s die q).step ∧
      v.endSkipped = ((queueOf s die q).atEnd && (queueOf s die q).endSkipped) := by
  cases h : (queueOf s die q).atEnd <;> simp [queueOf_reachEnd, h]

theorem reachEnd_leaves (die q : Nat) (s : State) : let u := (reachEnd die q).run s
    flightsOf u die q = flightsOf s die q ∧ slotsOf u die q = slotsOf s die q ∧ u.cp.released = s.cp.released ∧
      u.cc = s.cc ∧ u.flags = s.flags ∧ u.cp.signals = s.cp.signals := by
  intro u
  have ho : OnlyChanges [.queues] [] s u := keeps_reachEnd s
  have hflights : u.cp.flights = s.cp.flights := ho.part .flights (by decide)
  have hslots : u.cp.slots = s.cp.slots := ho.part .slots (by decide)
  exact ⟨by rw [flightsOf, hflights, flightsOf], by rw [slotsOf, hslots, slotsOf], ho.released (by decide),
    ho.part .cc (by decide), ho.part .flags (by decide), ho.part .signals (by decide)⟩

section
variable {s : State} {die q : Nat} {d : Desc}

theorem settleEnd_run (hd : atHead s die q = some d) (hi : (queueOf s die q).lastIssue ≠ s.cc + 1)
    (hw : openWaits (flagSeen s) d (queueOf s die q).step = []) : (settleEnd die q).run s = s := by
  simp [settleEnd, hd, hi, hw]

/-- A STEP.END at the head, its waits satisfied, comes to its boundary and goes on from there if it may. -/
theorem stepEndRow_run (hd : atHead s die q = some d) (hop : dOpcode d = 0xF0)
    (hi : (queueOf s die q).lastIssue ≠ s.cc + 1) (hw : openWaits (flagSeen s) d (queueOf s die q).step = [])
    (hv : (queueOf s die q).atEnd = false → allViols s die q d = []) :
    (stepEndRow die q).run s = (stepProceed die q).run ((reachEnd die q).run s) := by
  rw [stepEndRow, Eff.run_seq, settleEnd_run hd hi hw]
  cases h : (queueOf s die q).atEnd with
  | true => simp [hd, hop, h, reachEnd]
  | false => simp [hd, hop, h, hw, hv h, firstViol, reachEnd]

theorem slotsOf_of_atHead (hd : atHead s die q = some d) : ∃ rest, slotsOf s die q = d :: rest := by
  simp only [atHead] at hd
  split at hd
  · exact (List.head?_eq_some_iff).1 hd
  · cases hd

/-! ## The barrier at STEP.END -/

theorem stepProceed_stays (h : ¬ (flightsOf s die q = [] ∧ (queueOf s die q).step + 1 < s.cp.released)) :
    (stepProceed die q).run s = s := by
  have hc : ((queueOf s die q).atEnd && (flightsOf s die q).isEmpty &&
      decide ((queueOf s die q).step + 1 < s.cp.released)) = false := by
    rw [Bool.and_assoc, Bool.and_eq_false_imp]
    intro _
    rw [Bool.eq_false_iff]
    intro hgo
    rw [Bool.and_eq_true, List.isEmpty_iff, decide_eq_true_eq] at hgo
    exact h hgo
  rw [stepProceed, Eff.run_get]
  split
  · rfl
  · simp [hc]

/-- A queue past its boundary: it counts a step and starts its stream again. -/
def nextStep (die q : Nat) (rest : List Desc) : Eff :=
  .get fun s => .seq
    (modQueue die q fun u =>
      { u with step := u.step + 1, head := 0, atEnd := false, endSkipped := false, lastIssue := s.cc + 1 })
    (modCp fun c => { c with slots := mset [] c.slots (qKey die q) rest })

theorem keeps_nextStep {rest : List Desc} : (nextStep die q rest).Keeps [.queues, .slots] [] := by
  refine keeps_get fun s => keeps_seq (keeps_modQueue (by decide)) ?_
  refine keeps_modCp ?_ (.inl (by decide)) ?_ ?_ ?_ ?_ ?_ <;> exact .inr fun _ => rfl

theorem queueOf_nextStep (rest : List Desc) : queueOf ((nextStep die q rest).run s) die q =
    { queueOf s die q with
      step := (queueOf s die q).step + 1, head := 0, atEnd := false, endSkipped := false, lastIssue := s.cc + 1 } := by
  simp [nextStep, modQueue, queueOf]

theorem slotsOf_nextStep (rest : List Desc) : slotsOf ((nextStep die q rest).run s) die q = rest := by
  simp [nextStep, slotsOf]

/-- A queue that goes on: it counts a step, its STEP.END leaves its slot, and its signals leave unless a skip has sent
them. -/
theorem stepProceed_goes {rest : List Desc} (hs : slotsOf s die q = d :: rest) (he : (queueOf s die q).atEnd = true)
    (hf : flightsOf s die q = []) (hr : (queueOf s die q).step + 1 < s.cp.released) :
    let t := (stepProceed die q).run s
    queueOf t die q = { queueOf s die q with
      step := (queueOf s die q).step + 1, head := 0, atEnd := false, endSkipped := false, lastIssue := s.cc + 1 } ∧
    slotsOf t die q = rest ∧
    ((queueOf s die q).endSkipped = true → t.flags = s.flags ∧ t.cp.signals = s.cp.signals) ∧
    ((queueOf s die q).endSkipped = false → Signalled die d s t) ∧
    OnlyChanges (signalParts ++ [.queues, .slots]) (flagRegs die) s t := by
  intro t
  have ht : t = (Eff.when (!(queueOf s die q).endSkipped) (sendSignals die d)).run ((nextStep die q rest).run s) := by
    simp [t, stepProceed, nextStep, hs, he, hf, hr]
  have hqueue := queueOf_nextStep (s := s) (die := die) (q := q) rest
  have hslot := slotsOf_nextStep (s := s) (die := die) (q := q) rest
  have h1 := keeps_nextStep (die := die) (q := q) (rest := rest) s
  generalize (nextStep die q rest).run s = u at ht hqueue hslot h1
  have hflags : u.flags = s.flags := h1.part .flags (by decide)
  have hsignals : u.cp.signals = s.cp.signals := h1.part .signals (by decide)
  have h2 : OnlyChanges signalParts (flagRegs die) u t :=
    ht ▸ keeps_when (fun _ => keeps_sendSignals (List.Subset.refl _) (List.Subset.refl _)) u
  refine ⟨?_, ?_, fun hk => ?_, fun hk => ?_,
    (h1.mono (by decide) (List.nil_subset _)).trans (h2.mono (by decide) (List.Subset.refl _))⟩
  · rw [← hqueue, queueOf, h2.part .queues (by decide), queueOf]
  · rw [← hslot, slotsOf, h2.part .slots (by decide), slotsOf]
  · rw [ht, hk]; exact ⟨hflags, hsignals⟩
  · rw [ht, hk]; exact (sendSignals_signalled die d u).congr hflags hsignals

/-! ## The row of STEP.END -/

theorem keeps_startDeadline : startDeadline.Keeps [.cpRest] [] := by
  refine keeps_get fun s => keeps_when fun _ => ?_
  refine keeps_modCp ?_ ?_ ?_ ?_ ?_ ?_ (.inl (by decide)) <;> exact .inr fun _ => rfl

/-- The row of STEP.END changes no more than the row without its deadline does, but for the deadline. -/
theorem exec_stepEnd (die : Fin 4) (q : Fin 16) (s : State) : ∃ t, exec (.stepEnd die q) s = .next t ∧
    OnlyChanges [.cpRest] [] ((stepEndRow die q).run s) t :=
  ⟨_, rfl, keeps_when (fun _ => keeps_startDeadline) _⟩

end

section
variable {die : Fin 4} {q : Fin 16} {d : Desc} {s : State} (hd : atHead s die q = some d) (hop : dOpcode d = 0xF0)
  (hi : (queueOf s die q).lastIssue ≠ s.cc + 1) (hw : openWaits (flagSeen s) d (queueOf s die q).step = [])
  (hv : (queueOf s die q).atEnd = false → allViols s die q d = [])
include hd hop hi hw hv

/-- STEP.END stays at the head of its queue while a command of it is in flight or the next step is not released. -/
theorem stepEnd_waits
    (h : ¬ (flightsOf s die q = [] ∧ (queueOf s die q).step + 1 < s.cp.released)) :
    Does (.stepEnd die q) s [.queues, .cpRest] [] fun t =>
      queueOf t die q = (if (queueOf s die q).atEnd then queueOf s die q
        else { queueOf s die q with atEnd := true, endAt := s.cc + 1, endSkipped := false }) ∧
      ∀ k, k ≠ qKey die q → mget {} t.cp.queues k = mget {} s.cp.queues k := by
  obtain ⟨t, ht, hdl⟩ := exec_stepEnd die q s
  obtain ⟨-, hstep, -⟩ := reachEnd_atEnd die q s
  obtain ⟨hflights, -, hreleased, -⟩ := reachEnd_leaves die q s
  have ho := keeps_reachEnd (die := die) (q := q) s
  rw [stepEndRow_run hd hop hi hw hv, stepProceed_stays (by rwa [hflights, hstep, hreleased])] at hdl
  have hqs : t.cp.queues = ((reachEnd die q).run s).cp.queues := hdl.part .queues (by decide)
  refine ⟨t, ht, ⟨?_, fun k hk => ?_⟩, (ho.mono (by decide) (by simp)).trans (hdl.mono (by decide) (by simp))⟩
  · rw [← queueOf_reachEnd, queueOf, hqs, queueOf]
  · rw [hqs, reachEnd_other hk]

/-- STEP.END lets its stream start again once no command of its queue is in flight and the next step is released. -/
theorem stepEnd_goes (hf : flightsOf s die q = [])
    (hr : (queueOf s die q).step + 1 < s.cp.released) :
    Does (.stepEnd die q) s (signalParts ++ [.queues, .slots, .cpRest]) (flagRegs die) fun t =>
      (queueOf t die q).step = (queueOf s die q).step + 1 ∧ (queueOf t die q).head = 0 ∧
      (queueOf t die q).atEnd = false ∧ (queueOf t die q).lastIssue = s.cc + 1 ∧
      slotsOf t die q = (slotsOf s die q).drop 1 ∧
      (((queueOf s die q).atEnd && (queueOf s die q).endSkipped) = true →
        t.flags = s.flags ∧ t.cp.signals = s.cp.signals) ∧
      (((queueOf s die q).atEnd && (queueOf s die q).endSkipped) = false → Signalled die d s t) := by
  obtain ⟨t, ht, hdl⟩ := exec_stepEnd die q s
  obtain ⟨rest, hslots⟩ := slotsOf_of_atHead hd
  obtain ⟨hend, hstep, hskip⟩ := reachEnd_atEnd die q s
  obtain ⟨hflights, hleft, hreleased, hcc, hflags, hsignals⟩ := reachEnd_leaves die q s
  have ho := keeps_reachEnd (die := die) (q := q) s
  rw [stepEndRow_run hd hop hi hw hv] at hdl
  generalize (reachEnd die q).run s = u at *
  obtain ⟨hqueue, hrest, hsent, hnew, hgo⟩ := stepProceed_goes (hleft.trans hslots) hend (hflights.trans hf)
    (by rwa [hstep, hreleased])
  generalize (stepProceed die q).run u = w at *
  have hq : queueOf t die q = queueOf w die q := by rw [queueOf, hdl.part .queues (by decide), queueOf]
  have hsl : slotsOf t die q = slotsOf w die q := by rw [slotsOf, hdl.part .slots (by decide), slotsOf]
  have hfl : t.flags = w.flags := hdl.part .flags (by decide)
  have hsg : t.cp.signals = w.cp.signals := hdl.part .signals (by decide)
  rw [← hskip]
  refine ⟨t, ht, ⟨?_, ?_, ?_, ?_, ?_, fun hk => ?_, fun hk => ?_⟩,
    ((ho.mono (by decide) (List.nil_subset _)).trans (hgo.mono (by decide) (List.Subset.refl _))).trans
      (hdl.mono (by decide) (List.nil_subset _))⟩
  · rw [hq, hqueue, hstep]
  · rw [hq, hqueue]
  · rw [hq, hqueue]
  · rw [hq, hqueue, hcc]
  · rw [hsl, hrest, hslots, List.drop_one, List.tail_cons]
  · rw [hfl, hsg, ← hflags, ← hsignals]; exact hsent hk
  · simpa only [Signalled, hfl, hsg] using (hnew hk).congr hflags hsignals

end

/-! ## Fetching -/

section
variable {ps : List Part} {rs : List RegAt}

theorem keeps_armPrefetch {m n : Nat} {x : TDesc} {first rows limit : Nat} (h1 : Part.msRest ∈ ps) (h2 : Part.loam ∈ ps) :
    (armPrefetch m n x first rows limit).Keeps ps rs :=
  keeps_get fun _ => keeps_modMs (.inr fun _ => rfl) h1 (.inl h2)

theorem keeps_sendHint {x : TDesc} (h1 : Part.msRest ∈ ps) (h2 : Part.loam ∈ ps) : (sendHint x).Keeps ps rs := by
  refine keeps_each fun m => keeps_get fun s => ?_
  dsimp only
  split
  · exact keeps_skip
  · exact keeps_when fun _ => keeps_armPrefetch h1 h2

theorem keeps_intoSlot {die q : Nat} {d : Desc} (hp : Part.slots ∈ ps) : (intoSlot die q d).Keeps ps rs := by
  refine keeps_get fun s => ?_
  refine keeps_modCp ?_ (.inl hp) ?_ ?_ ?_ ?_ ?_ <;> exact .inr fun _ => rfl

end

/-- Sending hints changes the count of the commands considered for them, in one queue, and the prefetchers. -/
theorem sendHints_run (die q : Nat) (s : State) : let t := (sendHints die q).run s
    queueOf t die q = { queueOf s die q with hintTo := (queueOf t die q).hintTo } ∧
      (∀ k, k ≠ qKey die q → mget {} t.cp.queues k = mget {} s.cp.queues k) ∧
      OnlyChanges [.queues, .msRest, .loam] [] s t := by
  intro t
  obtain ⟨n, u, hu, h2⟩ : ∃ n u, u = (modQueue die q fun x => { x with hintTo := n }).run s ∧
      OnlyChanges [.msRest, .loam] [] u t :=
    ⟨_, _, rfl, keeps_each (fun _ => keeps_sendHint (by decide) (by decide)) _⟩
  have h1 : OnlyChanges [.queues] [] s u := hu ▸ keeps_modQueue (by decide) s
  have hqueues : t.cp.queues = u.cp.queues := h2.part .queues (by decide)
  have hqueue : queueOf t die q = { queueOf s die q with hintTo := n } := by
    rw [queueOf, hqueues, hu]
    exact queueOf_modQueue die q _ s
  refine ⟨by rw [hqueue], fun k hk => ?_, (h1.mono (by decide) (List.Subset.refl _)).trans (h2.mono (by decide)
    (List.Subset.refl _))⟩
  rw [hqueues, hu]
  exact modQueue_other hk _ s

/-- From a line that is not marked the 64 bytes there come into the next slot of the queue. -/
theorem fetchFrom_run {a : Nat} {s : State} (h : firstMarked s [(a, 64)] = none) (die q pos : Nat) :
    let t := (fetchFrom die q pos a).run s
    slotsOf t die q = slotsOf s die q ++ [BitVec.ofNat 512 (rdNat s.mem a 64)] ∧
      (∀ k, k ≠ qKey die q → mget [] t.cp.slots k = mget [] s.cp.slots k) ∧ OnlyChanges [.slots, .loam] [] s t := by
  intro t
  have ht : t = (Eff.seq (demand [(a, 64)]) (intoSlot die q (BitVec.ofNat 512 (rdNat s.mem a 64)))).run s := by
    simp [t, fetchFrom, h]
  rw [ht]
  refine ⟨?_, fun k hk => ?_, keeps_seq (keeps_demand (by decide)) (keeps_intoSlot (by decide)) s⟩
  · simp [intoSlot, slotsOf]
  · simp [intoSlot, mget_mset_ne _ _ hk]

/-- With a free slot and a line on no channel under test, a fetch reads the line and then sends hints. -/
theorem fetchRow_run {die q a : Nat} {s : State}
    (ha : (queueOf s die q).base +
      64 * (((queueOf s die q).head + (slotsOf s die q).length) % (queueOf s die q).len) = a)
    (hl : progLoaded s = true) (hlen : 0 < (queueOf s die q).len)
    (hroom : (slotsOf s die q).length + (flightsOf s die q).length < 512) (htest : underTest s a 64 = false) :
    (fetchRow die q).run s = (sendHints die q).run
      ((fetchFrom die q (((queueOf s die q).head + (slotsOf s die q).length) % (queueOf s die q).len) a).run s) := by
  simp [fetchRow, hl, hlen, hroom, ha, htest]

/-- The next command of a stream comes into a slot of its queue. -/
theorem commandFetch_fills {die : Fin 4} {q : Fin 16} {a : Nat} {s : State}
    (ha : (queueOf s die q).base +
      64 * (((queueOf s die q).head + (slotsOf s die q).length) % (queueOf s die q).len) = a)
    (hl : progLoaded s = true) (hlen : 0 < (queueOf s die q).len)
    (hroom : (slotsOf s die q).length + (flightsOf s die q).length < 512) (htest : underTest s a 64 = false)
    (hmark : firstMarked s [(a, 64)] = none) :
    Does (.commandFetch die q) s [.slots, .queues, .msRest, .loam] [] fun t =>
      slotsOf t die q = slotsOf s die q ++ [BitVec.ofNat 512 (rdNat s.mem a 64)] ∧
      queueOf t die q = { queueOf s die q with hintTo := (queueOf t die q).hintTo } ∧
      ∀ k, k ≠ qKey die q → mget [] t.cp.slots k = mget [] s.cp.slots k ∧
        mget {} t.cp.queues k = mget {} s.cp.queues k := by
  have hrun := fetchRow_run ha hl hlen hroom htest
  obtain ⟨hslot, hother, h1⟩ := fetchFrom_run hmark die q
    (((queueOf s die q).head + (slotsOf s die q).length) % (queueOf s die q).len)
  generalize (fetchFrom die q _ a).run s = u at *
  obtain ⟨hqueue, hqueues, h2⟩ := sendHints_run die q u
  generalize (sendHints die q).run u = t at *
  have hs : t.cp.slots = u.cp.slots := h2.part .slots (by decide)
  have hq : u.cp.queues = s.cp.queues := h1.part .queues (by decide)
  refine ⟨t, congrArg Host.Outcome.next hrun, ⟨?_, ?_, fun k hk => ⟨?_, ?_⟩⟩,
    (h1.mono (by decide) (List.Subset.refl _)).trans (h2.mono (by decide) (List.Subset.refl _))⟩
  · rw [slotsOf, hs, ← slotsOf, hslot]
  · rw [queueOf, queueOf, ← hq]; exact hqueue
  · rw [hs, hother k hk]
  · rw [hqueues k hk, hq]

/-- Settles O17: a STEP.END comes to its boundary and waits or goes on there; a fetch fills a slot and sends hints. -/
theorem streamsAdvance : Obligations.StreamsAdvance := by
  unfold Obligations.StreamsAdvance
  refine ⟨fun die q d s => ?_, fun die q s => ?_⟩
  · intro u hd hop hi hw hv
    exact ⟨stepEnd_waits hd hop hi hw hv, stepEnd_goes hd hop hi hw hv⟩
  · intro u a hl hlen hroom htest hmark
    exact commandFetch_fills rfl hl hlen hroom htest hmark

end Sys2Proof.Machine
end

section
/-!
PROOFS. Step parameter blocks (07 R257, R258): what a write to SEAL does while no block is pending and while one is, and the
host's deadline. Before them, what they share with others: the cc that passing time leaves, a fault bit that two dies share,
and a record that enters its path.
-/
namespace Sys2Proof.Machine

/-! ## Passing time -/

/-- Counting moves registers and stall counts, and no clock. -/
theorem keeps_countCc_regs {n : Nat} : (countCc n).Keeps [.regs, .umbra] timeRegs := by
  have hregs : Part.regs ∈ [Part.regs, Part.umbra] := by decide
  refine keeps_get fun s => keeps_all_cons (keeps_when fun _ => keeps_seq ?_ ?_)
    (keeps_all_cons (keeps_when fun _ => keeps_incFld hregs (.inr (by decide))) keeps_all_nil)
  · exact keeps_each_mem fun k hk => keeps_countUnit hk hregs (List.Subset.refl _)
  · refine keeps_get fun s => keeps_modCp ?_ ?_ ?_ ?_ ?_ (.inl (by decide)) ?_ <;> exact .inr fun _ => rfl

@[simp] theorem cc_countCc (n : Nat) (s : State) : ((countCc n).run s).cc = s.cc :=
  (keeps_countCc_regs s).part .cc (by decide)

theorem cc_advance (n : Nat) (s : State) : ((advance n).run s).cc = s.cc + n := by
  match n with
  | 0 => rfl
  | 1 => simp [advance]
  | m + 2 => simp [advance]; omega

/-- Time passes up to a cc that is still to come, and never back. -/
theorem cc_advanceTo (c : Nat) (s : State) : ((advanceTo c).run s).cc = max s.cc c := by
  rw [advanceTo, Eff.run_get, cc_advance]
  omega

/-! ## Bits of registers -/

theorem testBit_putBits_one (w b : Nat) : (putBits w b b 1).testBit b = true := by
  have hput : putBits w b b 1 = w - 2 ^ b * (w / 2 ^ b % 2) + 2 ^ b := by
    simp [putBits, bits, Nat.shiftRight_eq_div_pow, Nat.mul_comm]
  have hdiv : putBits w b b 1 / 2 ^ b = w / 2 ^ b - w / 2 ^ b % 2 + 1 := by
    rw [hput, Nat.add_div_right _ (Nat.two_pow_pos b), Nat.sub_mul_div]
  rw [Nat.testBit_eq_decide_div_mod_eq, hdiv, decide_eq_true_eq]
  omega

/-- A write of 1 to a field of one bit sets it. -/
theorem rbit_putR_one {r : RegName} {b : Nat} (hb : b < r.info.width) (die idx : Nat) (s : State) :
    rbit ((putR r die idx b b 1).run s) r die idx b = true := by
  simp [rbit, rget_run_reg, Nat.testBit_mod_two_pow, hb, testBit_putBits_one]

/-- Setting a bit of a register at one die leaves it set wherever it was. -/
theorem rbit_setBit {r : RegName} {b : Nat} (hb : b < r.info.width) (d d' : Nat) (s : State) :
    rbit ((modR r d 0 fun w => w ||| 2 ^ b).run s) r d' 0 b = (decide (d' % 16 = d % 16) || rbit s r d' 0 b) := by
  by_cases h : d' % 16 = d % 16 <;> simp [rbit, rget_run_reg, h, Nat.testBit_mod_two_pow, hb]

/-- Setting a fault bit that two dies share sets it on both. -/
theorem rbit_setFaultBoth {r : RegName} {b : Nat} (hb : b < r.info.width) (d1 d2 : Nat) (s : State) :
    let t := (setFaultBoth r d1 d2 b).run s
    rbit t r d1 0 b = true ∧ rbit t r d2 0 b = true := by
  simp only [setFaultBoth, Eff.run_get, Eff.all_cons, Eff.all_nil, Eff.run_seq, Eff.run_skip, rbit_setBit hb]
  simp

/-! ## Records -/

/-- A record comes last into a path with room, where no filter thins it. -/
theorem wrote_emit (typ src : Nat) (items : List Item) (s : State) : Wrote typ src s ((emit typ src items).run s) := by
  intro hfilters hroom
  have hlen : (mget [] s.recd.paths src).length < if protectedType typ then 64 else 56 := by split <;> omega
  simp [emit, emitBytes, throughFilter, pathRecord, hfilters, hlen]

theorem Wrote.congr {typ src : Nat} {s s' t t' : State} (h : Wrote typ src s t) (hs : s'.recd = s.recd)
    (himg : s'.img = s.img) (ht : t'.recd = t.recd) : Wrote typ src s' t' := by
  unfold Wrote at h ⊢
  rwa [hs, himg, ht]

/-- A fault bit of the update engines is set on both M-dies, and its record follows. -/
theorem updFault_recorded {b : Nat} (hb : b < RegName.UPD_FAULT.info.width) (typ : Nat) (items : List Item) (s : State) :
    let t := (emit typ 4 items).run ((setFaultBoth .UPD_FAULT 4 5 b).run s)
    rbit t .UPD_FAULT 4 0 b = true ∧ rbit t .UPD_FAULT 5 0 b = true ∧ Wrote typ 4 s t ∧
      OnlyChanges recParts (alsoRegs recRegs [(.UPD_FAULT, 4, some 0), (.UPD_FAULT, 5, some 0)]) s t := by
  intro t
  obtain ⟨h4, h5⟩ := rbit_setFaultBoth hb 4 5 s
  have hfault : OnlyChanges [.regs, .raised] [(.UPD_FAULT, 4, some 0), (.UPD_FAULT, 5, some 0)] s
      ((setFaultBoth .UPD_FAULT 4 5 b).run s) :=
    keeps_setFaultBoth (by decide) (by decide) (.inr (by decide)) (.inr (by decide)) s
  have hemit : OnlyChanges recParts recRegs _ t := keeps_emit (List.Subset.refl _) (List.Subset.refl _) _
  have hwrote : Wrote typ 4 _ t := wrote_emit typ 4 items _
  generalize (setFaultBoth .UPD_FAULT 4 5 b).run s = u at *
  have hbit (die : Nat) (hd : die < 16) (h : rbit u .UPD_FAULT die 0 b = true) : rbit t .UPD_FAULT die 0 b = true := by
    rw [rbit, hemit.reg hd (by decide) (by simp [recRegs]) (by simp [recRegs])]
    exact h
  refine ⟨hbit 4 (by decide) h4, hbit 5 (by decide) h5, ?_, ?_⟩
  · exact hwrote.congr (hfault.part .recd (by decide)).symm (hfault.part .img (by decide)).symm rfl
  · exact (hfault.mono (by decide) (List.subset_append_right _ _)).trans
      (hemit.mono (List.Subset.refl _) (List.subset_append_left _ _))

/-! ## The seal -/

theorem keeps_setDeadline {n : Nat} : (modCp fun c => { c with deadline := n }).Keeps [.cpRest] [] := by
  refine keeps_modCp ?_ ?_ ?_ ?_ ?_ ?_ (.inl (by decide)) <;> exact .inr fun _ => rfl

/-- A block is sealed: the staged block becomes the pending one, and the deadline's interval is over. -/
def takeStaged : Eff :=
  Eff.all [modUpd fun u => { u with pending := u.staging }, putR .UPD_STATUS 4 0 28 28 1,
    modCp fun c => { c with deadline := 0 }]

theorem sealSpb_run_taken {s : State} (h : spbPending s = false) : sealSpb.run s = takeStaged.run s := by
  simp [sealSpb, takeStaged, h]

theorem sealSpb_run_refused {s : State} (h : spbPending s = true) :
    sealSpb.run s = (emit 0x0441 4 (updItems s (s.cp.released - 1) none none none none)).run
      ((setFaultBoth .UPD_FAULT 4 5 1).run s) := by
  simp [sealSpb, h]

theorem keeps_takeStaged : takeStaged.Keeps [.upd, .regs, .cpRest] [(.UPD_STATUS, 4, some 0)] :=
  keeps_all_cons (keeps_modUpd (by decide)) (keeps_all_cons (keeps_putR (by decide) (.inr (by decide)))
    (keeps_all_cons (keeps_setDeadline.mono (by decide) (List.nil_subset _)) keeps_all_nil))

/-- Sealing sets PENDING. -/
theorem spbPending_takeStaged (s : State) : spbPending (takeStaged.run s) = true :=
  rbit_putR_one (r := .UPD_STATUS) (b := 28) (by decide) 4 0 ((modUpd fun u => { u with pending := u.staging }).run s)

/-- While none is pending, the staged block becomes the pending one. -/
theorem sealBlock_takes {s : State} (h : spbPending s = false) :
    Does .sealBlock s [.upd, .regs, .cpRest] [(.UPD_STATUS, 4, some 0)] fun t =>
      t.upd.pending = s.upd.staging ∧ spbPending t = true ∧ t.cp.deadline = 0 :=
  ⟨takeStaged.run s, congrArg Host.Outcome.next (sealSpb_run_taken h), ⟨rfl, spbPending_takeStaged s, rfl⟩,
    keeps_takeStaged s⟩

/-- While one is pending, a seal is refused: the fault bit on both M-dies, a record, and nothing copied. -/
theorem sealBlock_refuses {s : State} (h : spbPending s = true) :
    Does .sealBlock s recParts (alsoRegs recRegs [(.UPD_FAULT, 4, some 0), (.UPD_FAULT, 5, some 0)]) fun t =>
      t.upd = s.upd ∧ spbPending t = true ∧ rbit t .UPD_FAULT 4 0 1 = true ∧ rbit t .UPD_FAULT 5 0 1 = true ∧
        Wrote 0x0441 4 s t := by
  obtain ⟨h4, h5, hwrote, honly⟩ :=
    updFault_recorded (b := 1) (by decide) 0x0441 (updItems s (s.cp.released - 1) none none none none) s
  refine ⟨_, congrArg Host.Outcome.next (sealSpb_run_refused h), ⟨honly.part .upd (by decide), ?_, h4, h5, hwrote⟩, honly⟩
  rw [spbPending, rbit, honly.reg (die := 4) (idx := 0) (by decide) (by decide) (by decide) (by decide)]
  exact h

/-! ## The deadline -/

/-- The next block is late: the fault bit on both M-dies and a record; no further one is due. -/
def reportLate : Eff :=
  Eff.all [setFaultBoth .UPD_FAULT 4 5 2,
    .get fun s => emit 0x0442 4 (updItems s (s.cp.released - 1) none none none none),
    modCp fun c => { c with deadline := 0 }]

theorem deadlineExpire_run {s : State} {us : Nat} (hus : rfld s .UPD_SPB_DEADLINE 4 0 31 0 = us)
    (hset : s.cp.deadline ≠ 0) (hon : us ≠ 0) (hnone : spbPending s = false) :
    deadlineExpire.run s = reportLate.run ((advanceTo (s.cp.deadline - 1 + 1750 * us)).run s) := by
  have hgo : (s.cp.deadline != 0 && us != 0 && !spbPending s) = true := by simp [hset, hon, hnone]
  rw [deadlineExpire, Eff.run_get, hus]
  dsimp only
  rw [hgo]
  rfl

theorem reportLate_run (u : State) : let t := reportLate.run u
    rbit t .UPD_FAULT 4 0 2 = true ∧ rbit t .UPD_FAULT 5 0 2 = true ∧ t.cp.deadline = 0 ∧ Wrote 0x0442 4 u t ∧
      OnlyChanges (recParts ++ [.cpRest]) (alsoRegs recRegs [(.UPD_FAULT, 4, some 0), (.UPD_FAULT, 5, some 0)]) u t := by
  obtain ⟨h4, h5, hwrote, honly⟩ := updFault_recorded (b := 2) (by decide) 0x0442
    (let v := (setFaultBoth .UPD_FAULT 4 5 2).run u; updItems v (v.cp.released - 1) none none none none) u
  exact ⟨h4, h5, rfl, hwrote, (honly.mono (by decide) (List.Subset.refl _)).trans
    (keeps_setDeadline.mono (by decide) (List.nil_subset _) _)⟩

/-- The deadline runs out while no block is pending: the fault bit on both M-dies, a record, and the interval is over. -/
theorem spbDeadline_expires {s : State} {us : Nat} (hus : rfld s .UPD_SPB_DEADLINE 4 0 31 0 = us)
    (hset : s.cp.deadline ≠ 0) (hon : us ≠ 0) (hnone : spbPending s = false) :
    Does .spbDeadlineExpire s (timeParts ++ recParts ++ [.cpRest])
      (alsoRegs (alsoRegs timeRegs recRegs) [(.UPD_FAULT, 4, some 0), (.UPD_FAULT, 5, some 0)]) fun t =>
      rbit t .UPD_FAULT 4 0 2 = true ∧ rbit t .UPD_FAULT 5 0 2 = true ∧ t.cp.deadline = 0 ∧ Wrote 0x0442 4 s t ∧
        t.cc = max s.cc (s.cp.deadline - 1 + 1750 * us) := by
  have hrun := deadlineExpire_run hus hset hon hnone
  have hcc := cc_advanceTo (s.cp.deadline - 1 + 1750 * us) s
  have htime : OnlyChanges timeParts timeRegs s ((advanceTo (s.cp.deadline - 1 + 1750 * us)).run s) :=
    keeps_advanceTo (List.Subset.refl _) (List.Subset.refl _) s
  generalize (advanceTo (s.cp.deadline - 1 + 1750 * us)).run s = u at *
  obtain ⟨h4, h5, hdeadline, hwrote, hlate⟩ := reportLate_run u
  refine ⟨_, congrArg Host.Outcome.next hrun, ⟨h4, h5, hdeadline, ?_, (hlate.part .cc (by decide)).trans hcc⟩, ?_⟩
  · exact hwrote.congr (htime.part .recd (by decide)).symm (htime.part .img (by decide)).symm rfl
  · rw [alsoRegs, alsoRegs, List.append_assoc, List.append_assoc]
    exact (htime.mono (List.subset_append_left _ _) (List.subset_append_left _ _)).trans
      (hlate.mono (List.subset_append_right _ _) (List.subset_append_right _ _))

/-- Settles O31: a seal copies the staged block or, while one is pending, is refused; the deadline sets its fault bit. -/
theorem stepBlocksAreSealed : Obligations.StepBlocksAreSealed := by
  unfold Obligations.StepBlocksAreSealed
  refine ⟨fun s => ⟨sealBlock_takes, fun h => ?_⟩, fun s => ?_⟩
  · obtain ⟨t, ht, ⟨hupd, hpending, h4, h5, hwrote⟩, honly⟩ := sealBlock_refuses h
    exact ⟨t, ht, ⟨hupd, hpending, h4, h5, .inl hwrote⟩, honly⟩
  · intro us hset hon hnone
    obtain ⟨t, ht, ⟨h4, h5, hdeadline, hwrote, hcc⟩, honly⟩ := spbDeadline_expires rfl hset hon hnone
    exact ⟨t, ht, ⟨h4, h5, hdeadline, .inl hwrote, hcc⟩, honly⟩

end Sys2Proof.Machine
end
